-- ==== Sys2Proof/Word.lean ====
section
/-! DEFINITION. The word types of the AX740 (R19, R20, R120): bytes, 64-bit words, vector, mask and
address registers, and forwarding of nothing else. Everything here is plain bit vectors. -/

namespace Sys2Proof

/-- One byte of memory (R20). -/
abbrev Byte := BitVec 8

/-- A 64-bit scalar register, control register or slot word (R23). -/
abbrev Word := BitVec 64

/-- An FP32 or I32 lane, and a micro-word (R21, R251). -/
abbrev Lane32 := BitVec 32

/-- A 512-byte vector register (R23); bit 0 is bit 0 of byte 0 (R20). -/
abbrev VReg := BitVec 4096

/-- A 1,024-bit lane mask (R23). -/
abbrev MReg := BitVec 1024

/-- The writable part of an address register (R123): STEP, BANK and OFFSET; bits [63:32] read as zero. -/
abbrev AReg := BitVec 32

end Sys2Proof
end

