-- ==== Sys2Proof/Syntax.lean ====
section
/-! DEFINITION. The abstract syntax of the AX740's steps: one constructor of `Instr` for each row of
spec/opcode_table.json. Three kinds of row: slot instructions (R59), matrix micro-words (R60, R251), and the
indivisible steps of the machine that are no instruction (95_what_each_step_holds.md). -/

namespace Sys2Proof

/-- Element types (R21). Code 15 names no type (R22). -/
inductive ETy where
  | i4 | n4 | i8 | n8 | i16 | n16 | i32 | n32 | e2m1 | e4m3 | e5m2 | fp16 | bf16 | fp32 | e8m0
deriving DecidableEq, Repr

/-- Conditions of the X slot (R51). -/
inductive Cond where
  | eq | ne | lt | ge | le | gt | lo | hs | ls | hi
deriving DecidableEq, Repr

/-- Scopes (R51, R100). -/
inductive Scope where
  | ctx | core | cluster | die | pkg | sys
deriving DecidableEq, Repr

/-- Orders of a FENCE (R51). -/
inductive Ord where
  | acq | rel | ar | sc
deriving DecidableEq, Repr

/-- The forwarding-latch operand of a V slot (R53). -/
inductive Fls where
  | none | first | second
deriving DecidableEq, Repr

/-- The eight slots of a bundle in their fixed order (R36). -/
inductive Slot where
  | x | va | vb | m | l | s | c | y
deriving DecidableEq, Repr

/-- The second source of an X slot: a register (X-R) or the immediate (X-I) (R52). -/
inductive XSrc where
  | reg (r : BitVec 6)
  | imm (v : BitVec 32)
deriving DecidableEq, Repr

/-- The three forms of MOVA (R136). -/
inductive MovaForm where
  | toA (ad : BitVec 4) (sa : BitVec 6)
  | fromA (sd : BitVec 6) (aa : BitVec 4)
  | immA (ad : BitVec 4) (v : BitVec 32)
deriving DecidableEq, Repr

/-- The fields of the V format (R53). -/
structure VF where
  g   : BitVec 3
  opd : BitVec 11
  opa : BitVec 11
  opb : BitVec 11
  msk : BitVec 4
  ty  : ETy
  ro  : BitVec 2
  fls : Fls
  opx : BitVec 8
deriving DecidableEq, Repr

/-- The scratchpad operand block (R54): bank form or queue form. -/
inductive Spa where
  | bank (b : BitVec 4) (au : Bool) (an : BitVec 4) (inc : Bool) (off : BitVec 15)
  | queue (q : BitVec 4) (k : BitVec 8) (wait : BitVec 9)
deriving DecidableEq, Repr

/-- The fields of the L and S formats (R55); `opd` is OPD or OPS. -/
structure LF where
  g   : BitVec 3
  opd : BitVec 11
  sh  : BitVec 2
  sw  : Bool
  ty  : ETy
  opx : BitVec 9
  spa : Spa
deriving DecidableEq, Repr

/-- The fields every C-slot command shares (R56). `aq` and `rl` hold the scope when the flag is set. -/
structure CF where
  g   : BitVec 3
  tag : BitVec 6
  aq  : Option Scope
  rl  : Option Scope
  sh  : BitVec 2
  sw  : Bool
  sa  : BitVec 6
deriving DecidableEq, Repr

/-- The count of a QADV (R198). -/
inductive QCnt where
  | imm (k : BitVec 9)
  | reg (sb : BitVec 6)
deriving DecidableEq, Repr

/-- A party of the ordering machine whose view can advance (R96): a context or a command in flight. -/
inductive Party where
  | ctx (c : Nat)
  | cmd (id : Nat)
deriving DecidableEq, Repr

/-- A unit that can be retired (R400). -/
inductive HwUnit where
  | bench (d b : Nat)
  | channel (c : Nat)
  | port (p : Nat)
deriving DecidableEq, Repr

/-- Registers of aperture 1 that the host writes and that no other row of the table writes (R379, R394, R395, R407). -/
inductive ApReg where
  | qring (q : Nat)
  | qcfg (q : Nat)
  | qcomp (q : Nat)
  | qprog (q : Nat)
  | bootaddr
  | jobTag (asid : Nat)
deriving DecidableEq, Repr

/-- Registers of the device that the host reads through aperture 1 (R316, R326, R328, R336, R349, R379, R385, R389, R390, R394, R395,
R397, R400, R403, R407, R415). -/
inductive ApRead where
  | qring (q : Nat)
  | qcfg (q : Nat)
  | qbell (q : Nat)
  | qprog (q : Nat)
  | qcomp (q : Nat)
  | bootaddr
  | bootstat
  | dcfg
  | evbase (d : Nat)
  | fabcfg
  | budget (i : Nat)
  | arbw (d : Nat)
  | health (w : Nat)
  /-- Words 0 and 1 of an export entry. -/
  | exportEntry (i w : Nat)
  | jobTag (asid : Nat)
  | slip (d : Nat)
  /-- An entry of the slip ring, and of the relocation ring, the newest being number 0. -/
  | slipEntry (d i : Nat)
  | relocEntry (i w : Nat)
  /-- Words 0 and 1 of a capability entry by its key, and words 0 to 3 of its region record. -/
  | capEntry (key w : Nat)
  | regionRecord (key w : Nat)
  | expo (x : Nat)
  | corrected
  | serial
  | publicKey
  | certificate
deriving DecidableEq, Repr

/-- What a host load reads: memory through aperture 0, or a register of aperture 1 (R392). -/
inductive HostPlace where
  | mem (pa : Nat)
  | reg (r : ApRead)
deriving DecidableEq, Repr

/-- The token of a ring's handshake (R417): OP, COUNT, TY, MODE, EX, N, PROFILE and KEY. -/
structure RingToken where
  op    : Nat
  count : Nat
  ty    : Nat
  exact : Bool
  ex    : Nat
  n     : Nat
  prof  : Nat
  key   : Nat
deriving DecidableEq, Repr

/-- One step of the machine: a row of spec/opcode_table.json. A slot instruction's `g` is its stage guard (R48). -/
inductive Instr where
  -- steps of the core
  | fetchLineArrival (c : Nat)
  | tdwHeaderRead (c : Nat)
  | fenceComplete (c : Nat)
  -- steps of the ordering machine
  | commitPropagate (dom : Nat)
  | viewAdvance (p : Party) (sc : Scope) (pos : Nat)
  | tagWaitComplete (c : Nat)
  | swaitComplete (c : Nat)
  | swaitTimeout (c : Nat)
  | signalUpdate (id : Nat)
  | putqDelivery (id : Nat)
  -- pre-emption and benches
  | preemptRequest (c : Nat)
  | contextFreeze (c : Nat)
  | resourceRelease (c : Nat)
  | contextResume (c z : Nat)
  | priorityPreemption (q : Nat)
  | benchFailure (d b : Nat)
  | benchThrottle (d b : Nat)
  | benchPowerOn (d b : Nat)
  | benchPowerOff (d b : Nat)
  -- engines and translation
  | copyCommandStart (cluster : Nat)
  | commandCompletion (id : Nat)
  | pageFault (id : Nat)
  | faultRetry (id : Nat)
  | faultFail (id : Nat)
  | cmigPageArrival (id page : Nat)
  | kernelAdmission (q : Nat)
  | admissionHold (q : Nat)
  | gridCompletion (kid : Nat)
  | nmCommandArrival (id : Nat)
  | nmCommandStart (ch : Nat)
  | forwardedTick (id : Nat)
  | collStart (die : Nat)
  | collReady (id : Nat)
  | ringHandshake (id : Nat) (tok : RingToken)
  | ringStep (id : Nat) (recv : Option (List (BitVec 65)))
  | collDelivery (id : Nat)
  | ringAbort (id : Nat)
  | collTimeout (id : Nat)
  | linkQueueDeliver (plane dev : Nat)
  | remoteAccess (wr : Bool) (exp off job n : Nat) (data : Nat)
  | remoteTimeout (id : Nat)
  | flitCrcError (port : Nat)
  | ackTimeout (port : Nat)
  | linkRetrain (port : Nat)
  -- host and command processor
  | qbellWrite (q : Nat) (v : BitVec 64)
  | launchCommand (q : Nat)
  | wait (q : Nat)
  | waitSatisfied (q : Nat)
  | signalCommand (q : Nat)
  | expclose (q : Nat)
  | expset (q : Nat)
  | inval (q : Nat)
  | asidBind (q : Nat)
  | asidRelease (q : Nat)
  | capCreate (q : Nat)
  | capRevoke (q : Nat)
  | revocationComplete (handle : BitVec 32)
  | attest (q : Nat)
  | preempt (q : Nat)
  | resumeCommand (q : Nat)
  | abort (q : Nat)
  | cresume (q : Nat)
  | dcfgWrite (v : BitVec 64)
  | evbaseWrite (d : Nat) (v : BitVec 64)
  | fabcfgWrite (v : BitVec 64)
  | arbwWrite (d : Nat) (v : BitVec 64)
  | budgetWrite (i : Nat) (v : BitVec 64)
  | registerWrite (r : ApReg) (v : BitVec 64)
  | patrolScrub (ch : Nat)
  | bootImageCheck (len : Nat)
  | eccError (loc : Nat) (correctable : Bool)
  | unitRetirement (u : HwUnit)
  | hostStore (pa n val : Nat)
  | hostLoad (p : HostPlace) (n : Nat)
  -- X slot
  | add (g : BitVec 3) (sd sa : BitVec 6) (b : XSrc)
  | sub (g : BitVec 3) (sd sa : BitVec 6) (b : XSrc)
  | mul (g : BitVec 3) (sd sa : BitVec 6) (b : XSrc)
  | mulh (g : BitVec 3) (n : Bool) (sd sa : BitVec 6) (b : XSrc)
  | and (g : BitVec 3) (sd sa : BitVec 6) (b : XSrc)
  | or (g : BitVec 3) (sd sa : BitVec 6) (b : XSrc)
  | xor (g : BitVec 3) (sd sa : BitVec 6) (b : XSrc)
  | shl (g : BitVec 3) (sd sa : BitVec 6) (b : XSrc)
  | shr (g : BitVec 3) (sd sa : BitVec 6) (b : XSrc)
  | sra (g : BitVec 3) (sd sa : BitVec 6) (b : XSrc)
  | min (g : BitVec 3) (n : Bool) (sd sa : BitVec 6) (b : XSrc)
  | max (g : BitVec 3) (n : Bool) (sd sa : BitVec 6) (b : XSrc)
  | clz (g : BitVec 3) (sd sa : BitVec 6)
  | popc (g : BitVec 3) (sd sa : BitVec 6)
  | set (g : BitVec 3) (cc : Cond) (sd sa : BitVec 6) (b : XSrc)
  | sel (g : BitVec 3) (sd sc sa sb : BitVec 6)
  | li (g : BitVec 3) (sd : BitVec 6) (v : BitVec 32)
  | lih (g : BitVec 3) (sd sa : BitVec 6) (v : BitVec 32)
  | mova (g : BitVec 3) (f : MovaForm)
  | adda (g : BitVec 3) (ad aa : BitVec 4) (b : XSrc)
  | br (g : BitVec 3) (cc : Cond) (sa sb : BitVec 6) (off : BitVec 30)
  | jmp (g : BitVec 3) (sa : BitVec 6) (off : BitVec 30)
  | call (g : BitVec 3) (sd sa : BitVec 6) (off : BitVec 30)
  | ret (g : BitVec 3) (sa : BitVec 6)
  | loop (g : BitVec 3) (rot : Bool) (stg : BitVec 3) (cnt : XSrc)
  | exit (g : BitVec 3) (code : XSrc)
  | trap (g : BitVec 3) (code : XSrc)
  | wnext (g : BitVec 3) (sd : BitVec 6)
  | wnextField (g : BitVec 3) (sd : BitVec 6) (k : BitVec 3)
  | mfc (g : BitVec 3) (sd : BitVec 6) (crn : BitVec 4)
  | mtc (g : BitVec 3) (crn : BitVec 4) (sa : BitVec 6)
  | shw (g : BitVec 3) (cls n : BitVec 2) (fld : BitVec 6) (v : XSrc)
  | tdw (g : BitVec 3) (tid fld : BitVec 6) (v : XSrc)
  | tdr (g : BitVec 3) (sd tid fld : BitVec 6) (immForm : Bool)
  | spmark (g : BitVec 3) (sd : BitVec 6) (name : XSrc)
  | spdrop (g : BitVec 3) (sa : BitVec 6) (name : XSrc)
  | spdepth (g : BitVec 3) (sd : BitVec 6)
  -- V slots
  | vadd (f : VF)
  | vsub (f : VF)
  | vmul (f : VF)
  | vfma (f : VF)
  | vfms (f : VF)
  | vmin (f : VF)
  | vmax (f : VF)
  | vabs (f : VF)
  | vneg (f : VF)
  | viadd (f : VF)
  | visub (f : VF)
  | vimul (f : VF)
  | vimad (f : VF)
  | vimin (f : VF)
  | vimax (f : VF)
  | viabs (f : VF)
  | vshl (f : VF)
  | vshr (f : VF)
  | vsra (f : VF)
  | vand (f : VF)
  | vor (f : VF)
  | vxor (f : VF)
  | vcmp (f : VF)
  | vsel (f : VF)
  | vmop (f : VF)
  | vrcp (f : VF)
  | vrsq (f : VF)
  | vsqrt (f : VF)
  | vexp2 (f : VF)
  | vlog2 (f : VF)
  | vtanh (f : VF)
  | verf (f : VF)
  | vcvt (f : VF)
  | vwiden (f : VF)
  | vunpk (f : VF)
  | vnarrow (f : VF)
  | vqmx (f : VF)
  | vdqmx (f : VF)
  | vperm (f : VF)
  | vslide (f : VF)
  | vbcast (f : VF)
  | vextr (f : VF)
  | vins (f : VF)
  | vred (f : VF)
  | vrdrn (f : VF)
  | vrclr (f : VF)
  | vdot (f : VF)
  | raddf (f : VF)
  | unaddf (f : VF)
  | rsubf (f : VF)
  | unsubf (f : VF)
  | rmulf (f : VF)
  | unmulf (f : VF)
  | rnarw (f : VF)
  | unnarw (f : VF)
  | rshr (f : VF)
  | unshr (f : VF)
  | rscl (f : VF)
  | unscl (f : VF)
  | rimul (f : VF)
  | unimul (f : VF)
  -- M slot
  | mrun (g : BitVec 3) (idx : BitVec 8) (sh : BitVec 2) (sw : Bool) (rep : BitVec 12) (inc : BitVec 8)
  | mrunF (g : BitVec 3) (idx : BitVec 8) (sh : BitVec 2) (sw : Bool) (rep : BitVec 12) (inc : BitVec 8)
  | mpload (g : BitVec 3) (idx : BitVec 8) (bank : BitVec 4) (off : BitVec 12)
  | mploadP (g : BitVec 3) (k : BitVec 3) (sa : BitVec 6)
  | lend (g : BitVec 3) (k : BitVec 4)
  | recl (g : BitVec 3) (k : BitVec 4)
  | mstrOpen (g : BitVec 3) (e : BitVec 3) (tile : BitVec 3) (save : BitVec 10)
  | mstrPause (g : BitVec 3) (e : BitVec 3)
  | mstrResume (g : BitVec 3) (e : BitVec 3)
  | mstrReset (g : BitVec 3) (e : BitVec 3)
  | mstrClose (g : BitVec 3) (e : BitVec 3)
  -- matrix micro-words
  | feeda (m : BitVec 3) (lb : Bool) (k : BitVec 4)
  | feedb (m : BitVec 3) (lb : Bool) (k : BitVec 4)
  | mac (t : BitVec 3)
  | chain (t : BitVec 3) (last : Bool)
  | aclr (t : BitVec 3)
  | emit (t g : BitVec 3) (st : Bool) (m : BitVec 3)
  | scale (a b : Bool)
  | bias (v : BitVec 8)
  | adv (mask : BitVec 8)
  | loopk (n : BitVec 14) (len : BitVec 11)
  | loopkMh (f : BitVec 2) (len : BitVec 11)
  | stream (e u : BitVec 3) (cl : Bool)
  | endR (m : BitVec 3) (nb : Bool)
  -- L and S slots
  | vld (f : LF)
  | vldg (f : LF)
  | sld (f : LF)
  | mld (f : LF)
  | vldt (f : LF)
  | vldb (f : LF)
  | vst (f : LF)
  | sst (f : LF)
  | mst (f : LF)
  | vstx (f : LF)
  | putq (g : BitVec 3) (vs : BitVec 11) (ben ctx : BitVec 2) (q : BitVec 4) (wait : BitVec 9)
  -- C slot
  | cpyLd (f : CF) (mc : Bool) (spa : Spa)
  | cpySt (f : CF) (spa : Spa)
  | cpytLd (f : CF) (spa : Spa)
  | cpytSt (f : CF) (spa : Spa)
  | cgath (f : CF) (ib : BitVec 4) (spa : Spa)
  | cpair (f : CF) (spa : Spa)
  | cmig (f : CF) (host : Bool) (dl : BitVec 26)
  | nmcopy (f : CF) (dpitch : BitVec 25)
  | nmdot (f : CF) (spa : Spa)
  | fsamp (f : CF) (ty : ETy) (spa : Spa)
  | ftap (f : CF) (spa : Spa)
  | ftick (f : CF) (n1 : BitVec 12)
  | ftickG (f : CF) (gn1 : BitVec 3) (n1 : BitVec 12)
  | freset (f : CF)
  | fresetIn (f : CF)
  | collRs (f : CF) (spa : Spa)
  | collAg (f : CF) (spa : Spa)
  | collAr (f : CF) (spa : Spa)
  -- Y slot
  | fence (g : BitVec 3) (sc : Scope) (ord : Ord)
  | qadvH (g : BitVec 3) (q : BitVec 4) (k : QCnt)
  | qadvT (g : BitVec 3) (q : BitVec 4) (k : QCnt)
  | twait (g : BitVec 3) (sa : BitVec 6)
  | twany (g : BitVec 3) (sa : BitVec 6)
  | tfind (g : BitVec 3) (sd sa : BitVec 6)
  | tclr (g : BitVec 3) (sa : BitVec 6)
  | bar (g : BitVec 3) (sc : Scope) (id : BitVec 2)
  | signalAdd (g : BitVec 3) (sc : Scope) (sa sb : BitVec 6)
  | signalStore (g : BitVec 3) (sc : Scope) (sa sb : BitVec 6)
  | swait (g : BitVec 3) (sc : Scope) (sd sa sb : BitVec 6) (ticks : BitVec 26)
  | launch (g : BitVec 3) (sd sa : BitVec 6)
  | expose (g : BitVec 3) (sa : BitVec 6)
  | yield (g : BitVec 3)
  -- fabric and firmware steps at the end of the table
  | flitAcknowledgement (port n : Nat)
  | retrainingEnd (port : Nat) (ok : Bool)
  | throttleRelease (d b : Nat)
  | exportEntryWrite (i : Nat) (w0 w1 : BitVec 64)
  -- steps the clock brings about, each taking what is due first
  | bundleIssue
  | resultWriteback
  | storePerform
  | latchUpdate
  | matrixRoutineTrap
  | routineTimeLimit
  | barComplete
  | spoilSpill
  | spoilRefill
  | contactSheetReplay
  | budgetPeriod
  | scheduleTick
  | deviceReset
deriving DecidableEq, Repr

end Sys2Proof
end

