-- ==== Sys2Proof/WellFormed.lean ====
section
/-! DEFINITION. Which terms of `Instr` are instructions the part has (R22, R50 to R58, R61, R146, R231 and the
entries' own limits). `zeroOk` is the cause-0x06 half of the check (a field that must be zero is zero) and `codeOk`
the cause-0x07 half (no reserved code); `Instr.wf` is both. A step that is no instruction has no encoding and is
well formed when its numbers name parts the device has. -/

namespace Sys2Proof

/-- The type code of R21. -/
def ETy.code : ETy → Nat
  | .i4 => 0 | .n4 => 1 | .i8 => 2 | .n8 => 3 | .i16 => 4 | .n16 => 5 | .i32 => 6 | .n32 => 7
  | .e2m1 => 8 | .e4m3 => 9 | .e5m2 => 10 | .fp16 => 11 | .bf16 => 12 | .fp32 => 13 | .e8m0 => 14

/-- The type a code names; code 15 names none (R22). -/
def ETy.ofCode : Nat → Option ETy
  | 0 => some .i4 | 1 => some .n4 | 2 => some .i8 | 3 => some .n8 | 4 => some .i16 | 5 => some .n16
  | 6 => some .i32 | 7 => some .n32 | 8 => some .e2m1 | 9 => some .e4m3 | 10 => some .e5m2
  | 11 => some .fp16 | 12 => some .bf16 | 13 => some .fp32 | 14 => some .e8m0 | _ => none

/-- Element width in bits (R21). -/
def ETy.width : ETy → Nat
  | .i4 | .n4 | .e2m1 => 4
  | .i8 | .n8 | .e4m3 | .e5m2 | .e8m0 => 8
  | .i16 | .n16 | .fp16 | .bf16 => 16
  | .i32 | .n32 | .fp32 => 32

/-- Lanes of a 512-byte register (R21). -/
def ETy.lanes (t : ETy) : Nat := 4096 / t.width

/-- The integer types (R64). -/
def ETy.isInt : ETy → Bool
  | .i4 | .n4 | .i8 | .n8 | .i16 | .n16 | .i32 | .n32 => true
  | _ => false

/-- The signed integer types (R64). -/
def ETy.isSigned : ETy → Bool
  | .i4 | .i8 | .i16 | .i32 => true
  | _ => false

/-- FP32, FP16 and BF16: the types of the FP arithmetic instructions (R146). -/
def ETy.isFpArith : ETy → Bool
  | .fp32 | .fp16 | .bf16 => true
  | _ => false

/-- The MX element types (R67). -/
def ETy.isMx : ETy → Bool
  | .e2m1 | .e4m3 | .e5m2 => true
  | _ => false

def Cond.code : Cond → Nat
  | .eq => 0 | .ne => 1 | .lt => 2 | .ge => 3 | .le => 4 | .gt => 5 | .lo => 6 | .hs => 7 | .ls => 8 | .hi => 9

def Cond.ofCode : Nat → Option Cond
  | 0 => some .eq | 1 => some .ne | 2 => some .lt | 3 => some .ge | 4 => some .le | 5 => some .gt
  | 6 => some .lo | 7 => some .hs | 8 => some .ls | 9 => some .hi | _ => none

def Scope.code : Scope → Nat
  | .ctx => 0 | .core => 1 | .cluster => 2 | .die => 3 | .pkg => 4 | .sys => 5

def Scope.ofCode : Nat → Option Scope
  | 0 => some .ctx | 1 => some .core | 2 => some .cluster | 3 => some .die | 4 => some .pkg | 5 => some .sys
  | _ => none

def Ord.code : Ord → Nat
  | .acq => 0 | .rel => 1 | .ar => 2 | .sc => 3

def Ord.ofCode : Nat → Option Ord
  | 0 => some .acq | 1 => some .rel | 2 => some .ar | 3 => some .sc | _ => none

def Fls.code : Fls → Nat
  | .none => 0 | .first => 1 | .second => 2

def Fls.ofCode : Nat → Option Fls
  | 0 => some .none | 1 => some .first | 2 => some .second | _ => none

/-- SMASK bit of a slot (R36). -/
def Slot.code : Slot → Nat
  | .x => 0 | .va => 1 | .vb => 2 | .m => 3 | .l => 4 | .s => 5 | .c => 6 | .y => 7

/-- The pairs VWIDEN and VUNPK accept (R161). -/
def widenPair (st dt : ETy) : Bool :=
  match st, dt with
  | .i4, .i8 | .i4, .i16 | .i4, .fp16 | .i4, .bf16 => true
  | .n4, .n8 | .n4, .i8 | .n4, .n16 | .n4, .i16 | .n4, .fp16 | .n4, .bf16 => true
  | .e2m1, .e4m3 | .e2m1, .e5m2 | .e2m1, .fp16 | .e2m1, .bf16 => true
  | .i8, .i16 | .i8, .fp16 | .i8, .bf16 | .i8, .i32 | .i8, .fp32 => true
  | .n8, .n16 | .n8, .i16 | .n8, .fp16 | .n8, .bf16 | .n8, .n32 | .n8, .i32 | .n8, .fp32 => true
  | .e4m3, .fp16 | .e4m3, .bf16 | .e4m3, .fp32 => true
  | .e5m2, .fp16 | .e5m2, .bf16 | .e5m2, .fp32 => true
  | .i16, .i32 | .i16, .fp32 => true
  | .n16, .n32 | .n16, .i32 | .n16, .fp32 => true
  | .fp16, .fp32 | .bf16, .fp32 => true
  | _, _ => false

/-- The pairs RNARW and UNNARW accept (R237). -/
def rnarwPair (st dt : ETy) : Bool :=
  match st, dt with
  | .fp32, .fp16 | .fp32, .bf16 | .fp32, .e4m3 | .fp32, .e5m2 => true
  | .fp16, .e4m3 | .fp16, .e5m2 | .bf16, .e4m3 | .bf16, .e5m2 => true
  | .i32, .i16 | .i32, .i8 | .n32, .n16 | .n32, .n8 => true
  | .i16, .i8 | .n16, .n8 | .i8, .i4 | .n8, .n4 => true
  | _, _ => false

/-- The pairs VLDB accepts (R195). -/
def vldbPair (st dt : ETy) : Bool :=
  match st, dt with
  | .i4, .i8 | .n4, .n8 | .n4, .i8 | .e2m1, .e4m3 | .e2m1, .e5m2 => true
  | _, _ => false

/-- Width ratio of `st` over `dt` where it is 2 or 4: the sizes of register group there are (R147, R162). -/
def narrowRatio (st dt : ETy) : Option Nat :=
  if st.width = 2 * dt.width then some 2 else if st.width = 4 * dt.width then some 4 else none

/-- Second type of a conversion, OPX[3:0] (R159). -/
def VF.st (f : VF) : Option ETy := ETy.ofCode (f.opx.toNat % 16)

/-- `a` is a multiple of `r` (R147). -/
def groupOk (a : BitVec 11) (r : Nat) : Bool := a.toNat % r == 0

namespace VF

/-- The fields R53 and R146 hold to zero whatever the entry: RO where no rounding, OPX bits outside `opxMask`, and the
operand field that FL replaces. -/
def zeros (f : VF) (ro : Bool) (opxMask : Nat) : Bool :=
  (ro || f.ro == 0) && (f.opx.toNat &&& (255 - opxMask)) == 0 &&
  (match f.fls with | .none => true | .first => f.opa == 0 | .second => f.opb == 0)

/-- Shift count field CNT: with IMM = 1 the bits [30:26] are zero (R153). -/
def cntZero (f : VF) : Bool := !(f.opx.getLsbD 1) || f.opb.toNat < 64

/-- The SRC form of the permutes: with SRC = 1 OPB[10:6] are zero (R165). -/
def srcZero (f : VF) : Bool := !(f.opx.getLsbD 0) || f.opb.toNat < 64

/-- An immediate lane index lies below n(t) (R165). -/
def laneOk (f : VF) : Bool := f.opx.getLsbD 0 || decide (f.opb.toNat < f.ty.lanes)

/-- FL may stand in both source positions, of type FP32 (R149). -/
def fls2 (f : VF) : Bool := f.fls == .none || f.ty == .fp32

/-- FL may stand in the first source position only (R149). -/
def fls1 (f : VF) : Bool := f.fls == .none || (f.fls == .first && f.ty == .fp32)

end VF

/-- Zero fields of the scratchpad block (R54): INC needs AU. -/
def Spa.zeroOk : Spa → Bool
  | .bank _ au _ inc _ => au || !inc
  | .queue .. => true

/-- Cause-0x06 half of the check: every field that must be zero is zero (R50, R61). -/
def Instr.zeroOk : Instr → Bool
  | .vadd f | .vsub f | .vmul f | .vfma f | .vfms f => f.zeros true 0
  | .vmin f | .vmax f => f.zeros false 0
  | .vabs f | .vneg f => f.zeros false 0 && f.opb == 0
  | .viadd f | .visub f | .vimul f => f.zeros false 1
  | .vimad f => f.zeros false 1 && groupOk f.opd 2
  | .vimin f | .vimax f => f.zeros false 0
  | .viabs f => f.zeros false 1 && f.opb == 0
  | .vshl f => f.zeros false 3 && f.cntZero
  | .vshr f | .vsra f => f.zeros false 2 && f.cntZero
  | .vand f | .vor f | .vxor f => f.zeros false 0
  | .vcmp f => f.zeros false 15 && decide (f.opd.toNat < 16)
  | .vsel f => f.zeros false 0
  | .vmop f =>
    f.zeros false 15 && f.ty == .i4 && f.msk == 0 && decide (f.opd.toNat < 16) && decide (f.opb.toNat < 16) &&
    (if f.opx == 5 then decide (f.opa.toNat < 64) else decide (f.opa.toNat < 16)) &&
    (!(f.opx == 4 || f.opx == 5) || f.opb == 0)
  | .vrcp f | .vrsq f | .vsqrt f | .vexp2 f | .vlog2 f | .vtanh f | .verf f => f.zeros true 0 && f.opb == 0
  | .vcvt f =>
    f.zeros true 31 && f.opb == 0 &&
    (!(f.opx.getLsbD 4) || (f.ty.isInt && (match f.st with | some st => st.isInt | none => true)))
  | .vwiden f =>
    f.zeros false 15 && f.opb == 0 &&
    (match f.st with
      | some st => (match narrowRatio f.ty st with | some r => groupOk f.opd r | none => true)
      | none => true)
  | .vunpk f => f.zeros false 63 && f.opb == 0
  | .vnarrow f =>
    f.zeros true 31 && f.opb == 0 &&
    (!(f.opx.getLsbD 4) || (f.ty.isInt && (match f.st with | some st => st.isInt | none => true))) &&
    (match f.st with
      | some st => (match narrowRatio st f.ty with | some r => groupOk f.opa r | none => true)
      | none => true)
  | .vqmx f => f.zeros true 7 && f.msk == 0
  | .vdqmx f => f.zeros true 7
  | .vperm f => f.zeros false 0
  | .vslide f => f.zeros false 255
  | .vbcast f => f.zeros false 1 && f.srcZero && (!(f.opx.getLsbD 0) || f.opa == 0)
  | .vextr f => f.zeros false 1 && f.srcZero && f.msk == 0 && decide (f.opd.toNat < 64)
  | .vins f => f.zeros false 1 && f.srcZero && decide (f.opa.toNat < 64)
  | .vred f => f.zeros false 7 && f.opd == 0 && f.opb == 0
  | .vrdrn f => f.zeros false 7 && f.opa == 0 && f.opb == 0
  | .vrclr f =>
    f.zeros false 247 && f.opd == 0 && f.opb == 0 && f.msk == 0 &&
    (f.opx.getLsbD 2 || (f.ty == .i4 && f.opa == 0))
  | .vdot f => f.zeros false 0
  | .raddf f | .unaddf f | .rsubf f | .unsubf f | .rmulf f | .unmulf f => f.zeros false 0
  | .rnarw f =>
    f.zeros false 15 && f.opb == 0 &&
    (match f.st with
      | some st => (match narrowRatio st f.ty with | some r => groupOk f.opa r | none => true)
      | none => true)
  | .unnarw f =>
    f.zeros false 15 && f.opb == 0 &&
    (match f.st with
      | some st => (match narrowRatio st f.ty with | some r => groupOk f.opd r | none => true)
      | none => true)
  | .rshr f | .unshr f => f.zeros false 2 && f.cntZero
  | .rscl f | .unscl f => f.zeros false 255 && f.opb == 0
  | .rimul f | .unimul f => f.zeros false 0
  | .spmark _ _ (.imm v) | .spdrop _ _ (.imm v) => decide (v.toNat < 65536)
  | .vld f | .vldg f => f.ty == .i4 && f.opx == 0 && f.spa.zeroOk
  | .sld f | .sst f => f.ty == .i4 && f.opx == 0 && decide (f.opd.toNat < 64) && f.spa.zeroOk
  | .mld f | .mst f => f.ty == .i4 && f.opx == 0 && decide (f.opd.toNat < 16) && f.spa.zeroOk
  | .vldt f | .vstx f => f.opx == 0 && f.spa.zeroOk
  | .vldb f => decide (f.opx.toNat < 16) && groupOk f.opd 2 && f.spa.zeroOk
  | .vst f => decide (f.opx.toNat < 16) && f.spa.zeroOk
  | .cpyLd _ _ spa | .cpySt _ spa => spa.zeroOk
  | .cpytLd f spa | .cpytSt f spa => f.sh == 0 && !f.sw && spa.zeroOk
  | .cgath _ _ spa => spa.zeroOk
  | .cpair f spa => f.sa.toNat % 2 == 0 && spa.zeroOk
  | .cmig f _ _ => f.sa.toNat % 2 == 0 && f.aq == none && f.rl == none && f.sh == 0 && !f.sw
  | .nmcopy f _ => f.sa.toNat % 2 == 0
  | .nmdot f spa => f.sa.toNat % 2 == 0 && spa.zeroOk
  | .fsamp f _ spa | .ftap f spa => f.sh == 0 && f.sa.toNat % 2 == 0 && spa.zeroOk
  | .ftick f _ => f.sh == 0 && !f.sw
  | .ftickG f gn1 _ => f.sh == 0 && !f.sw && gn1 != 0 && decide (f.sa.toNat + gn1.toNat ≤ 63)
  | .freset f | .fresetIn f => f.sa.toNat % 2 == 0
  | .collRs f spa | .collAg f spa | .collAr f spa => f.sh == 0 && !f.sw && spa.zeroOk
  | .feeda _ lb k | .feedb _ lb k => lb || k == 0
  | .emit _ _ st m => st || m == 0
  | .scale a b => a || b
  | _ => true

/-- FP arithmetic types with FL in both positions (R146, R149). -/
def VF.fpArith2 (f : VF) : Bool := f.ty.isFpArith && f.fls2

/-- Cause-0x07 half of the check: no reserved code (R22, R61, R146, R149, R231). -/
def Instr.codeOk : Instr → Bool
  | .vadd f | .vsub f | .vmul f | .vfma f | .vfms f | .vmin f | .vmax f => f.fpArith2
  | .vabs f | .vneg f => f.ty.isFpArith && f.fls1
  | .viadd f | .visub f | .vimul f | .vimin f | .vimax f | .vshl f | .vshr f | .vsra f => f.ty.isInt && f.fls == .none
  | .vimad f => decide (f.ty.code ≤ 5) && f.fls == .none
  | .viabs f => f.ty.isSigned && f.fls == .none
  | .vand f | .vor f | .vxor f => f.fls == .none
  | .vcmp f =>
    decide (f.ty.code ≤ 13) && f.fls2 && decide (f.opx.toNat ≤ 7) && (decide (f.opx.toNat ≤ 5) || !f.ty.isInt)
  | .vsel f | .vperm f => f.fls2
  | .vmop f => decide (f.opx.toNat ≤ 5) && f.fls == .none
  | .vrcp f | .vrsq f | .vsqrt f | .vexp2 f | .vlog2 f | .vtanh f | .verf f => f.ty == .fp32 && f.fls1
  | .vcvt f =>
    decide (f.ty.code ≤ 13) &&
    (match f.st with
      | some st => (st != .e8m0 || f.ty == .fp32) && (f.fls == .none || (f.fls == .first && st == .fp32))
      | none => false)
  | .vwiden f =>
    (match f.st with | some st => widenPair st f.ty | none => false) && f.fls == .none
  | .vunpk f =>
    (match f.st with
      | some st => widenPair st f.ty && decide ((f.opx.toNat / 16) % 4 < f.ty.width / st.width)
      | none => false) && f.fls == .none
  | .vnarrow f =>
    decide (f.ty.code ≤ 13) &&
    (match f.st with
      | some st => (narrowRatio st f.ty).isSome && (st != .e8m0 || f.ty == .fp32)
      | none => false) && f.fls == .none
  | .vqmx f =>
    f.ty.isMx && decide (f.opx.toNat ≤ (if f.ty == .e2m1 then 7 else 3)) && (f.fls == .none || f.fls == .first)
  | .vdqmx f => f.ty.isMx && decide (f.opx.toNat ≤ (if f.ty == .e2m1 then 7 else 3)) && f.fls == .none
  | .vslide f => decide (f.opx.toNat ≤ Nat.min 255 f.ty.lanes) && f.fls2
  | .vbcast f => f.laneOk && (f.fls == .none || (f.fls == .first && f.ty == .fp32 && !(f.opx.getLsbD 0)))
  | .vextr f => f.laneOk && f.fls1
  | .vins f => f.laneOk && f.fls == .none
  | .vred f => (match f.ty with | .i16 | .n16 | .i32 | .n32 | .fp16 | .bf16 | .fp32 => true | _ => false) && f.fls1
  | .vrdrn f => (f.ty == .i32 || f.ty == .fp32) && f.fls == .none
  | .vrclr f =>
    decide (f.opx.toNat / 16 ≤ 9) && f.fls == .none &&
    (if f.opx.getLsbD 2 then
      (if f.opx.toNat / 16 = 7 ∨ f.opx.toNat / 16 = 8 then f.ty == .i32 else f.ty == .fp32)
     else true)
  | .vdot f => decide (f.ty.code ≤ 13) && f.fls2
  | .raddf f | .rsubf f | .rmulf f => f.fpArith2
  | .unaddf f | .unsubf f | .unmulf f => f.ty.isFpArith && f.fls == .none
  | .rnarw f | .unnarw f => (match f.st with | some st => rnarwPair st f.ty | none => false) && f.fls == .none
  | .rshr f | .unshr f | .rimul f | .unimul f => f.ty.isInt && f.fls == .none
  | .rscl f | .unscl f => f.ty.isFpArith && f.fls == .none
  | .loop _ _ stg _ => stg != 0
  | .wnextField _ _ k => decide (k.toNat ≤ 5)
  | .mtc _ crn _ =>
    (match crn.toNat with | 1 | 2 | 3 | 4 | 5 | 7 | 10 | 11 | 13 => true | _ => false)
  | .shw _ cls _ fld _ =>
    (match cls.toNat with
      | 0 => decide (fld.toNat ≤ 2)
      | 1 => decide (fld.toNat = 0 ∨ fld.toNat = 2)
      | 2 => decide (fld.toNat ≤ 4)
      | _ => decide (fld.toNat ≤ 3))
  | .tdw _ _ fld _ | .tdr _ _ _ fld _ => decide (fld.toNat ≤ 16)
  | .vldb f => (match ETy.ofCode (f.opx.toNat % 16) with | some st => vldbPair st f.ty | none => false)
  | .putq _ _ _ _ q _ => decide (12 ≤ q.toNat)
  | .fsamp _ t _ => t.isFpArith
  | .bar _ sc _ => sc == .core || sc == .cluster
  | _ => true

/-- Steps that are no instruction name parts the device has (R6, R59, R327, R379, R402). -/
def Instr.partsOk : Instr → Bool
  | .commitPropagate d => decide (d < 131)
  | .benchFailure d b | .benchThrottle d b | .benchPowerOn d b | .benchPowerOff d b | .throttleRelease d b =>
    decide (d < 2 ∧ b < 4)
  | .copyCommandStart k => decide (k < 128)
  | .nmCommandStart ch | .patrolScrub ch => decide (ch < 256)
  | .collStart d | .evbaseWrite d _ | .arbwWrite d _ => decide (d < 2)
  | .kernelAdmission q | .admissionHold q | .qbellWrite q _ | .launchCommand q | .wait q | .waitSatisfied q
  | .signalCommand q | .expclose q | .expset q | .inval q | .asidBind q | .asidRelease q | .capCreate q
  | .capRevoke q | .attest q | .preempt q | .resumeCommand q | .abort q | .cresume q | .priorityPreemption q =>
    decide (q < 64)
  | .linkQueueDeliver plane dev => decide (plane < 32 ∧ dev < 512)
  | .flitCrcError p | .ackTimeout p | .linkRetrain p | .flitAcknowledgement p _ | .retrainingEnd p _ => decide (p < 32)
  | .exportEntryWrite i _ _ => decide (i < 256)
  | _ => true

/-- A well-formed step: an instruction the decoder can produce, or a step over parts the device has. -/
def Instr.wf (i : Instr) : Bool := i.zeroOk && i.codeOk && i.partsOk

end Sys2Proof
end

