-- ==== Sys2Proof/Decode.lean ====
section
/-! DEFINITION. The decoder, total on any bits and refusing by the causes of R61 in the order of R62, and after it
the encoder, written from the same tables (R39, R47 to R59, R251, R293). A word is read as a natural number and a
field [hi:lo] as `fld w lo (hi − lo + 1)`. -/

namespace Sys2Proof

/-- The static causes of R61: why bits are no instruction. -/
inductive Bad where
  /-- 0x01: MARK is not 0b1010. -/
  | mark
  /-- 0x02: a reserved header bit is not zero. -/
  | hdrZero
  /-- 0x03: PROFILE is 10 to 63. -/
  | profile
  /-- 0x04: unassigned opcode. -/
  | opcode
  /-- 0x05: a VB-only opcode in the VA slot. -/
  | vbOnly
  /-- 0x06: a field that must be zero is not zero. -/
  | zero
  /-- 0x07: a reserved code. -/
  | reserved
  /-- The bits given end before the instruction does. -/
  | short
deriving DecidableEq, Repr

/-- The cause number of R61. -/
def Bad.cause : Bad → Nat
  | .mark => 1 | .hdrZero => 2 | .profile => 3 | .opcode => 4 | .vbOnly => 5 | .zero => 6 | .reserved => 7 | .short => 0

/-- Bit field of `n` bits from bit `lo` (R19). -/
def fld (w lo n : Nat) : Nat := w / 2 ^ lo % 2 ^ n

/-- The same field as a bit vector. -/
def bfld (w lo n : Nat) : BitVec n := BitVec.ofNat n (w / 2 ^ lo)

/-- One bit. -/
def bit (w i : Nat) : Bool := w / 2 ^ i % 2 == 1

/-- Refuse with `zero` unless `ok`; then give the instruction, or refuse a reserved code (R61, R62). -/
def checked (ok : Bool) (x : Option Instr) : Except Bad Instr :=
  match x with
  | none => if ok then .error .reserved else .error .zero
  | some i => if ok && i.zeroOk then (if i.codeOk then .ok i else .error .reserved) else .error .zero

/-! ### X slot (R52) -/

/-- N and CC, and the bits below N in X-R, as the form places them. -/
structure XRaw where
  g   : BitVec 3
  i   : Bool
  sd  : BitVec 6
  sa  : BitVec 6
  sb  : BitVec 6
  sx  : BitVec 6
  cc  : Nat
  n   : Bool
  imm : BitVec 32
  /-- Bits the form fixes to zero. -/
  zr  : Nat
deriving DecidableEq, Repr

def xRaw (w : Nat) : XRaw :=
  if bit w 52 then
    { g := bfld w 53 3, i := true, sd := bfld w 46 6, sa := bfld w 40 6, sb := 0, sx := 0,
      cc := fld w 36 4, n := bit w 35, imm := bfld w 0 32, zr := fld w 32 3 }
  else
    { g := bfld w 53 3, i := false, sd := bfld w 46 6, sa := bfld w 40 6, sb := bfld w 34 6, sx := bfld w 28 6,
      cc := fld w 24 4, n := bit w 23, imm := 0, zr := fld w 0 23 }

namespace XRaw

/-- Second operand of an arithmetic form: S[SB] or the immediate (R131). -/
def b (r : XRaw) : XSrc := if r.i then .imm r.imm else .reg r.sb

/-- Operand of a form whose register is SA: S[SA] or the immediate (R138, R140, R142). -/
def a (r : XRaw) : XSrc := if r.i then .imm r.imm else .reg r.sa

/-- No third source, no condition, no `.N`, nothing in the zero bits. -/
def plain (r : XRaw) : Bool := r.zr == 0 && r.cc == 0 && !r.n && r.sx == 0

end XRaw

/-- A two-operand scalar opcode of X-R or X-I (R131). -/
def xArith (r : XRaw) (mk : BitVec 3 → BitVec 6 → BitVec 6 → XSrc → Instr) : Except Bad Instr :=
  checked r.plain (some (mk r.g r.sd r.sa r.b))

/-- The same with `.N` allowed (R52). -/
def xArithN (r : XRaw) (mk : BitVec 3 → Bool → BitVec 6 → BitVec 6 → XSrc → Instr) : Except Bad Instr :=
  checked (r.zr == 0 && r.cc == 0 && r.sx == 0) (some (mk r.g r.n r.sd r.sa r.b))

/-- A condition code with the instruction it makes; 10 to 15 are reserved (R51). -/
def withCond (cc : Nat) (mk : Cond → Instr) : Option Instr := (Cond.ofCode cc).map mk

def decodeX (w : Nat) : Except Bad Instr :=
  let r := xRaw w
  match fld w 56 8 with
  | 0x00 => xArith r .add
  | 0x01 => xArith r .sub
  | 0x02 => xArith r .mul
  | 0x03 => xArithN r .mulh
  | 0x04 => xArith r .and
  | 0x05 => xArith r .or
  | 0x06 => xArith r .xor
  | 0x07 => xArith r .shl
  | 0x08 => xArith r .shr
  | 0x09 => xArith r .sra
  | 0x0A => xArithN r .min
  | 0x0B => xArithN r .max
  | 0x0C => checked (r.plain && r.sb == 0) (if r.i then none else some (.clz r.g r.sd r.sa))
  | 0x0D => checked (r.plain && r.sb == 0) (if r.i then none else some (.popc r.g r.sd r.sa))
  | 0x0E => checked (r.zr == 0 && !r.n && r.sx == 0) (withCond r.cc (fun c => .set r.g c r.sd r.sa r.b))
  | 0x0F => checked (r.zr == 0 && r.cc == 0 && !r.n) (if r.i then none else some (.sel r.g r.sd r.sx r.sa r.sb))
  | 0x10 => checked (r.plain && r.sb == 0 && r.sa == 0) (if r.i then some (.li r.g r.sd r.imm) else none)
  | 0x11 => checked (r.plain && r.sb == 0) (if r.i then some (.lih r.g r.sd r.sa r.imm) else none)
  | 0x20 =>
    let base := r.zr == 0 && r.cc == 0 && !r.n && r.sb == 0
    if r.i then
      checked (base && r.sa == 0 && decide (r.sd.toNat < 16)) (some (.mova r.g (.immA (bfld w 46 4) r.imm)))
    else if bit w 28 then
      checked (base && r.sx == 1 && decide (r.sa.toNat < 16)) (some (.mova r.g (.fromA r.sd (bfld w 40 4))))
    else
      checked (base && r.sx == 0 && decide (r.sd.toNat < 16)) (some (.mova r.g (.toA (bfld w 46 4) r.sa)))
  | 0x21 =>
    checked (r.plain && decide (r.sd.toNat < 16) && decide (r.sa.toNat < 16))
      (some (.adda r.g (bfld w 46 4) (bfld w 40 4) r.b))
  | 0x28 =>
    checked (!(bit w 52) && fld w 46 6 == 0)
      (withCond (fld w 30 4) (fun c => .br (bfld w 53 3) c (bfld w 40 6) (bfld w 34 6) (bfld w 0 30)))
  | 0x29 =>
    checked (!(bit w 52) && fld w 46 6 == 0 && fld w 30 10 == 0)
      (some (.jmp (bfld w 53 3) (bfld w 40 6) (bfld w 0 30)))
  | 0x2A =>
    checked (!(bit w 52) && fld w 30 10 == 0)
      (some (.call (bfld w 53 3) (bfld w 46 6) (bfld w 40 6) (bfld w 0 30)))
  | 0x2B =>
    checked (!(bit w 52) && fld w 46 6 == 0 && fld w 0 40 == 0) (some (.ret (bfld w 53 3) (bfld w 40 6)))
  | 0x2C =>
    checked (r.plain && r.sb == 0 && fld w 50 2 == 0 && (!r.i || r.sa == 0))
      (some (.loop r.g (bit w 49) (bfld w 46 3) r.a))
  | 0x2D => checked (r.plain && r.sb == 0 && r.sd == 0 && (!r.i || r.sa == 0)) (some (.exit r.g r.a))
  | 0x2E => checked (r.plain && r.sb == 0 && r.sd == 0 && (!r.i || r.sa == 0)) (some (.trap r.g r.a))
  | 0x2F =>
    if r.i then
      checked (r.plain && r.sa == 0 && decide (r.imm.toNat < 8)) (some (.wnextField r.g r.sd (bfld w 0 3)))
    else checked (r.plain && r.sa == 0 && r.sb == 0) (some (.wnext r.g r.sd))
  | 0x38 =>
    checked (r.plain && r.sb == 0)
      (if r.i || decide (16 ≤ r.sa.toNat) then none else some (.mfc r.g r.sd (bfld w 40 4)))
  | 0x39 =>
    checked (r.plain && r.sb == 0)
      (if r.i || decide (16 ≤ r.sd.toNat) then none else some (.mtc r.g (bfld w 46 4) r.sa))
  | 0x40 =>
    checked (r.zr == 0 && r.cc == 0 && !r.n && r.sb == 0 && fld w 46 2 == 0)
      (some (.shw r.g (bfld w 50 2) (bfld w 48 2) (if r.i then r.sa else r.sx) r.a))
  | 0x41 =>
    checked (r.zr == 0 && r.cc == 0 && !r.n && r.sb == 0)
      (some (.tdw r.g r.sd (if r.i then r.sa else r.sx) r.a))
  | 0x42 =>
    if r.i then checked (r.plain && decide (r.imm.toNat < 64)) (some (.tdr r.g r.sd r.sa (bfld w 0 6) true))
    else checked (r.zr == 0 && r.cc == 0 && !r.n && r.sb == 0) (some (.tdr r.g r.sd r.sa r.sx false))
  | 0x48 => checked (r.plain && r.sb == 0 && (!r.i || r.sa == 0)) (some (.spmark r.g r.sd r.a))
  | 0x49 => checked (r.plain && r.sd == 0) (some (.spdrop r.g r.sa r.b))
  | 0x4A =>
    checked (r.plain && r.sb == 0 && r.sa == 0) (if r.i then none else some (.spdepth r.g r.sd))
  | _ => .error .opcode

/-! ### V slots (R53) -/

/-- The constructor of a V-slot opcode (R59). -/
def vOp : Nat → Option (VF → Instr)
  | 0x00 => some .vadd | 0x01 => some .vsub | 0x02 => some .vmul | 0x03 => some .vfma | 0x04 => some .vfms
  | 0x05 => some .vmin | 0x06 => some .vmax | 0x07 => some .vabs | 0x08 => some .vneg
  | 0x20 => some .viadd | 0x21 => some .visub | 0x22 => some .vimul | 0x23 => some .vimad
  | 0x24 => some .vimin | 0x25 => some .vimax | 0x26 => some .viabs | 0x27 => some .vshl | 0x28 => some .vshr
  | 0x29 => some .vsra | 0x2A => some .vand | 0x2B => some .vor | 0x2C => some .vxor
  | 0x40 => some .vcmp | 0x41 => some .vsel | 0x42 => some .vmop
  | 0x50 => some .vrcp | 0x51 => some .vrsq | 0x52 => some .vsqrt | 0x53 => some .vexp2 | 0x54 => some .vlog2
  | 0x55 => some .vtanh | 0x56 => some .verf
  | 0x60 => some .vcvt | 0x61 => some .vwiden | 0x62 => some .vnarrow | 0x63 => some .vunpk | 0x64 => some .vqmx
  | 0x65 => some .vdqmx
  | 0x70 => some .vperm | 0x71 => some .vslide | 0x72 => some .vbcast | 0x73 => some .vextr | 0x74 => some .vins
  | 0x80 => some .vred | 0x81 => some .vrdrn | 0x82 => some .vrclr
  | 0x90 => some .vdot
  | 0xA0 => some .raddf | 0xA1 => some .unaddf | 0xA2 => some .rsubf | 0xA3 => some .unsubf | 0xA4 => some .rmulf
  | 0xA5 => some .unmulf | 0xA6 => some .rnarw | 0xA7 => some .unnarw | 0xA8 => some .rshr | 0xA9 => some .unshr
  | 0xAA => some .rscl | 0xAB => some .unscl | 0xAC => some .rimul | 0xAD => some .unimul
  | _ => none

/-- The V-format fields of a word. Type code 15 is read as E8M0 and FLS code 3 as 0 here; `decodeV` refuses both
after the zero checks of `vZero` (R22, R61). -/
def vRaw (w : Nat) : VF :=
  { g := bfld w 53 3, opd := bfld w 42 11, opa := bfld w 31 11, opb := bfld w 20 11, msk := bfld w 16 4,
    ty := (ETy.ofCode (fld w 12 4)).getD .e8m0, ro := bfld w 10 2, fls := (Fls.ofCode (fld w 8 2)).getD .none,
    opx := bfld w 0 8 }

/-- Stand-in for type code 15 in the zero checks of an opcode. Code 15 names no type (R22): it has no width, so no register
group follows from it (R147), and it is no floating type (R159), but it is not zero (R146). -/
def noType : Nat → ETy
  | 0x61 => .i4
  | 0x60 | 0x62 | 0xA6 | 0xA7 => .i32
  | _ => .e8m0

/-- The V-format fields of a word for its zero checks: those of `vRaw`, type code 15 at its stand-in. -/
def vZero (w : Nat) : VF :=
  if fld w 12 4 = 15 then { vRaw w with ty := noType (fld w 56 8) } else vRaw w

def decodeV (vb : Bool) (w : Nat) : Except Bad Instr :=
  match vOp (fld w 56 8) with
  | none => .error .opcode
  | some mk =>
    if !vb && decide (0x80 ≤ fld w 56 8 ∧ fld w 56 8 ≤ 0x82) then .error .vbOnly
    else if fld w 12 4 = 15 ∨ fld w 8 2 = 3 then
      (if (mk (vZero w)).zeroOk then .error .reserved else .error .zero)
    else checked true (some (mk (vRaw w)))

/-! ### Scratchpad operand block, L and S slots (R54, R55) -/

/-- The SPA block of a word's bits [25:0]; the flag says its own zero bits are zero. -/
def spaRaw (w : Nat) : Spa × Bool :=
  if bit w 25 then (.queue (bfld w 21 4) (bfld w 13 8) (bfld w 4 9), fld w 0 4 == 0)
  else (.bank (bfld w 21 4) (bit w 20) (bfld w 16 4) (bit w 15) (bfld w 0 15), true)

def lRaw (w : Nat) : LF :=
  { g := bfld w 53 3, opd := bfld w 42 11, sh := bfld w 40 2, sw := bit w 39,
    ty := (ETy.ofCode (fld w 35 4)).getD .e8m0, opx := bfld w 26 9, spa := (spaRaw w).1 }

def lOp : Nat → Option (LF → Instr)
  | 0x00 => some .vld | 0x01 => some .vldt | 0x02 => some .vldb | 0x03 => some .vldg | 0x04 => some .sld
  | 0x05 => some .mld | _ => none

def sOp : Nat → Option (LF → Instr)
  | 0x00 => some .vst | 0x01 => some .vstx | 0x02 => some .sst | 0x03 => some .mst | _ => none

/-- L- and S-format words alike: zero checks, then reserved codes, type code 15 among them. -/
def lCheck (w : Nat) (mk : LF → Instr) : Except Bad Instr :=
  if fld w 35 4 = 15 then
    (if (spaRaw w).2 && (mk (lRaw w)).zeroOk then .error .reserved else .error .zero)
  else checked (spaRaw w).2 (some (mk (lRaw w)))

def decodeL (w : Nat) : Except Bad Instr :=
  match lOp (fld w 56 8) with
  | none => .error .opcode
  | some mk => lCheck w mk

def decodeS (w : Nat) : Except Bad Instr :=
  if fld w 56 8 = 0x04 then
    checked (fld w 35 7 == 0 && fld w 26 5 == 0 && fld w 13 8 == 0 && fld w 0 4 == 0)
      (if bit w 25 then some (.putq (bfld w 53 3) (bfld w 42 11) (bfld w 33 2) (bfld w 31 2) (bfld w 21 4) (bfld w 4 9)) else none)
  else match sOp (fld w 56 8) with
  | none => .error .opcode
  | some mk => lCheck w mk

/-! ### M slot (R57) -/

def decodeM (w : Nat) : Except Bad Instr :=
  let g := bfld w 53 3
  /- FOLD, SH, SW, REP and INC zero -/
  let quiet := fld w 21 24 == 0
  match fld w 56 8 with
  | 0x00 =>
    checked (fld w 0 21 == 0)
      (some (if bit w 44 then .mrunF g (bfld w 45 8) (bfld w 42 2) (bit w 41) (bfld w 29 12) (bfld w 21 8)
        else .mrun g (bfld w 45 8) (bfld w 42 2) (bit w 41) (bfld w 29 12) (bfld w 21 8)))
  | 0x01 =>
    if bit w 20 then
      checked (quiet && fld w 45 8 == 0 && fld w 0 11 == 0) (some (.mploadP g (bfld w 17 3) (bfld w 11 6)))
    else checked (quiet && fld w 0 4 == 0) (some (.mpload g (bfld w 45 8) (bfld w 16 4) (bfld w 4 12)))
  | 0x02 => checked (quiet && fld w 49 4 == 0 && fld w 0 21 == 0) (some (.lend g (bfld w 45 4)))
  | 0x03 => checked (quiet && fld w 49 4 == 0 && fld w 0 21 == 0) (some (.recl g (bfld w 45 4)))
  | 0x04 =>
    let base := quiet && fld w 48 5 == 0 && fld w 16 5 == 0
    let e : BitVec 3 := bfld w 45 3
    match fld w 0 3 with
    | 0 => checked base (some (.mstrOpen g e (bfld w 3 3) (bfld w 6 10)))
    | 1 => checked (base && fld w 3 13 == 0) (some (.mstrPause g e))
    | 2 => checked (base && fld w 3 13 == 0) (some (.mstrResume g e))
    | 3 => checked (base && fld w 3 13 == 0) (some (.mstrReset g e))
    | 4 => checked (base && fld w 3 13 == 0) (some (.mstrClose g e))
    | _ => checked (base && fld w 3 13 == 0) none
  | _ => .error .opcode

/-! ### C slot (R56) -/

/-- The shared C fields of a word, with "the scope fields that must be zero are zero" and "both scopes are codes". -/
def cRaw (w : Nat) : CF × Bool × Bool :=
  let aq := if bit w 46 then Scope.ofCode (fld w 43 3) else none
  let rl := if bit w 42 then Scope.ofCode (fld w 39 3) else none
  ({ g := bfld w 53 3, tag := bfld w 47 6, aq := aq, rl := rl, sh := bfld w 37 2, sw := bit w 36, sa := bfld w 30 6 },
   (bit w 46 || fld w 43 3 == 0) && (bit w 42 || fld w 39 3 == 0),
   (!(bit w 46) || aq.isSome) && (!(bit w 42) || rl.isSome))

/-- A C-slot command: its zero checks, then its reserved codes, scopes 6 and 7 among them (R61). `zi` is the
instruction whose own zero checks are made even where a code is reserved. -/
def cCheck (w : Nat) (ok : Bool) (zi : Instr) (codes : Bool) : Except Bad Instr :=
  if (cRaw w).2.1 && ok && zi.zeroOk then
    (if (cRaw w).2.2 && codes && zi.codeOk then .ok zi else .error .reserved)
  else .error .zero

def decodeC (w : Nat) : Except Bad Instr :=
  let f := (cRaw w).1
  let spa := (spaRaw w).1
  let sz := (spaRaw w).2
  let opx := fld w 26 4
  match fld w 56 8 with
  | 0x00 =>
    if bit w 26 then cCheck w (sz && opx == 1) (.cpySt f spa) true
    else cCheck w (sz && decide (opx < 4)) (.cpyLd f (bit w 27) spa) true
  | 0x01 =>
    if bit w 26 then cCheck w (sz && opx == 1) (.cpytSt f spa) true
    else cCheck w (sz && opx == 0) (.cpytLd f spa) true
  | 0x02 => cCheck w (sz && opx == 0) (.cpair f spa) true
  | 0x03 => cCheck w sz (.cgath f (bfld w 26 4) spa) true
  | 0x04 => cCheck w (fld w 27 3 == 0 && !(bit w 46) && !(bit w 42)) (.cmig f (bit w 26) (bfld w 0 26)) true
  | 0x10 => cCheck w (opx == 0 && !(bit w 25)) (.nmcopy f (bfld w 0 25)) true
  | 0x11 => cCheck w (sz && opx == 0) (.nmdot f spa) true
  | 0x20 => cCheck w sz (.fsamp f ((ETy.ofCode opx).getD .e8m0) spa) (decide (opx < 15))
  | 0x21 => cCheck w (sz && opx == 0) (.ftap f spa) true
  | 0x22 =>
    if bit w 26 then cCheck w (fld w 27 3 == 0 && fld w 15 11 == 0) (.ftickG f (bfld w 12 3) (bfld w 0 12)) true
    else cCheck w (fld w 27 3 == 0 && fld w 12 14 == 0) (.ftick f (bfld w 0 12)) true
  | 0x23 =>
    cCheck w (fld w 27 3 == 0 && fld w 0 26 == 0) (if bit w 26 then .fresetIn f else .freset f) true
  | 0x28 =>
    match fld w 26 2 with
    | 0 => cCheck w (sz && fld w 28 2 == 0) (.collRs f spa) true
    | 1 => cCheck w (sz && fld w 28 2 == 0) (.collAg f spa) true
    | 2 => cCheck w (sz && fld w 28 2 == 0) (.collAr f spa) true
    | _ => cCheck w (sz && fld w 28 2 == 0) (.collAr f spa) false
  | _ => .error .opcode

/-! ### Y slot (R58) -/

def decodeY (w : Nat) : Except Bad Instr :=
  let g := bfld w 53 3
  let sd := bfld w 47 6
  let sa := bfld w 41 6
  let sb := bfld w 35 6
  let zSd := fld w 47 6 == 0
  let zSa := fld w 41 6 == 0
  let zSb := fld w 35 6 == 0
  let zSc := fld w 32 3 == 0
  let zOrd := fld w 30 2 == 0
  let zOpx := fld w 0 30 == 0
  let sc := Scope.ofCode (fld w 32 3)
  match fld w 56 8 with
  | 0x00 =>
    checked (zSd && zSa && zSb && zOpx)
      (sc.bind (fun s => (Ord.ofCode (fld w 30 2)).map (fun o => .fence g s o)))
  | 0x01 =>
    let base := zSd && zSa && zSc && zOrd && fld w 15 15 == 0
    let q : BitVec 4 := bfld w 0 4
    let k : QCnt := if bit w 14 then .reg sb else .imm (bfld w 5 9)
    let ok := base && (if bit w 14 then fld w 5 9 == 0 else zSb)
    checked ok (some (if bit w 4 then .qadvT g q k else .qadvH g q k))
  | 0x02 => checked (zSd && zSb && zSc && zOrd && zOpx) (some (.twait g sa))
  | 0x03 => checked (zSd && zSb && zSc && zOrd && zOpx) (some (.twany g sa))
  | 0x04 => checked (zSb && zSc && zOrd && zOpx) (some (.tfind g sd sa))
  | 0x05 => checked (zSd && zSb && zSc && zOrd && zOpx) (some (.tclr g sa))
  | 0x06 =>
    checked (zSd && zSa && zSb && zOrd && fld w 2 28 == 0) (sc.map (fun s => .bar g s (bfld w 0 2)))
  | 0x07 =>
    checked (zSd && zOrd && fld w 1 29 == 0)
      (sc.map (fun s => if bit w 0 then .signalStore g s sa sb else .signalAdd g s sa sb))
  | 0x08 =>
    checked (zOrd && fld w 26 4 == 0) (sc.map (fun s => .swait g s sd sa sb (bfld w 0 26)))
  | 0x09 => checked (zSb && zSc && zOrd && zOpx) (some (.launch g sd sa))
  | 0x0A => checked (zSd && zSb && zSc && zOrd && zOpx) (some (.expose g sa))
  | 0x0B => checked (zSd && zSa && zSb && zSc && zOrd && zOpx) (some (.yield g))
  | _ => .error .opcode

/-- The instruction of one slot word, in the slot that its SMASK bit names (R36, R47). -/
def decodeSlot (sl : Slot) (w : Nat) : Except Bad Instr :=
  match sl with
  | .x => decodeX w
  | .va => decodeV false w
  | .vb => decodeV true w
  | .m => decodeM w
  | .l => decodeL w
  | .s => decodeS w
  | .c => decodeC w
  | .y => decodeY w

/-! ### Header and bundle (R37, R39) -/

/-- The fields of a header parcel. -/
structure Header where
  smask   : BitVec 8
  stop    : Bool
  gap     : BitVec 4
  profile : BitVec 6
  solo    : Bool
deriving DecidableEq, Repr

/-- Slots present, in the order of R36, with their SMASK bits. -/
def slotOrder : List Slot := [.x, .va, .vb, .m, .l, .s, .c, .y]

/-- Number of slot words of a bundle (R37). -/
def Header.words (h : Header) : Nat := (slotOrder.filter (fun sl => h.smask.getLsbD sl.code)).length

/-- Length of a bundle in bytes (R37). -/
def Header.len (h : Header) : Nat := 4 + 8 * h.words

/-- The header's fields, whatever they hold. -/
def headerRaw (w : Nat) : Header :=
  { smask := bfld w 0 8, stop := bit w 8, gap := bfld w 9 4, profile := bfld w 13 6, solo := bit w 19 }

/-- The header checks of R62 step 2, causes 0x01, 0x02 and 0x03 in that order. -/
def decodeHeader (w : Nat) : Except Bad Header :=
  if fld w 28 4 ≠ 10 then .error .mark
  else if fld w 20 8 ≠ 0 then .error .hdrZero
  else if 10 ≤ fld w 13 6 then .error .profile
  else .ok (headerRaw w)

/-- Decode the slot words of a bundle in slot order; `w` holds them from bit 0 (R37). The failing slot comes with
its cause (R62 step 3). -/
def decodeWords (smask : BitVec 8) : List Slot → Nat → Except (Bad × Nat) (List (Slot × Instr))
  | [], _ => .ok []
  | sl :: rest, w =>
    if smask.getLsbD sl.code then
      match decodeSlot sl (w % 2 ^ 64) with
      | .error b => .error (b, sl.code)
      | .ok i =>
        match decodeWords smask rest (w / 2 ^ 64) with
        | .error e => .error e
        | .ok l => .ok ((sl, i) :: l)
    else decodeWords smask rest w

/-- The slots that stand before the first slot word that is no instruction (R62). -/
def decodeBefore (smask : BitVec 8) : List Slot → Nat → List (Slot × Instr)
  | [], _ => []
  | sl :: rest, w =>
    if smask.getLsbD sl.code then
      match decodeSlot sl (w % 2 ^ 64) with
      | .error _ => []
      | .ok i => (sl, i) :: decodeBefore smask rest (w / 2 ^ 64)
    else decodeBefore smask rest w

/-- A decoded bundle. -/
structure Bundle where
  hdr   : Header
  slots : List (Slot × Instr)
deriving DecidableEq, Repr

/-- Decode a bundle whose bits, header first, are `w` (R37, R62); the failing slot is 8 for the header (R61). -/
def decodeBundle (w : Nat) : Except (Bad × Nat) Bundle :=
  match decodeHeader (w % 2 ^ 32) with
  | .error b => .error (b, 8)
  | .ok h =>
    match decodeWords h.smask slotOrder (w / 2 ^ 32) with
    | .error e => .error e
    | .ok l => .ok ⟨h, l⟩

/-! ### Micro-words (R60, R251, R293) -/

/-- The micro-op of a 32-bit micro-word: cause 0x08 of R271 for a reserved code is `opcode` here, a nonzero zero field
is `zero`. -/
def decodeMicro (w : Nat) : Except Bad Instr :=
  let m : BitVec 3 := bfld w 25 3
  match fld w 28 4 with
  | 0 => checked (fld w 0 20 == 0) (some (.feeda m (bit w 24) (bfld w 20 4)))
  | 1 => checked (fld w 0 20 == 0) (some (.feedb m (bit w 24) (bfld w 20 4)))
  | 2 => checked (fld w 0 25 == 0) (some (.mac m))
  | 3 => checked (fld w 0 24 == 0) (some (.chain m (bit w 24)))
  | 4 => checked (fld w 0 25 == 0) (some (.aclr m))
  | 5 => checked (fld w 0 18 == 0) (some (.emit m (bfld w 22 3) (bit w 21) (bfld w 18 3)))
  | 6 => checked (fld w 0 26 == 0) (some (.scale (bit w 27) (bit w 26)))
  | 7 => checked (fld w 0 20 == 0) (some (.bias (bfld w 20 8)))
  | 8 => checked (fld w 0 20 == 0) (some (.adv (bfld w 20 8)))
  | 9 =>
    if bit w 27 then checked (fld w 11 14 == 0) (some (.loopkMh (bfld w 25 2) (bfld w 0 11)))
    else checked (fld w 25 2 == 0) (some (.loopk (bfld w 11 14) (bfld w 0 11)))
  | 10 => checked (fld w 0 21 == 0) (some (.stream m (bfld w 22 3) (bit w 21)))
  | 11 => checked (fld w 0 24 == 0) (some (.endR m (bit w 24)))
  | _ => .error .opcode

/-- The host's reading of a table word: a 32-bit word is a micro-word; 96 bits are a header parcel and one slot word.
Other lengths name no single instruction. -/
def decodeTableWord (nbits w : Nat) : Option Instr :=
  match nbits with
  | 32 => (decodeMicro (w % 2 ^ 32)).toOption
  | 96 =>
    match decodeBundle (w % 2 ^ 96) with
    | .ok ⟨_, [(_, i)]⟩ => some i
    | _ => none
  | _ => none

/-! ### The encoder -/

def b2n (b : Bool) : Nat := if b then 1 else 0

/-- X-R or X-I second operand and form bit (R52). -/
def XSrc.bitsB : XSrc → Nat
  | .reg r => r.toNat * 2 ^ 34
  | .imm v => 2 ^ 52 + v.toNat

/-- The operand whose register is SA. -/
def XSrc.bitsA : XSrc → Nat
  | .reg r => r.toNat * 2 ^ 40
  | .imm v => 2 ^ 52 + v.toNat

def XSrc.isImm : XSrc → Bool
  | .reg _ => false
  | .imm _ => true

/-- Opcode, guard, SD and SA of an X word. -/
def xWord (op : Nat) (g : BitVec 3) (sd sa : Nat) : Nat := op * 2 ^ 56 + g.toNat * 2 ^ 53 + sd * 2 ^ 46 + sa * 2 ^ 40

/-- `.N` at [35] in X-I and [23] in X-R. -/
def nBit (n : Bool) (b : XSrc) : Nat := b2n n * (if b.isImm then 2 ^ 35 else 2 ^ 23)

/-- A field index at SA in X-I and SX in X-R (R142, R143). -/
def fldBits (f : BitVec 6) (v : XSrc) : Nat := f.toNat * (if v.isImm then 2 ^ 40 else 2 ^ 28)

def VF.word (op : Nat) (f : VF) : Nat :=
  op * 2 ^ 56 + f.g.toNat * 2 ^ 53 + f.opd.toNat * 2 ^ 42 + f.opa.toNat * 2 ^ 31 + f.opb.toNat * 2 ^ 20 +
  f.msk.toNat * 2 ^ 16 + f.ty.code * 2 ^ 12 + f.ro.toNat * 2 ^ 10 + f.fls.code * 2 ^ 8 + f.opx.toNat

def Spa.bits : Spa → Nat
  | .bank b au an inc off =>
    b.toNat * 2 ^ 21 + b2n au * 2 ^ 20 + an.toNat * 2 ^ 16 + b2n inc * 2 ^ 15 + off.toNat
  | .queue q k wt => 2 ^ 25 + q.toNat * 2 ^ 21 + k.toNat * 2 ^ 13 + wt.toNat * 2 ^ 4

def LF.word (op : Nat) (f : LF) : Nat :=
  op * 2 ^ 56 + f.g.toNat * 2 ^ 53 + f.opd.toNat * 2 ^ 42 + f.sh.toNat * 2 ^ 40 + b2n f.sw * 2 ^ 39 +
  f.ty.code * 2 ^ 35 + f.opx.toNat * 2 ^ 26 + f.spa.bits

/-- A scope field with its flag bit (R56). -/
def scopeBits (flag lo : Nat) : Option Scope → Nat
  | none => 0
  | some s => 2 ^ flag + s.code * 2 ^ lo

def CF.word (op : Nat) (f : CF) (opx : Nat) (low : Nat) : Nat :=
  op * 2 ^ 56 + f.g.toNat * 2 ^ 53 + f.tag.toNat * 2 ^ 47 + scopeBits 46 43 f.aq + scopeBits 42 39 f.rl +
  f.sh.toNat * 2 ^ 37 + b2n f.sw * 2 ^ 36 + f.sa.toNat * 2 ^ 30 + opx * 2 ^ 26 + low

def mWord (op : Nat) (g : BitVec 3) (idx : Nat) : Nat := op * 2 ^ 56 + g.toNat * 2 ^ 53 + idx * 2 ^ 45

def mrunWord (fold : Nat) (g : BitVec 3) (idx : BitVec 8) (sh : BitVec 2) (sw : Bool) (rep : BitVec 12)
    (inc : BitVec 8) : Nat :=
  mWord 0 g idx.toNat + fold * 2 ^ 44 + sh.toNat * 2 ^ 42 + b2n sw * 2 ^ 41 + rep.toNat * 2 ^ 29 + inc.toNat * 2 ^ 21

def yWord (op : Nat) (g : BitVec 3) (sd sa sb sc : Nat) : Nat :=
  op * 2 ^ 56 + g.toNat * 2 ^ 53 + sd * 2 ^ 47 + sa * 2 ^ 41 + sb * 2 ^ 35 + sc * 2 ^ 32

def qadvWord (e : Nat) (g : BitVec 3) (q : BitVec 4) : QCnt → Nat
  | .imm k => yWord 1 g 0 0 0 0 + k.toNat * 2 ^ 5 + e * 2 ^ 4 + q.toNat
  | .reg sb => yWord 1 g 0 0 sb.toNat 0 + 2 ^ 14 + e * 2 ^ 4 + q.toNat

/-- Which kind of slot word an instruction is (R47); V words issue in VA or VB. -/
inductive Space where
  | x | v | m | l | s | c | y | micro
deriving DecidableEq, Repr

/-- The words of an instruction: its slot kind with its 64-bit slot word, or `micro` with its 32-bit micro-word.
Steps that are no instruction have no word. -/
def Instr.encode : Instr → Option (Space × Nat)
  | .add g sd sa b => some (.x, xWord 0x00 g sd.toNat sa.toNat + b.bitsB)
  | .sub g sd sa b => some (.x, xWord 0x01 g sd.toNat sa.toNat + b.bitsB)
  | .mul g sd sa b => some (.x, xWord 0x02 g sd.toNat sa.toNat + b.bitsB)
  | .mulh g n sd sa b => some (.x, xWord 0x03 g sd.toNat sa.toNat + nBit n b + b.bitsB)
  | .and g sd sa b => some (.x, xWord 0x04 g sd.toNat sa.toNat + b.bitsB)
  | .or g sd sa b => some (.x, xWord 0x05 g sd.toNat sa.toNat + b.bitsB)
  | .xor g sd sa b => some (.x, xWord 0x06 g sd.toNat sa.toNat + b.bitsB)
  | .shl g sd sa b => some (.x, xWord 0x07 g sd.toNat sa.toNat + b.bitsB)
  | .shr g sd sa b => some (.x, xWord 0x08 g sd.toNat sa.toNat + b.bitsB)
  | .sra g sd sa b => some (.x, xWord 0x09 g sd.toNat sa.toNat + b.bitsB)
  | .min g n sd sa b => some (.x, xWord 0x0A g sd.toNat sa.toNat + nBit n b + b.bitsB)
  | .max g n sd sa b => some (.x, xWord 0x0B g sd.toNat sa.toNat + nBit n b + b.bitsB)
  | .clz g sd sa => some (.x, xWord 0x0C g sd.toNat sa.toNat)
  | .popc g sd sa => some (.x, xWord 0x0D g sd.toNat sa.toNat)
  | .set g cc sd sa b =>
    some (.x, xWord 0x0E g sd.toNat sa.toNat + cc.code * (if b.isImm then 2 ^ 36 else 2 ^ 24) + b.bitsB)
  | .sel g sd sc sa sb => some (.x, xWord 0x0F g sd.toNat sa.toNat + sb.toNat * 2 ^ 34 + sc.toNat * 2 ^ 28)
  | .li g sd v => some (.x, xWord 0x10 g sd.toNat 0 + 2 ^ 52 + v.toNat)
  | .lih g sd sa v => some (.x, xWord 0x11 g sd.toNat sa.toNat + 2 ^ 52 + v.toNat)
  | .mova g (.toA ad sa) => some (.x, xWord 0x20 g ad.toNat sa.toNat)
  | .mova g (.fromA sd aa) => some (.x, xWord 0x20 g sd.toNat aa.toNat + 2 ^ 28)
  | .mova g (.immA ad v) => some (.x, xWord 0x20 g ad.toNat 0 + 2 ^ 52 + v.toNat)
  | .adda g ad aa b => some (.x, xWord 0x21 g ad.toNat aa.toNat + b.bitsB)
  | .br g cc sa sb off => some (.x, xWord 0x28 g 0 sa.toNat + sb.toNat * 2 ^ 34 + cc.code * 2 ^ 30 + off.toNat)
  | .jmp g sa off => some (.x, xWord 0x29 g 0 sa.toNat + off.toNat)
  | .call g sd sa off => some (.x, xWord 0x2A g sd.toNat sa.toNat + off.toNat)
  | .ret g sa => some (.x, xWord 0x2B g 0 sa.toNat)
  | .loop g rot stg cnt => some (.x, xWord 0x2C g (b2n rot * 2 ^ 3 + stg.toNat) 0 + cnt.bitsA)
  | .exit g c => some (.x, xWord 0x2D g 0 0 + c.bitsA)
  | .trap g c => some (.x, xWord 0x2E g 0 0 + c.bitsA)
  | .wnext g sd => some (.x, xWord 0x2F g sd.toNat 0)
  | .wnextField g sd k => some (.x, xWord 0x2F g sd.toNat 0 + 2 ^ 52 + k.toNat)
  | .mfc g sd crn => some (.x, xWord 0x38 g sd.toNat crn.toNat)
  | .mtc g crn sa => some (.x, xWord 0x39 g crn.toNat sa.toNat)
  | .shw g cls n f v => some (.x, xWord 0x40 g (cls.toNat * 2 ^ 4 + n.toNat * 2 ^ 2) 0 + fldBits f v + v.bitsA)
  | .tdw g tid f v => some (.x, xWord 0x41 g tid.toNat 0 + fldBits f v + v.bitsA)
  | .tdr g sd tid f imm =>
    some (.x, xWord 0x42 g sd.toNat tid.toNat + (if imm then 2 ^ 52 + f.toNat else f.toNat * 2 ^ 28))
  | .spmark g sd v => some (.x, xWord 0x48 g sd.toNat 0 + v.bitsA)
  | .spdrop g sa v => some (.x, xWord 0x49 g 0 sa.toNat + v.bitsB)
  | .spdepth g sd => some (.x, xWord 0x4A g sd.toNat 0)
  | .vadd f => some (.v, f.word 0x00) | .vsub f => some (.v, f.word 0x01) | .vmul f => some (.v, f.word 0x02)
  | .vfma f => some (.v, f.word 0x03) | .vfms f => some (.v, f.word 0x04) | .vmin f => some (.v, f.word 0x05)
  | .vmax f => some (.v, f.word 0x06) | .vabs f => some (.v, f.word 0x07) | .vneg f => some (.v, f.word 0x08)
  | .viadd f => some (.v, f.word 0x20) | .visub f => some (.v, f.word 0x21) | .vimul f => some (.v, f.word 0x22)
  | .vimad f => some (.v, f.word 0x23) | .vimin f => some (.v, f.word 0x24) | .vimax f => some (.v, f.word 0x25)
  | .viabs f => some (.v, f.word 0x26) | .vshl f => some (.v, f.word 0x27) | .vshr f => some (.v, f.word 0x28)
  | .vsra f => some (.v, f.word 0x29) | .vand f => some (.v, f.word 0x2A) | .vor f => some (.v, f.word 0x2B)
  | .vxor f => some (.v, f.word 0x2C) | .vcmp f => some (.v, f.word 0x40) | .vsel f => some (.v, f.word 0x41)
  | .vmop f => some (.v, f.word 0x42) | .vrcp f => some (.v, f.word 0x50) | .vrsq f => some (.v, f.word 0x51)
  | .vsqrt f => some (.v, f.word 0x52) | .vexp2 f => some (.v, f.word 0x53) | .vlog2 f => some (.v, f.word 0x54)
  | .vtanh f => some (.v, f.word 0x55) | .verf f => some (.v, f.word 0x56) | .vcvt f => some (.v, f.word 0x60)
  | .vwiden f => some (.v, f.word 0x61) | .vnarrow f => some (.v, f.word 0x62) | .vunpk f => some (.v, f.word 0x63)
  | .vqmx f => some (.v, f.word 0x64) | .vdqmx f => some (.v, f.word 0x65) | .vperm f => some (.v, f.word 0x70)
  | .vslide f => some (.v, f.word 0x71) | .vbcast f => some (.v, f.word 0x72) | .vextr f => some (.v, f.word 0x73)
  | .vins f => some (.v, f.word 0x74) | .vred f => some (.v, f.word 0x80) | .vrdrn f => some (.v, f.word 0x81)
  | .vrclr f => some (.v, f.word 0x82) | .vdot f => some (.v, f.word 0x90) | .raddf f => some (.v, f.word 0xA0)
  | .unaddf f => some (.v, f.word 0xA1) | .rsubf f => some (.v, f.word 0xA2) | .unsubf f => some (.v, f.word 0xA3)
  | .rmulf f => some (.v, f.word 0xA4) | .unmulf f => some (.v, f.word 0xA5) | .rnarw f => some (.v, f.word 0xA6)
  | .unnarw f => some (.v, f.word 0xA7) | .rshr f => some (.v, f.word 0xA8) | .unshr f => some (.v, f.word 0xA9)
  | .rscl f => some (.v, f.word 0xAA) | .unscl f => some (.v, f.word 0xAB) | .rimul f => some (.v, f.word 0xAC)
  | .unimul f => some (.v, f.word 0xAD)
  | .mrun g idx sh sw rep inc => some (.m, mrunWord 0 g idx sh sw rep inc)
  | .mrunF g idx sh sw rep inc => some (.m, mrunWord 1 g idx sh sw rep inc)
  | .mpload g idx bank off => some (.m, mWord 1 g idx.toNat + bank.toNat * 2 ^ 16 + off.toNat * 2 ^ 4)
  | .mploadP g k sa => some (.m, mWord 1 g 0 + 2 ^ 20 + k.toNat * 2 ^ 17 + sa.toNat * 2 ^ 11)
  | .lend g k => some (.m, mWord 2 g k.toNat)
  | .recl g k => some (.m, mWord 3 g k.toNat)
  | .mstrOpen g e t sv => some (.m, mWord 4 g e.toNat + sv.toNat * 2 ^ 6 + t.toNat * 2 ^ 3)
  | .mstrPause g e => some (.m, mWord 4 g e.toNat + 1)
  | .mstrResume g e => some (.m, mWord 4 g e.toNat + 2)
  | .mstrReset g e => some (.m, mWord 4 g e.toNat + 3)
  | .mstrClose g e => some (.m, mWord 4 g e.toNat + 4)
  | .feeda m lb k => some (.micro, m.toNat * 2 ^ 25 + b2n lb * 2 ^ 24 + k.toNat * 2 ^ 20)
  | .feedb m lb k => some (.micro, 2 ^ 28 + m.toNat * 2 ^ 25 + b2n lb * 2 ^ 24 + k.toNat * 2 ^ 20)
  | .mac t => some (.micro, 2 * 2 ^ 28 + t.toNat * 2 ^ 25)
  | .chain t last => some (.micro, 3 * 2 ^ 28 + t.toNat * 2 ^ 25 + b2n last * 2 ^ 24)
  | .aclr t => some (.micro, 4 * 2 ^ 28 + t.toNat * 2 ^ 25)
  | .emit t g st m => some (.micro, 5 * 2 ^ 28 + t.toNat * 2 ^ 25 + g.toNat * 2 ^ 22 + b2n st * 2 ^ 21 + m.toNat * 2 ^ 18)
  | .scale a b => some (.micro, 6 * 2 ^ 28 + b2n a * 2 ^ 27 + b2n b * 2 ^ 26)
  | .bias v => some (.micro, 7 * 2 ^ 28 + v.toNat * 2 ^ 20)
  | .adv mask => some (.micro, 8 * 2 ^ 28 + mask.toNat * 2 ^ 20)
  | .loopk n len => some (.micro, 9 * 2 ^ 28 + n.toNat * 2 ^ 11 + len.toNat)
  | .loopkMh f len => some (.micro, 9 * 2 ^ 28 + 2 ^ 27 + f.toNat * 2 ^ 25 + len.toNat)
  | .stream e u cl => some (.micro, 10 * 2 ^ 28 + e.toNat * 2 ^ 25 + u.toNat * 2 ^ 22 + b2n cl * 2 ^ 21)
  | .endR m nb => some (.micro, 11 * 2 ^ 28 + m.toNat * 2 ^ 25 + b2n nb * 2 ^ 24)
  | .vld f => some (.l, f.word 0x00) | .vldt f => some (.l, f.word 0x01) | .vldb f => some (.l, f.word 0x02)
  | .vldg f => some (.l, f.word 0x03) | .sld f => some (.l, f.word 0x04) | .mld f => some (.l, f.word 0x05)
  | .vst f => some (.s, f.word 0x00) | .vstx f => some (.s, f.word 0x01) | .sst f => some (.s, f.word 0x02)
  | .mst f => some (.s, f.word 0x03)
  | .putq g vs ben ctx q wt =>
    some (.s, 4 * 2 ^ 56 + g.toNat * 2 ^ 53 + vs.toNat * 2 ^ 42 + ben.toNat * 2 ^ 33 + ctx.toNat * 2 ^ 31 + 2 ^ 25 +
      q.toNat * 2 ^ 21 + wt.toNat * 2 ^ 4)
  | .cpyLd f mc spa => some (.c, f.word 0x00 (b2n mc * 2) spa.bits)
  | .cpySt f spa => some (.c, f.word 0x00 1 spa.bits)
  | .cpytLd f spa => some (.c, f.word 0x01 0 spa.bits)
  | .cpytSt f spa => some (.c, f.word 0x01 1 spa.bits)
  | .cpair f spa => some (.c, f.word 0x02 0 spa.bits)
  | .cgath f ib spa => some (.c, f.word 0x03 ib.toNat spa.bits)
  | .cmig f host dl => some (.c, f.word 0x04 (b2n host) dl.toNat)
  | .nmcopy f dp => some (.c, f.word 0x10 0 dp.toNat)
  | .nmdot f spa => some (.c, f.word 0x11 0 spa.bits)
  | .fsamp f t spa => some (.c, f.word 0x20 t.code spa.bits)
  | .ftap f spa => some (.c, f.word 0x21 0 spa.bits)
  | .ftick f n1 => some (.c, f.word 0x22 0 n1.toNat)
  | .ftickG f gn1 n1 => some (.c, f.word 0x22 1 (gn1.toNat * 2 ^ 12 + n1.toNat))
  | .freset f => some (.c, f.word 0x23 0 0)
  | .fresetIn f => some (.c, f.word 0x23 1 0)
  | .collRs f spa => some (.c, f.word 0x28 0 spa.bits)
  | .collAg f spa => some (.c, f.word 0x28 1 spa.bits)
  | .collAr f spa => some (.c, f.word 0x28 2 spa.bits)
  | .fence g sc ord => some (.y, yWord 0 g 0 0 0 sc.code + ord.code * 2 ^ 30)
  | .qadvH g q k => some (.y, qadvWord 0 g q k)
  | .qadvT g q k => some (.y, qadvWord 1 g q k)
  | .twait g sa => some (.y, yWord 2 g 0 sa.toNat 0 0)
  | .twany g sa => some (.y, yWord 3 g 0 sa.toNat 0 0)
  | .tfind g sd sa => some (.y, yWord 4 g sd.toNat sa.toNat 0 0)
  | .tclr g sa => some (.y, yWord 5 g 0 sa.toNat 0 0)
  | .bar g sc id => some (.y, yWord 6 g 0 0 0 sc.code + id.toNat)
  | .signalAdd g sc sa sb => some (.y, yWord 7 g 0 sa.toNat sb.toNat sc.code)
  | .signalStore g sc sa sb => some (.y, yWord 7 g 0 sa.toNat sb.toNat sc.code + 1)
  | .swait g sc sd sa sb t => some (.y, yWord 8 g sd.toNat sa.toNat sb.toNat sc.code + t.toNat)
  | .launch g sd sa => some (.y, yWord 9 g sd.toNat sa.toNat 0 0)
  | .expose g sa => some (.y, yWord 10 g 0 sa.toNat 0 0)
  | .yield g => some (.y, yWord 11 g 0 0 0 0)
  | _ => none

/-- The slot in which a word of a kind issues; `vb` chooses between VA and VB (R59). -/
def Space.slot (vb : Bool) : Space → Option Slot
  | .x => some .x
  | .v => some (if vb then .vb else .va)
  | .m => some .m
  | .l => some .l
  | .s => some .s
  | .c => some .c
  | .y => some .y
  | .micro => none

/-- A header parcel (R39). -/
def Header.word (h : Header) : Nat :=
  10 * 2 ^ 28 + b2n h.solo * 2 ^ 19 + h.profile.toNat * 2 ^ 13 + h.gap.toNat * 2 ^ 9 + b2n h.stop * 2 ^ 8 + h.smask.toNat

/-- Decode what `encode` gives, V words in VB (every V opcode may stand there, R59). -/
def decodeSpace (sp : Space) (w : Nat) : Except Bad Instr :=
  match sp.slot true with
  | some sl => decodeSlot sl w
  | none => decodeMicro w

end Sys2Proof
end

