-- ==== Sys2Proof/Config.lean ====
section
/-! DEFINITION. What the spec leaves to the implementation or does not give: free values, applied to the counter
`freeCtr` of the state (log 12), and the fuses (R397) and the places of a firmware image's header (R396; log 11). Each is an
opaque constant: nothing can be proved of its values. -/

namespace Sys2Proof.Config

/-- A free number for the draw numbered by the argument: a time or a choice the spec does not fix. -/
opaque freeNat : Nat → Nat

/-- A free byte: what the spec does not say a byte holds. -/
opaque freeByte : Nat → Byte

/-- A free integer: a sum the spec gives no value (R170, a NaN or an infinity formed under a floating profile that meets
an integer latch). -/
opaque freeSum : Nat → Int

/-- A free pattern: the I32 pattern of k / 2^d, which is no integer (R171, such a latch drained). -/
opaque fracPattern (k : Int) (d : Nat) : BitVec 32

/-- A free tile: what a tile holds when a stream entry takes it (R252, R294). -/
opaque freeTile : Nat → BitVec 32768

/-- A free byte of a unit scratchpad that is lost with its bench, by location (R299). -/
opaque lostByte : Nat → Byte

/-- The SHA-256 digest of the root public key, in the fuses (R397). -/
opaque rootKeyDigest : BitVec 256

/-- The minimum security version of the fuses (R397). -/
opaque minSecurityVersion : Nat

/-- The identity key of the device (R397). -/
opaque identityKey : BitVec 256

/-- The certificate issued for the identity key (R397). -/
opaque certificate : Nat

/-- Payload length in bytes, security version and signing key in the 256-byte header of a firmware image, whose layout the spec does
not give (R396). -/
opaque bootLength : Nat → Nat
opaque bootVersion : Nat → Nat
opaque bootKey : Nat → BitVec 512

/-- The device's serial number (R394). -/
opaque serial : BitVec 64

end Sys2Proof.Config
end

