-- ==== Sys2Proof/Machine/Flags.lean ====
section
/-! DEFINITION. FPCR and FPSTAT (R72, R73): the flag bits, the modes an operation captures at issue (R75), the
rounding-override field (R51) and the stochastic draw (R80). -/

namespace Sys2Proof.Machine

/-- The seven sticky flags of FPSTAT, in its bit order (R73). -/
abbrev Flags := BitVec 7

/-- Invalid operation. -/
def fNV : Flags := 1#7
/-- Division by zero. -/
def fDZ : Flags := 2#7
/-- Overflow. -/
def fOF : Flags := 4#7
/-- Underflow. -/
def fUF : Flags := 8#7
/-- Inexact. -/
def fIX : Flags := 16#7
/-- An integer result saturated. -/
def fSAT : Flags := 32#7
/-- A subnormal input was flushed. -/
def fDI : Flags := 64#7

/-- `f` when the condition holds, no flag otherwise. -/
def flagIf (c : Bool) (f : Flags) : Flags := if c then f else 0#7

/-- Rounding modes of R76, stochastic rounding among them. -/
inductive RMode where
  | rne | rz | rd | ru | sr
deriving DecidableEq, Repr

/-- The modes an operation captures when it issues (R75), with the stochastic seed and counter (R80). -/
structure Modes where
  mode  : RMode
  fzi   : Bool
  fzo   : Bool
  e5sat : Bool
  seed  : BitVec 64
  ctr   : BitVec 64
deriving DecidableEq, Repr

/-- The mode FPCR.RM names (R72). -/
def rmOf (fpcr : BitVec 5) : RMode :=
  match (fpcr.extractLsb' 0 2).toNat with
  | 0 => .rne
  | 1 => .rz
  | 2 => .rd
  | _ => .ru

/-- The mode of an operation whose RO field is `ro` under `fpcr` (R51, R75). -/
def modeOf (fpcr : BitVec 5) (ro : BitVec 2) : RMode :=
  match ro.toNat with
  | 0 => rmOf fpcr
  | 1 => .rne
  | 2 => .rz
  | _ => .sr

/-- Modes captured at issue from FPCR, RO, SEED and SRCTR (R75, R82). -/
def captureModes (fpcr : BitVec 5) (ro : BitVec 2) (seed ctr : BitVec 64) : Modes :=
  { mode := modeOf fpcr ro, fzi := fpcr.getLsbD 2, fzo := fpcr.getLsbD 3, e5sat := fpcr.getLsbD 4, seed, ctr }

/-- Round to nearest even with no flush: the modes of every profiled rounding (R89). -/
def rneModes : Modes := ⟨.rne, false, false, false, 0, 0⟩

/-- The 64-bit mix of R80. -/
def srMix (seed ctr : BitVec 64) (i : Nat) : BitVec 64 :=
  let z := seed ^^^ (ctr * 0x10000#64 + BitVec.ofNat 64 i)
  let z := (z ^^^ (z >>> 30)) * 0xBF58476D1CE4E5B9#64
  let z := (z ^^^ (z >>> 27)) * 0x94D049BB133111EB#64
  z ^^^ (z >>> 31)

/-- SrBits(i, n) (R80). -/
def srBits (seed ctr : BitVec 64) (i n : Nat) : Nat := (srMix seed ctr i).toNat % 2 ^ n

end Sys2Proof.Machine
end

