-- ==== Sys2Proof/Machine/Num.lean ====
section
/-! DEFINITION. Number formats and rounding (R64 to R69, R76 to R83, R86 to R92, R159): lane patterns read as exact
values, exact arithmetic, RoundTo, SatTo and WrapTo, the chunk sum and the reduction tree. -/

namespace Sys2Proof.Machine

/-- An exact value: NaN, an infinity, or ±m·2^e (R24). A zero keeps its sign. -/
inductive Ext where
  | nan
  | inf (neg : Bool)
  | num (neg : Bool) (m : Nat) (e : Int)
deriving DecidableEq, Repr

/-! ### Formats (R65) -/

/-- Fraction bits of a floating type. -/
def fracBits : ETy → Nat
  | .fp32 => 23 | .fp16 => 10 | .bf16 => 7 | .e5m2 => 2 | .e4m3 => 3 | .e2m1 => 1 | _ => 0

/-- Exponent bits of a floating type. -/
def expBits : ETy → Nat
  | .fp32 => 8 | .fp16 => 5 | .bf16 => 8 | .e5m2 => 5 | .e4m3 => 4 | .e2m1 => 2 | .e8m0 => 8 | _ => 0

/-- Exponent bias of a floating type. -/
def expBias : ETy → Nat
  | .fp32 | .bf16 | .e8m0 => 127 | .fp16 | .e5m2 => 15 | .e4m3 => 7 | .e2m1 => 1 | _ => 0

/-- The format has infinities. -/
def hasInf : ETy → Bool
  | .fp32 | .fp16 | .bf16 | .e5m2 => true
  | _ => false

/-- Exponent of the smallest subnormal, 1 − bias − m. -/
def expMin (t : ETy) : Int := 1 - (expBias t : Int) - (fracBits t : Int)

/-- Significand and exponent of the maximum finite value. -/
def maxFinite : ETy → Nat × Int
  | .fp32 => (2 ^ 24 - 1, 104) | .fp16 => (2 ^ 11 - 1, 5) | .bf16 => (2 ^ 8 - 1, 120) | .e5m2 => (7, 13)
  | .e4m3 => (14, 5) | .e2m1 => (3, 1) | _ => (0, 0)

/-- The default NaN of a format (R66); E2M1 has none and a NaN becomes +0 there. -/
def defaultNaN : ETy → Nat
  | .fp32 => 0x7FC00000 | .fp16 => 0x7E00 | .bf16 => 0x7FC0 | .e5m2 => 0x7E | .e4m3 => 0x7F | .e8m0 => 0xFF | _ => 0

/-- Sign bit of a floating pattern. -/
def signOf (t : ETy) (b : Nat) : Bool := b / 2 ^ (t.width - 1) % 2 == 1

/-- Biased exponent of a floating pattern. -/
def expOf (t : ETy) (b : Nat) : Nat := b / 2 ^ fracBits t % 2 ^ expBits t

/-- Fraction of a floating pattern. -/
def fracOf (t : ETy) (b : Nat) : Nat := b % 2 ^ fracBits t

/-- An integer as an exact value. -/
def extInt (z : Int) : Ext := .num (decide (z < 0)) z.natAbs 0

/-- The integer value of a lane pattern (R64, R27). -/
def intOf (t : ETy) (b : Nat) : Int :=
  if t.isSigned && decide (2 ^ (t.width - 1) ≤ b % 2 ^ t.width) then (b % 2 ^ t.width : Nat) - (2 ^ t.width : Nat)
  else (b % 2 ^ t.width : Nat)

/-- The pattern is a NaN (R65). -/
def isNaN (t : ETy) (b : Nat) : Bool :=
  match t with
  | .fp32 | .fp16 | .bf16 | .e5m2 => expOf t b == 2 ^ expBits t - 1 && fracOf t b != 0
  | .e4m3 => expOf t b == 15 && fracOf t b == 7
  | .e8m0 => b % 256 == 255
  | _ => false

/-- The pattern is a signalling NaN (R66). -/
def isSNaN (t : ETy) (b : Nat) : Bool :=
  hasInf t && isNaN t b && b / 2 ^ (fracBits t - 1) % 2 == 0

/-- The pattern is a subnormal. -/
def isSub (t : ETy) (b : Nat) : Bool := expOf t b == 0 && fracOf t b != 0

/-- FP32, FP16 and BF16 flush; the MX formats never do (R77). -/
def flushes (t : ETy) : Bool := t.isFpArith

/-- The exact value of a lane pattern read as type `t` (R64, R65). -/
def valOf (t : ETy) (b : Nat) : Ext :=
  if t.isInt then extInt (intOf t b)
  else if t = .e8m0 then (if b % 256 = 255 then .nan else .num false 1 ((b % 256 : Nat) - 127))
  else if isNaN t b then .nan
  else if hasInf t && expOf t b == 2 ^ expBits t - 1 then .inf (signOf t b)
  else if expOf t b = 0 then .num (signOf t b) (fracOf t b) (expMin t)
  else .num (signOf t b) (2 ^ fracBits t + fracOf t b) (expMin t + (expOf t b : Int) - 1)

/-- A source lane read by an operation that flushes its inputs under FZI, with the flags that reading raises: NV for
a signalling NaN, DI for a flushed subnormal (R66, R77). -/
def readVal (c : Modes) (t : ETy) (b : Nat) : Ext × Flags :=
  if c.fzi && flushes t && isSub t b then (.num (signOf t b) 0 0, fDI)
  else (valOf t b, flagIf (isSNaN t b) fNV)

/-! ### Exact arithmetic (R24, R83) -/

/-- −x. -/
def negExt : Ext → Ext
  | .nan => .nan
  | .inf n => .inf (!n)
  | .num n m e => .num (!n) m e

/-- m·2^e as a multiple of 2^d, for d ≤ e. -/
def scaleTo (m : Nat) (e d : Int) : Nat := m * 2 ^ (e - d).toNat

/-- Signed significand at exponent `d`. -/
def signedAt (n : Bool) (m : Nat) (e d : Int) : Int := if n then -(scaleTo m e d : Int) else scaleTo m e d

/-- Product: the flag says it is invalid, 0 × ∞ (R66). -/
def mulExt (a b : Ext) : Ext × Bool :=
  match a, b with
  | .inf x, .num y m _ => if m = 0 then (.nan, true) else (.inf (x != y), false)
  | .num x m _, .inf y => if m = 0 then (.nan, true) else (.inf (x != y), false)
  | .inf x, .inf y => (.inf (x != y), false)
  | .num x m e, .num y k f => (.num (x != y) (m * k) (e + f), false)
  | _, _ => (.nan, false)

/-- A product of a dot product. Integers have one zero: their zero product has no sign (R24, R93). -/
def dotMul (int : Bool) (a b : Ext) : Ext :=
  match (mulExt a b).1 with
  | .num n m e => .num (n && !(int && m == 0)) m e
  | x => x

/-- Sum of two exact values; `rd` says that exact cancellations give −0 (R83). The flag says ∞ − ∞ (R66). -/
def addExt (rd : Bool) (a b : Ext) : Ext × Bool :=
  match a, b with
  | .inf x, .inf y => if x = y then (.inf x, false) else (.nan, true)
  | .inf x, .num .. => (.inf x, false)
  | .num .., .inf y => (.inf y, false)
  | .num x m e, .num y k f =>
    if m = 0 ∧ k = 0 then (.num (x && y) 0 0, false)
    else
      let d := min e f
      let z := signedAt x m e d + signedAt y k f d
      if z = 0 then (.num rd 0 0, false) else (.num (decide (z < 0)) z.natAbs d, false)
  | _, _ => (.nan, false)

/-- Times 2^k. -/
def shiftExt (k : Int) : Ext → Ext
  | .num n m e => .num n m (e + k)
  | x => x

/-- Position of the leading bit: ⌊log2 (m·2^e)⌋ for m ≠ 0. -/
def topExp (m : Nat) (e : Int) : Int := (Nat.log2 m : Int) + e

/-- a < b on finite values, zeros equal. -/
def ltNum (x : Bool) (m : Nat) (e : Int) (y : Bool) (k : Nat) (f : Int) : Bool :=
  let d := min e f
  decide (signedAt x m e d < signedAt y k f d)

/-- a < b for values that are no NaN. -/
def ltExt (a b : Ext) : Bool :=
  match a, b with
  | .inf x, .inf y => x && !y
  | .inf x, .num .. => x
  | .num .., .inf y => !y
  | .num x m e, .num y k f => ltNum x m e y k f
  | _, _ => false

/-- a = b for values that are no NaN; −0 equals +0 (R155). -/
def eqExt (a b : Ext) : Bool :=
  match a, b with
  | .nan, _ | _, .nan => false
  | _, _ => !(ltExt a b) && !(ltExt b a)

/-! ### RoundTo (R76 to R81) -/

/-- The magnitude rounds away from zero: `r` of `2^k` left over above grid point `lo` (R76, R81). -/
def roundsUp (c : Modes) (i : Nat) (neg : Bool) (lo r k : Nat) : Bool :=
  match c.mode with
  | .rne => decide (2 ^ k < 2 * r ∨ (2 * r = 2 ^ k ∧ lo % 2 = 1))
  | .rz => false
  | .rd => neg
  | .ru => !neg
  | .sr => decide (2 ^ 32 ≤ r * 2 ^ 32 / 2 ^ k + srBits c.seed c.ctr i 32)

/-- The magnitude m·2^e put on a grid of spacing 2^u: grid multiple and whether it is inexact. -/
def onGrid (c : Modes) (i : Nat) (neg : Bool) (m : Nat) (e u : Int) : Nat × Bool :=
  if u ≤ e then (m * 2 ^ (e - u).toNat, false)
  else
    let k := (u - e).toNat
    let lo := m / 2 ^ k
    let r := m % 2 ^ k
    if r = 0 then (lo, false) else (lo + (if roundsUp c i neg lo r k then 1 else 0), true)

/-- Spacing of the grid of `t` about m·2^e, extended to unbounded exponent (R76). -/
def gridExp (t : ETy) (m : Nat) (e : Int) : Int := max (topExp m e - (fracBits t : Int)) (expMin t)

/-- m·2^u exceeds the maximum finite value of `t`. -/
def beyondMax (t : ETy) (m : Nat) (u : Int) : Bool :=
  let d := min u (maxFinite t).2
  decide (scaleTo (maxFinite t).1 (maxFinite t).2 d < scaleTo m u d)

/-- The pattern of ±m·2^u, a representable value on the grid of `t`. -/
def packNum (t : ETy) (neg : Bool) (m : Nat) (u : Int) : Nat :=
  let s := if neg then 2 ^ (t.width - 1) else 0
  if m = 0 then s
  else
    let v := gridExp t m u
    let k := if v ≤ u then m * 2 ^ (u - v).toNat else m / 2 ^ (v - u).toNat
    if k < 2 ^ fracBits t then s + k
    else s + (v - expMin t + 1).toNat * 2 ^ fracBits t + (k - 2 ^ fracBits t)

/-- The infinity of a format that has one. -/
def packInf (t : ETy) (neg : Bool) : Nat :=
  (if neg then 2 ^ (t.width - 1) else 0) + (2 ^ expBits t - 1) * 2 ^ fracBits t

/-- ±max of a format. -/
def packMax (t : ETy) (neg : Bool) : Nat := packNum t neg (maxFinite t).1 (maxFinite t).2

/-- Results of `t` saturate in every mode (R76). -/
def saturates (c : Modes) (t : ETy) : Bool := !(hasInf t) || (t == .e5m2 && c.e5sat)

/-- The overflow table of R76. -/
def overflowTo (c : Modes) (t : ETy) (neg : Bool) : Nat :=
  if saturates c t then packMax t neg
  else
    match c.mode with
    | .rne | .sr => packInf t neg
    | .rz => packMax t neg
    | .rd => if neg then packInf t neg else packMax t neg
    | .ru => if neg then packMax t neg else packInf t neg

/-- RoundTo of a finite value to a floating type; `sat` forces saturation (R69). -/
def roundNum (c : Modes) (sat : Bool) (t : ETy) (i : Nat) (neg : Bool) (m : Nat) (e : Int) : Nat × Flags :=
  if m = 0 then (packNum t neg 0 0, 0)
  else
    let u := gridExp t m e
    let g := onGrid c i neg m e u
    if beyondMax t g.1 u then ((if sat then packMax t neg else overflowTo c t neg), fOF ||| fIX)
    else
      let sub := decide (g.1 < 2 ^ fracBits t)
      if c.fzo && flushes t && sub && g.1 != 0 then (packNum t neg 0 0, fUF ||| fIX)
      else (packNum t neg g.1 u, flagIf g.2 fIX ||| flagIf (g.2 && sub) fUF)

/-- RoundTo(x, t, m) for a floating type (R76, R77, R81). -/
def roundFloat (c : Modes) (sat : Bool) (t : ETy) (i : Nat) (x : Ext) : Nat × Flags :=
  match x with
  | .nan => (defaultNaN t, flagIf (t == .e2m1) fNV)
  | .inf n => if sat || saturates c t then (packMax t n, fOF) else (packInf t n, 0)
  | .num n m e => roundNum c sat t i n m e

/-- Least value of an integer type (R64). -/
def intMin (t : ETy) : Int := if t.isSigned then -(2 ^ (t.width - 1) : Nat) else 0

/-- Greatest value of an integer type (R64). -/
def intMax (t : ETy) : Int := if t.isSigned then (2 ^ (t.width - 1) : Nat) - 1 else (2 ^ t.width : Nat) - 1

/-- The pattern of an integer, modulo 2^w: WrapTo (R27). -/
def wrapTo (t : ETy) (z : Int) : Nat := (z % (2 ^ t.width : Nat)).toNat

/-- SatTo(x, t): the pattern and SAT (R79). -/
def satTo (t : ETy) (z : Int) : Nat × Flags :=
  if z < intMin t then (wrapTo t (intMin t), fSAT)
  else if intMax t < z then (wrapTo t (intMax t), fSAT)
  else (wrapTo t z, 0)

/-- RoundTo for an integer type (R78). -/
def roundInt (c : Modes) (t : ETy) (i : Nat) (x : Ext) : Nat × Flags :=
  match x with
  | .nan => (0, fNV)
  | .inf n => (wrapTo t (if n then intMin t else intMax t), fSAT)
  | .num n m e =>
    let g := onGrid c i n m e 0
    let r := satTo t (if n then -(g.1 : Int) else g.1)
    (r.1, r.2 ||| flagIf g.2 fIX)

/-- RoundTo(x, t, m) (R76, R78). -/
def roundTo (c : Modes) (t : ETy) (i : Nat) (x : Ext) : Nat × Flags :=
  if t.isInt then roundInt c t i x else roundFloat c false t i x

/-- Convert(x, st, dt, m, sat) of the lane pattern `b` (R159). -/
def convert (c : Modes) (st dt : ETy) (sat : Bool) (i b : Nat) : Nat × Flags :=
  if st.isInt && dt.isInt then (if sat then satTo dt (intOf st b) else (wrapTo dt (intOf st b), 0))
  else if st = .e8m0 then (if b % 256 = 255 then (defaultNaN .fp32, 0) else (roundTo rneModes dt i (valOf st b)).1 |> fun p => (p, 0))
  else
    let r := readVal c st b
    let q := roundTo c dt i r.1
    (q.1, q.2 ||| r.2)

/-! ### MX quantisation (R69) -/

/-- The constant emax_t of R69. -/
def emaxOf : ETy → Int
  | .e2m1 => 2 | .e4m3 => 8 | _ => 15

/-- The block scale X for the source values, and NV (R69). -/
def mxScale (t : ETy) (xs : List Ext) : Nat × Flags :=
  if xs.any (fun x => match x with | .num .. => false | _ => true) then (255, fNV)
  else
    let tops := xs.filterMap (fun x => match x with | .num _ m e => if m = 0 then none else some (topExp m e) | _ => none)
    match tops with
    | [] => (0, 0)
    | a :: l => ((max 0 (min 254 (l.foldl max a - emaxOf t + 127))).toNat, 0)

/-- An element of a block of scale X: RoundTo(v · 2^(127 − X)), saturating (R69). -/
def mxElement (c : Modes) (t : ETy) (i X : Nat) (x : Ext) : Nat × Flags :=
  roundFloat c true t i (shiftExt (127 - (X : Int)) x)

/-! ### Chunk sums and the reduction tree (R86 to R92) -/

/-- A partial sum: an FP32 pattern, or under profiles 7 and 8 an exact integer (R87). A sum formed under a floating
profile may meet a latch of profile 7 or 8 (R170): `frac k d` is then the exact value k / 2^d, no integer. -/
inductive PSum where
  | fp (b : BitVec 32)
  | int (z : Int)
  | frac (k : Int) (d : Nat)
deriving DecidableEq, Repr

/-- Profiles 7 and 8 sum integers (R89). -/
def profInt (prof : Nat) : Bool := prof == 7 || prof == 8

/-- The alignment width W of a profile (R87). -/
def profW (prof : Nat) : Option Nat :=
  if prof = 2 ∨ prof = 3 then some 40 else if prof = 5 ∨ prof = 6 then some 28 else none

/-- An FP32 pattern under profile 9 with a subnormal flushed to a zero of its sign (R89). -/
def profFlush (prof : Nat) (b : Nat) : Nat := if prof = 9 ∧ isSub .fp32 b then b / 2 ^ 31 * 2 ^ 31 else b

/-- A product truncated toward zero to the grid 2^g (R87). -/
def truncTo (g : Int) : Ext → Ext
  | .num n m e => if g ≤ e then .num n m e else .num n (m / 2 ^ (g - e).toNat) g
  | x => x

/-- e of R87: the largest ⌊log2 |p_k|⌋ of the nonzero products. -/
def maxTop : List Ext → Option Int
  | [] => none
  | .num _ m e :: l =>
    if m = 0 then maxTop l
    else some (match maxTop l with | none => topExp m e | some v => max v (topExp m e))
  | _ :: l => maxTop l

/-- Sum of signed significands at exponent `d`. -/
def sumAt (d : Int) : List Ext → Int
  | [] => 0
  | .num n m e :: l => signedAt n m e d + sumAt d l
  | _ :: l => sumAt d l

/-- Least exponent of a list, with 0. -/
def minExp : List Ext → Int
  | [] => 0
  | .num _ _ e :: l => min e (minExp l)
  | _ :: l => minExp l

def isNegZero : Ext → Bool
  | .num n m _ => n && m == 0
  | _ => false

/-- The exact sum of finite values, −0 only when every one is −0 (R83, R87). -/
def sumNum (l : List Ext) : Ext :=
  let d := minExp l
  let z := sumAt d l
  if z = 0 then .num (l.all isNegZero) 0 0 else .num (decide (z < 0)) z.natAbs d

def hasInfSign (n : Bool) (l : List Ext) : Bool := l.any (fun x => x == .inf n)

/-- ChunkSum(p, prof) (R87); the Boolean says a finite sum overflowed to infinity. -/
def chunkSum (prof : Nat) (p : List Ext) : PSum × Bool :=
  if p.any (fun x => x == .nan) || (hasInfSign false p && hasInfSign true p) then
    (.fp (BitVec.ofNat 32 (defaultNaN .fp32)), false)
  else if hasInfSign false p then (.fp (BitVec.ofNat 32 (packInf .fp32 false)), false)
  else if hasInfSign true p then (.fp (BitVec.ofNat 32 (packInf .fp32 true)), false)
  else if profInt prof then (.int (sumAt 0 p), false)
  else
    let q := match profW prof, maxTop p with
      | some w, some e => p.map (truncTo (e - (w : Int)))
      | _, _ => p
    let r := roundFloat rneModes false .fp32 0 (sumNum q)
    (.fp (BitVec.ofNat 32 (profFlush prof r.1)), r.2 &&& fOF != 0)

/-- The exact value of a partial sum. -/
def PSum.val : PSum → Ext
  | .fp b => valOf .fp32 b.toNat
  | .int z => extInt z
  | .frac k d => .num (decide (k < 0)) k.natAbs (-(d : Int))

/-- A finite exact value as an integer, where it is one. -/
def extToInt : Ext → Option Int
  | .num n m e =>
    let k := if 0 ≤ e then m * 2 ^ e.toNat else m / 2 ^ (-e).toNat
    if e < 0 ∧ m % 2 ^ (-e).toNat ≠ 0 then none else some (if n then -(k : Int) else k)
  | _ => none

/-- A partial sum as an integer, where it is one. -/
def PSum.whole (s : PSum) : Option Int :=
  match s with
  | .int z => some z
  | s => extToInt s.val

/-- What an Add or ChunkSum reports for MSTAT: a clamp, an overflow to infinity (R89, R283). -/
structure SumFlags where
  sat : Bool
  ov  : Bool
deriving DecidableEq, Repr

def SumFlags.none : SumFlags := ⟨false, false⟩
def SumFlags.or (a b : SumFlags) : SumFlags := ⟨a.sat || b.sat, a.ov || b.ov⟩

/-- An I32 value as a pattern. -/
def i32Pat (z : Int) : BitVec 32 := BitVec.ofNat 32 (wrapTo .i32 z)

/-- The exact value k / 2^d as a partial sum of profiles 7 and 8. -/
def fracSum (k : Int) (d : Nat) : PSum := if k % 2 ^ d = 0 then .int (k / 2 ^ d) else .frac k d

/-- An exact value modulo 2^32, in the I32 range (profile 7, R92); `free` where it is not finite, which no rule gives. -/
def wrapSum (free : Int) : Ext → PSum
  | .num n m e =>
    let k := signedAt n m e (min e 0)
    let d := (-e).toNat
    fracSum ((k + 2 ^ (31 + d)) % 2 ^ (32 + d) - 2 ^ (31 + d)) d
  | _ => .int free

/-- An exact value clamped to the I32 range, and whether it was (profile 8, R88, R92); `free` for a NaN, for which no rule
gives a value. -/
def clampSum (free : Int) : Ext → PSum × Bool
  | .num n m e =>
    let k := signedAt n m e (min e 0)
    let d := (-e).toNat
    if k < intMin .i32 * 2 ^ d then (.int (intMin .i32), true)
    else if intMax .i32 * 2 ^ d < k then (.int (intMax .i32), true)
    else (fracSum k d, false)
  | .inf n => (.int (if n then intMin .i32 else intMax .i32), true)
  | .nan => (.int free, false)

/-- Add(x, y) of R88 under profile `prof`. -/
def addP (free : Int) (prof : Nat) (x y : PSum) : PSum × SumFlags :=
  if prof = 7 then
    match x.whole, y.whole with
    | some a, some b => (.int (intOf .i32 (wrapTo .i32 (a + b))), SumFlags.none)
    | _, _ => (wrapSum free (addExt false x.val y.val).1, SumFlags.none)
  else if prof = 8 then
    match x.whole, y.whole with
    | some a, some b =>
      let r := satTo .i32 (a + b)
      (.int (intOf .i32 r.1), ⟨r.2 != 0, false⟩)
    | _, _ =>
      let r := clampSum free (addExt false x.val y.val).1
      (r.1, ⟨r.2, false⟩)
  else
    let s := addExt false x.val y.val
    let r := roundFloat rneModes false .fp32 0 s.1
    (.fp (BitVec.ofNat 32 (profFlush prof r.1)), ⟨false, r.2 &&& fOF != 0⟩)

/-- The accumulator +0 of a profile (R88, R169). -/
def pZero (prof : Nat) : PSum := if profInt prof then .int 0 else .fp 0

/-- A partial sum as the 32-bit pattern of its register lane: FP32, or I32 (R93). The pattern of a sum that is no integer
under profiles 7 and 8 is a free value: no rule gives it. -/
def PSum.pat : PSum → BitVec 32
  | .fp b => b
  | .int z => i32Pat z
  | .frac k d => Config.fracPattern k d

/-- A 32-bit pattern as an accumulator of a profile. -/
def accOf (prof : Nat) (b : BitVec 32) : PSum := if profInt prof then .int (intOf .i32 b.toNat) else .fp b

/-- Fold Add over a list from `a`. -/
def addList (free : Int) (prof : Nat) (a : PSum × SumFlags) : List PSum → PSum × SumFlags
  | [] => a
  | s :: l =>
    let r := addP free prof a.1 s
    addList free prof (r.1, a.2.or r.2) l

/-- One pass of the chain: P of up to D chunk sums, then acc + P (R88). -/
def passAdd (free : Int) (prof : Nat) (acc : PSum × SumFlags) (l : List PSum) : PSum × SumFlags :=
  match l with
  | [] => acc
  | s :: rest =>
    let p := addList free prof (s, acc.2) rest
    let r := addP free prof acc.1 p.1
    (r.1, p.2.or r.2)

/-- The passes of R88, `fuel` of them at most. -/
def passes (free : Int) (prof D : Nat) : Nat → PSum × SumFlags → List PSum → PSum × SumFlags
  | 0, acc, _ => acc
  | k + 1, acc, l => if l.isEmpty then acc else passes free prof D k (passAdd free prof acc (l.take D)) (l.drop D)

/-- h of Tree: 2^(⌈log2 n⌉ − 1) for n ≥ 2 (R88). -/
def treeHalf (n : Nat) : Nat := 2 ^ Nat.log2 (n - 1)

/-- Tree(S, lo, hi) over a list (R88); `fuel` bounds its depth. -/
def treeSum (free : Int) (prof : Nat) : Nat → List PSum → PSum × SumFlags
  | 0, l => ((l.head?).getD (pZero prof), SumFlags.none)
  | k + 1, l =>
    match l with
    | [] => (pZero prof, SumFlags.none)
    | [s] => (s, SumFlags.none)
    | _ =>
      let h := treeHalf l.length
      let a := treeSum free prof k (l.take h)
      let b := treeSum free prof k (l.drop h)
      let r := addP free prof a.1 b.1
      (r.1, (a.2.or b.2).or r.2)

/-- Reduce(S, n, c, prof, D) (R88). -/
def reduce (free : Int) (prof D : Nat) (c : PSum) (S : List PSum) : PSum × SumFlags :=
  if S.isEmpty then (c, SumFlags.none)
  else if prof = 4 then
    let t := treeSum free prof 21 S
    let r := addP free prof c t.1
    (r.1, t.2.or r.2)
  else passes free prof D S.length (c, SumFlags.none) S

/-- The canonical chunks of a product list: 256 each, the last shorter (R86). -/
def chunksOf : Nat → List Ext → List (List Ext)
  | 0, _ => []
  | k + 1, l => if l.isEmpty then [] else l.take 256 :: chunksOf k (l.drop 256)

/-- ChunkSum of every canonical chunk. -/
def chunkSums (prof : Nat) (p : List Ext) : List PSum :=
  (chunksOf (p.length / 256 + 1) p).map (fun c => (chunkSum prof c).1)

end Sys2Proof.Machine
end

