-- ==== Sys2Proof/Machine/Types.lean ====
section
/-! DEFINITION. The components of the state, as plain data. A `Map` is a sparse table: a list of key and value pairs in
ascending order of key, with no entry equal to the table's default (the functions are in Map.lean). -/

namespace Sys2Proof.Machine

/-- A sparse table keyed by numbers. -/
abbrev Map (α : Type) := List (Nat × α)

/-- Device memory and every other byte the device addresses, keyed by location (Mem.lean). -/
abbrev Memory := List (Nat × BitVec 8)

/-! ### The ordering machine (R96) -/

/-- One entry of a commit point's order: a write of `n` bytes at a location (value little-endian), or an SC marker
(R117). `id` names the write at every commit point that holds it. -/
structure Wr where
  id  : Nat
  loc : Nat
  n   : Nat
  val : Nat
deriving DecidableEq, Repr

/-- Positions in the orders of the commit points of the party's cluster, of its die, of the package and of the system
(R96, R102). -/
structure View where
  cl  : Nat := 0
  die : Nat := 0
  pkg : Nat := 0
  sys : Nat := 0
deriving DecidableEq, Repr

/-! ### A context (R120) -/

/-- A tensor-table entry (R143). -/
structure TEntry where
  fmt   : ETy := .i4
  rank  : Nat := 0
  kd    : Nat := 0
  mx    : Bool := false
  bias  : Int := 0
  kind  : Nat := 0
  loc   : BitVec 64 := 0
  scale : BitVec 64 := 0
  ext   : List Nat := [0, 0, 0, 0]
  str   : List Int := [0, 0, 0, 0]
deriving DecidableEq, Repr

/-- A ring handle (R186). INFL counts the deliveries in flight of an inbound handle (R289). -/
structure QHandle where
  base  : Nat := 0
  bank  : Nat := 0
  size  : Nat := 0
  count : Nat := 0
  head  : Nat := 0
  tail  : Nat := 0
  fill  : Nat := 0
  occ   : Nat := 0
  infl  : Nat := 0
deriving DecidableEq, Repr

/-- A partial-sum latch (R166). -/
structure Latch where
  prof : Nat := 0
  acc  : PSum := .fp 0
  pass : PSum := .fp 0
  q    : Nat := 0
  n    : Nat := 0
  stk  : List (PSum × Nat) := []
deriving DecidableEq, Repr

/-- The running loop-buffer body (R125, R127). -/
structure LoopRec where
  start : Nat
  /-- Iterations I = N + s − 1; 0 while the body is skipped. -/
  total : Nat
  cnt   : Nat
  stg   : Nat
  rot   : Bool
  /-- Iteration k. -/
  iter  : Nat
  /-- Bundles of the body met in this iteration. -/
  met   : Nat
  /-- End of the body, the address after its STOP bundle, once that bundle has been met; 0 before (R127). -/
  fin   : Nat := 0
  /-- N = 0: the body is being stepped over. -/
  skip  : Bool
  /-- The body's bundles that have been fetched: address and bits. -/
  buf   : List (Nat × Nat)
deriving DecidableEq, Repr

/-- A fetch line in a fetch queue (R174): its address, whether it is outside the table, its 256 bytes, and whether it
is poisoned (R399). -/
structure FLine where
  base    : Nat
  outside : Bool
  data    : Nat
  bad     : Bool := false
deriving DecidableEq, Repr

/-- What the Y slot makes the context wait for (R129). -/
inductive Pending where
  | none
  /-- A FENCE: its scope and order, and the cycle from which it may complete. -/
  | fence (sc : Scope) (ord : Ord) (at_ : Nat)
  /-- TWAIT or TWANY with its mask. -/
  | twait (any : Bool) (mask : BitVec 64)
  /-- SWAIT: scope, destination, word, value, tick limit, start tick, and the cycle from which it may complete (R324). -/
  | swait (sc : Scope) (sd : BitVec 6) (word val : BitVec 64) (ticks start at_ : Nat)
  /-- BAR: scope and id; `done` when the barrier completed while the context was saved. -/
  | bar (sc : Scope) (id : Nat) (done : Bool)
deriving DecidableEq, Repr

/-- A pre-emption request (R211): the context freezes from a cycle on, or waits for its routine to end and then for the
first bundle that issues after the end. -/
inductive PreReq where
  | none
  | at_ (f : Nat)
  | afterRoutine
  | afterIssue
deriving DecidableEq, Repr

/-- A freeze waits at least until the cycle after `now`: that of the end of a FENCE or a header read (R211). -/
def PreReq.later (now : Nat) : PreReq → PreReq
  | .at_ f => .at_ (max f (now + 1))
  | p => p

/-- Where a context stands in its life (R203). -/
inductive Life where
  | unbound | running | frozen | trapped | exited
deriving DecidableEq, Repr

/-- The destination and value of a result (R213). -/
inductive RVal where
  /-- A V register by physical number: bits and the mask of the bits written. -/
  | v (n : Nat) (val mask : BitVec 4096) (ty : ETy)
  | s (n : BitVec 6) (val : BitVec 64)
  | a (n : BitVec 4) (val : BitVec 32)
  | m (n : BitVec 4) (val mask : BitVec 1024)
  | latch (k : Nat) (sum : PSum)
  | wid (val : BitVec 64)
deriving DecidableEq, Repr

/-- A result in flight (R208). -/
structure Res where
  ctx    : Nat
  due    : Nat
  issued : Nat
  slot   : Nat
  val    : RVal
  flags  : Flags
deriving DecidableEq, Repr

/-- A write at the end of its cycle: MTC, SHW, TDW, LEND and RECL (R208, R273), YIELD (R207), and what matrix routines
and latches report (R263, R283). -/
inductive EndWrite where
  | mtc (crn : Nat) (v : BitVec 64)
  | shw (key field : Nat) (v : BitVec 64)
  | tdw (tid field : Nat) (v : BitVec 64)
  | lend (k : Nat) (on : Bool)
  | yield
  /-- QADV: handle, tail end or head, count (R198). -/
  | qadv (q : Nat) (tail : Bool) (k : Nat)
  /-- END's bias for a tensor-table entry (R263). -/
  | bias (tid : Nat) (v : Int)
  /-- END's report: every field of MSTAT but SAT and OVF, which are ORed (R283). -/
  | report (fields : BitVec 64) (sat ovf : Bool)
  /-- A routine fault's FCAUSE and FWORD (R268, R283). -/
  | fault (cause word : Nat)
  /-- A clamp of a VRED under profile 8 (R170). -/
  | sat
  /-- FPSTAT flags that no register result carries (R170). -/
  | flags (f : Flags)
deriving DecidableEq, Repr

/-- A contact-sheet entry (R213). -/
structure SheetEntry where
  off   : Nat
  age   : Nat
  slot  : Nat
  val   : RVal
  flags : Flags
deriving DecidableEq, Repr

/-- What a trap record holds (R145). -/
structure TrapInfo where
  code  : Nat
  cause : Nat
  slot  : Nat
  info  : Nat := 0
  addr  : Nat := 0
deriving DecidableEq, Repr

/-- The payload of a spoil frame still to be written: stack position, bytes and their cycle (R228). -/
structure Payload where
  pos  : Nat
  len  : Nat
  val  : Nat
  due  : Nat
deriving DecidableEq, Repr

/-- The spoil stack (R219): bytes by stack position, little-endian in `top` from position SPILL. -/
structure Spoil where
  depth  : Nat := 0
  frames : Nat := 0
  spill  : Nat := 0
  base   : Nat := 0
  lim    : Nat := 0
  bank   : Nat := 0
  top    : Nat := 0
  pay    : List Payload := []
  /-- A move whose condition holds (true: spill, false: refill) and the cycle from which it may be granted (R223). -/
  move   : Option (Bool × Nat) := none
deriving DecidableEq, Repr

/-- The read of a routine block by an MPLOAD that waits (R271): the bundle, bank and offset, accesses made, bytes. -/
structure MRead where
  pc   : Nat
  bank : Nat
  off  : Nat
  got  : Nat := 0
  data : Nat := 0
deriving DecidableEq, Repr

/-- A context (R120), with what it needs of its kernel and its core. -/
structure Ctx where
  life    : Life := .unbound
  core    : Nat := 0
  hw      : Nat := 0
  /-- Key of its kernel in the kernel table, worker number w and kernel context number (R320, R321). -/
  kernel  : Nat := 0
  worker  : Nat := 0
  kctx    : Nat := 0
  v       : Map (BitVec 4096) := []
  sr      : Map (BitVec 64) := []
  ar      : Map (BitVec 32) := []
  m       : Map (BitVec 1024) := []
  q       : Map QHandle := []
  pl      : Map Latch := []
  mp      : Map (BitVec 64) := []
  /-- LH, WH, CH, MH 0 to 3, live and shadow, keyed 8·class + 2·n + (1 for the shadow copy). -/
  shape   : Map (BitVec 64) := []
  t       : Map TEntry := []
  pc      : Nat := 0
  fpcr    : BitVec 5 := 0
  fpstat  : Flags := 0
  seed    : BitVec 64 := 0
  srctr   : BitVec 64 := 0
  stage   : BitVec 8 := 0xFE
  vrot    : Nat := 0
  loop    : Option LoopRec := none
  tagPend : BitVec 64 := 0
  tagSet  : BitVec 64 := 0
  tagRec  : Map (BitVec 64) := []
  /-- Final view of the command that set each tag, until it is observed or cleared (R107 step 7). -/
  tagView : Map View := []
  /-- Join of the final views of its commands that have set their tags: grid completion publishes what they cover (R114). -/
  cmdView : View := {}
  sp      : Spoil := {}
  wid     : BitVec 64 := 0
  /-- Next linear position of the range, pos + 1 of R139, and the range end (R128). -/
  next    : Nat := 0
  rangeHi : Nat := 0
  mstat   : BitVec 64 := 0
  /-- The cycle b of binding (R122). -/
  born    : Nat := 0
  fq      : List FLine := []
  /-- Cycle from which the next line may arrive. -/
  fetchAt : Nat := 0
  /-- GAP: first cycle in which the next bundle may issue. -/
  readyAt : Nat := 0
  wait    : Nat := 0
  yielded : Bool := false
  lent    : BitVec 16 := 0
  mread   : Option MRead := none
  pend    : Pending := .none
  /-- The header read of a TDW to HDR (R143): entry and address, and the cycle from which it may arrive. -/
  hdrRead : Option (Nat × BitVec 64 × Nat) := none
  /-- A routine fault not yet trapped: trap code, cause, word and fault cycle (R268, R399). -/
  rfault  : Option (Nat × Nat × Nat × Nat) := none
  /-- Pre-emption requested (R211). -/
  pre     : PreReq := .none
  /-- F of the freeze or the trap. -/
  frozenAt : Nat := 0
  /-- Resume cycle Z, and the contact sheet still to be replayed. -/
  resumeAt : Nat := 0
  sheet   : List SheetEntry := []
  /-- The hardware context is released, no earlier than this cycle (R216). -/
  released : Bool := false
  releaseAt : Nat := 0
  /-- GAP left over at F (R217). -/
  gapLeft : Nat := 0
  trap    : Option TrapInfo := none
  trapPc  : Nat := 0
  resumePc : Nat := 0
  /-- It is to move to another core: new PUTQs to it are held blocked (R291). -/
  moving  : Bool := false
  /-- An ABORT ends it at its freeze (R383). -/
  doomed  : Bool := false
  /-- The state cannot be resumed: its bench failed (R299). -/
  lost    : Bool := false
  /-- Outbox: the pending writes (R96). -/
  outbox  : List Wr := []
  view    : View := {}
deriving DecidableEq, Repr

/-! ### The matrix slot (11, 12) -/

/-- Where a stream or an EMIT.ST goes: a bank of the core that executes, the cluster scratchpad, or a lent bank (R255). -/
inductive Place where
  | bank (b : Nat)
  | cluster
  | lent (k : Nat)
deriving DecidableEq, Repr

/-- Every scale byte 0x7F (R252). -/
def scaleReset : BitVec 2048 := BitVec.ofNat 2048 ((2 ^ 2048 - 1) / 255 * 0x7F)

/-- A stream of a routine (R255). -/
structure Stream where
  place : Place
  ptr   : Nat
  fmt   : ETy
  mx    : Bool
deriving DecidableEq, Repr

/-- An accumulator tile: FP32 or I32 entries, row-major, and the chain state (R258, R259). -/
structure Tile where
  acc  : BitVec 32768 := 0
  pass : List PSum := []
  q    : Nat := 0
  stk  : List (List PSum × Nat) := []
  /-- Chunks since the routine's start or the last ACLR (R279). -/
  n    : Nat := 0
deriving DecidableEq, Repr

/-- The open chunk of a slice: tile, count, and for each k the operand column and row and whether they are integers
(R258). -/
structure Chunk where
  ot   : Nat := 0
  cn   : Nat := 0
  prods : List (List Ext × List Ext × Bool) := []
deriving DecidableEq, Repr

/-- What one slice works on: its streams, scale records and open chunk (R255 to R258). -/
structure Exec where
  sA    : Option Stream := none
  sB    : Option Stream := none
  scA   : BitVec 2048 := scaleReset
  scB   : BitVec 2048 := scaleReset
  chunk : Chunk := {}
deriving DecidableEq, Repr

/-- One iteration of a dealt chunk loop on a slice, with its chunk sums, and whether each overflowed, once its CHAIN has run
(R279, R281). -/
structure Dealt where
  bench : Nat
  ex    : Exec
  sums  : List (PSum × Bool) := []
deriving DecidableEq, Repr

/-- A chunk loop in progress (R280): words of the body, iterations, tile, bytes an iteration consumes, the slots still
to run as lists of (bench, iteration), the slot in progress, and the chunk sums of the iterations done. -/
structure Deal where
  body  : Nat
  len   : Nat
  count : Nat
  tile  : Nat
  stepA : Nat
  stepB : Nat
  plan  : List (List (Nat × Nat))
  cur   : List Dealt
  done  : List (List (PSum × Bool))
deriving DecidableEq, Repr

/-- A LOOPK level: first word, length, passes left (R265). -/
structure KLoop where
  start : Nat
  len   : Nat
  left  : Nat
deriving DecidableEq, Repr

/-- A running routine (R252, R269). -/
structure Routine where
  ctx    : Nat
  issued : Nat
  /-- First word in the cluster's store and length. -/
  start  : Nat
  len    : Nat
  /-- Micro-word that acts next, the cycle in which it acts, and the word that acted last. -/
  pc     : Nat := 0
  at_    : Nat
  last   : Nat := 0
  loops  : List KLoop := []
  /-- Runs still to follow this one, and the mask of MP registers advanced between them. -/
  rep    : Nat := 0
  inc    : BitVec 8 := 0
  mh     : BitVec 64 := 0
  prof   : Nat := 0
  fold   : Bool := false
  /-- Captured live-bench mask, ascending (R277), and group size D (R90). -/
  live   : List Nat := []
  d      : Nat := 4
  /-- Tensor-table entries as the MRUN read them (R143). -/
  ents   : Map TEntry := []
  ex     : Exec := {}
  ba     : Int := 0
  bb     : Int := 0
  sb     : Int := 0
  passes : Nat := 0
  xp     : Bool := false
  sat    : Bool := false
  ovf    : Bool := false
  deal   : Option Deal := none
  /-- Streams of the stream table with a step open in this run (R293). -/
  steps  : List Nat := []
deriving DecidableEq, Repr

/-- A core: its matrix slot and slice (R252, R276). -/
structure Core where
  routine : Option Routine := none
  /-- A routine that has ended, or an MPLOAD, occupies the matrix slot before this cycle (R252). -/
  mbusy   : Nat := 0
  /-- The routine that ended last: its last cycle, its first word and its length (R271). -/
  ended   : Nat × Nat × Nat := (0, 0, 0)
  /-- A save or restore of a stream tile holds the matrix slot before this cycle (R294). -/
  mhold   : Nat := 0
  tiles   : Map Tile := []
  /-- The forwarding latch of a cycle: the cycle, the context and the lanes (R262). -/
  fl      : Option (Nat × Nat × BitVec 4096) := none
  /-- Bank accesses of matrix feeds in a cycle: the cycle and the banks (R184). -/
  feeds   : Nat × List Nat := (0, [])
  /-- Banks that scheduled accesses of the L and S slots use in a cycle (R185). -/
  used    : Nat × List Nat := (0, [])
  /-- First cycle in which a bank grants the next engine access, by bank (R185, R223). -/
  engAt   : Map Nat := []
deriving DecidableEq, Repr

/-- State of a stream entry (R292). -/
inductive SState where
  | closed | opened | paused
deriving DecidableEq, Repr

/-- An entry of the stream table with the open step's state (R292, R293). -/
structure SEntry where
  state : SState := .closed
  bench : Nat := 0
  ctx   : Nat := 0
  tile  : Nat := 0
  rst   : Bool := false
  save  : Nat := 0
  /-- OPEN, with its tile saved while its context is frozen or trapped (R295). -/
  away  : Bool := false
  cn    : Nat := 0
  h0    : BitVec 32768 := 0
  rows  : List (List Ext) := []
deriving DecidableEq, Repr

/-- A cluster: microprogram store, routine table, stream table (R248, R292). -/
structure Cluster where
  store   : Map (BitVec 32) := []
  table   : Map (BitVec 32) := []
  /-- Entries of the table as they stood before the MPLOADs of a cycle: the cycle, and index and entry (R271). -/
  was     : Nat × List (Nat × BitVec 32) := (0, [])
  streams : Map SEntry := []
  /-- A folded routine counts as running before this cycle, apart from one that runs (R284). -/
  fbusy   : Nat := 0
  /-- Cluster-scratchpad accesses of routines in a cycle: the cycle, and for each its bench, first byte, length and
  whether it is a read (R286, R287). -/
  k1      : Nat × List (Nat × Nat × Nat × Bool) := (0, [])
  /-- First cycle in which the vertical bus can carry the next PUTQ or copy transfer (R285, R286). -/
  busAt   : Nat := 0
deriving DecidableEq, Repr

/-- A bench (R277, R325, R400, R401). -/
structure Bench where
  powered   : Bool := false
  throttled : Bool := false
  retired   : Bool := false
deriving DecidableEq, Repr

/-- A store in flight, of the context that issued it (none for an EMIT.ST): pieces of (offset, bytes, value, bit mask) at a bank, performed at `due` (R183). -/
structure Store where
  ctx    : Option Nat
  due    : Nat
  core   : Nat
  bank   : Nat
  pieces : List (Nat × Nat × Nat × Nat)
deriving DecidableEq, Repr

/-- A PUTQ delivery in flight (R290). -/
structure Putq where
  id     : Nat
  target : Nat
  q      : Nat
  data   : BitVec 4096
  due    : Nat
deriving DecidableEq, Repr

/-! ### Issue -/

/-- The bundle for which slot instructions act: the context's issue record. -/
structure Issue where
  pc      : Nat := 0
  len     : Nat := 0
  slot    : Nat := 0
  gap     : Nat := 0
  profile : Nat := 0
  /-- The bundle has a slot that cannot issue in this cycle. -/
  blocked : Bool := false
  /-- An MPLOAD that blocks asks for the read of its routine block (R271). -/
  mread   : Option MRead := none
  /-- The trap a slot has taken. -/
  trapped : Option TrapInfo := none
  lBank   : Option Nat := none
  sBank   : Option Nat := none
  /-- Spoil depth before the bundle (R230), and whether VA pushed a frame (R228). -/
  depth0  : Nat := 0
  vaPush  : Bool := false
  /-- Sum of the maximum sizes of the frames the bundle's slots so far push (R224). -/
  pushMax : Nat := 0
deriving DecidableEq, Repr

/-! ### Engine commands (R107, R303, R341, R414) -/

/-- What a command does, with the fields its slot word gives it. -/
inductive Job where
  | cpy (ld mc : Bool)
  | cpyt (ld : Bool) (e : TEntry)
  | cgath (ib : Nat)
  | cpair
  | cmig (host : Bool) (dl : Nat)
  | nmcopy (dpitch : Nat)
  | nmdot
  | fsamp (ty : ETy)
  | ftap
  /-- FTICK and FTICK.G: words of the group, ticks. -/
  | ftick (gn n : Nat)
  | freset (inOnly : Bool)
  /-- COLL: 0 RS, 1 AG, 2 AR. -/
  | coll (op : Nat)
deriving DecidableEq, Repr

/-- Where a command stands. -/
inductive Stage where
  /-- In its context's command queue. -/
  | queued
  /-- A copy command that has started and makes its accesses (R107). -/
  | running
  /-- Stalled by a translation fault at a virtual address; `sent` once the record has gone out (R314). -/
  | stalled (va : Nat) (write sent : Bool)
  /-- On its way to a base die (R341). -/
  | sent
  /-- In the queue of a near-memory unit, with its place in arrival order (R341, R372). -/
  | atUnit (ch arr : Nat)
  /-- A collective in progress (Coll.lean). -/
  | ring
  /-- A CMIG whose pages are on their way (R311). -/
  | moving
  /-- Every access has been performed. -/
  | performed
deriving DecidableEq, Repr

/-- Phase of a collective: the ready wait, the handshake, reduce-scatter, all-gather, the end (R417, R418). -/
inductive RingPhase where
  | ready | handshake | scatter | gather | finished
deriving DecidableEq, Repr

/-- A collective in progress (R416 to R422). -/
structure RingSt where
  /-- The eight words of the descriptor. -/
  desc    : List Nat := []
  phase   : RingPhase := .ready
  /-- Step of the phase, and steps made in both phases. -/
  step    : Nat := 0
  made    : Nat := 0
  /-- Values of the segment in hand: bits, and bit 64 for a NaN in EXACT mode; and those sent in the last step. -/
  vals    : List (BitVec 65) := []
  out     : List (BitVec 65) := []
  /-- The segment of the step in hand has been sent; segments that have come from PREV, oldest first (R418). -/
  sent    : Bool := false
  inq     : List (List (BitVec 65)) := []
  /-- An abort has reached it: one more than the rank of the member that sent it, or 0 where that is another device's (R422). -/
  abort   : Option Nat := none
  /-- Deliveries to come: first cell and values. -/
  deliver : List (Nat × List (BitVec 65)) := []
  /-- SCHT at the start, and which start of its KEY and rank on its die this is (R422). -/
  tick0   : Nat := 0
  gen     : Nat := 0
  /-- The head delivery has arrived at its unit: channel, and place in arrival order (R368). -/
  arr     : Option (Nat × Nat) := none
  nan     : Bool := false
  inf     : Bool := false
  clamp   : Bool := false
deriving DecidableEq, Repr

/-- How far a copy command has come: the move in hand and its bytes done, and the indices a CGATH has read. -/
structure CopyRun where
  move  : Nat := 0
  pos   : Nat := 0
  idx   : List Nat := []
deriving DecidableEq, Repr

/-- How far a command of a near-memory unit with a scratchpad side has come (R345, R362, R363): its checks are to come; it reads its
scratchpad side; it writes it. -/
inductive NmPhase where
  | fresh | gather | deliver
deriving DecidableEq, Repr

/-- The bytes that such a command has read, how many, and whether one was poisoned; the bytes that it writes, how many, how many are
written, and the taps whose cells are poisoned (R360). -/
structure NmRun where
  phase : NmPhase := .fresh
  data  : Nat := 0
  got   : Nat := 0
  bad   : Bool := false
  out   : Nat := 0
  len   : Nat := 0
  put   : Nat := 0
  marks : List Nat := []
deriving DecidableEq, Repr

/-- Bytes of a bank as they stood before a store: bank, offset, length, value. -/
structure Older where
  bank : Nat
  off  : Nat
  n    : Nat
  val  : Nat
deriving DecidableEq, Repr

/-- A command in flight (R107). -/
structure Cmd where
  id     : Nat
  job    : Job
  opc    : Nat
  ctx    : Nat
  kernel : Nat
  asid   : Nat
  core   : Nat
  hw     : Nat
  tag    : Nat
  aq     : Option Scope
  rl     : Option Scope
  prof   : Nat
  /-- S registers from SA on, as the command reads them. -/
  words  : List (BitVec 64)
  /-- CH register (R305), bank and offset of the scratchpad side. -/
  ch     : BitVec 64
  bank   : Nat
  off    : Nat
  /-- Issue cycle and schedule tick. -/
  issued : Nat
  tick   : Nat
  stage  : Stage := .queued
  /-- Cycle from which its next untimed step may be taken. -/
  due    : Nat := 0
  view   : View := {}
  outbox : List Wr := []
  /-- STATUS and DETAIL of the record (R191). -/
  status : Nat := 0
  detail : Nat := 0
  /-- It has accessed a STRONG page (R109). -/
  strong : Bool := false
  /-- FTICK.G: words still to tick (R372). -/
  left   : List Nat := []
  /-- CMIG: pages still on their way, pages that were late, a pinned page met, a page whose contents were lost with its channel
  (R311, R316, R331). -/
  pages  : List Nat := []
  late   : Nat := 0
  pinned : Bool := false
  gone   : Option Nat := none
  run    : CopyRun := {}
  nm     : NmRun := {}
  /-- What later stores have overwritten in the banks it reads, which it may still see (R99). -/
  older  : List Older := []
  /-- The devices it reaches, each with the plane of its transfers there (R405). -/
  routes : List (Nat × Nat) := []
  ring   : RingSt := {}
deriving DecidableEq, Repr

/-- A translation held by a TLB (R313): address space, page base and size in bytes, and the entry. -/
structure TlbEnt where
  asid : Nat
  base : Nat
  size : Nat
  pte  : Nat
deriving DecidableEq, Repr

/-! ### Capabilities and filter regions -/

/-- A capability entry with its region record (R336, R349). -/
structure Cap where
  valid  : Bool := false
  filter : Bool := false
  tick   : Bool := false
  tap    : Bool := false
  sample : Bool := false
  dot    : Bool := false
  copy   : Bool := false
  owner  : Nat := 0
  gen    : Nat := 0
  ch     : Nat := 0
  /-- In units of 64 bytes. -/
  base   : Nat := 0
  len    : Nat := 0
  cb0    : Nat := 0
  cb1    : Nat := 0
  cb2    : Nat := 0
  ca1    : Nat := 0
  ca2    : Nat := 0
  ein    : Int := 0
  es     : Int := 0
  xf     : Nat := 0
  fx     : Bool := false
  rz     : Bool := false
  tfmt   : Nat := 0
  t      : Nat := 0
  lows   : Nat := 0
deriving DecidableEq, Repr

/-- A filter cell (R352): the four stored words, the accumulator, the stamp and the sticky flags. -/
structure Cell where
  y0    : Nat := 0
  y1    : Nat := 0
  x0    : Nat := 0
  x1    : Nat := 0
  acc   : Int := 0
  stamp : Nat := 0
  sov   : Bool := false
  aov   : Bool := false
  nan   : Bool := false
  clp   : Bool := false
deriving DecidableEq, Repr

/-- A revocation not yet complete (R337): the queue and SEQ of its command, the handle, the entry's key, and the
commands that started under it. -/
structure Revoke where
  queue  : Nat
  seq    : Nat
  handle : Nat
  key    : Nat
  cmds   : List Nat
deriving DecidableEq, Repr

/-! ### The command processor (R379 to R384), health and the fabric -/

/-- What a queue's command that is consumed and not complete waits for, apart from launches. -/
inductive Held where
  | none
  /-- A WAIT: its SEQ, a location and a value (R381). -/
  | wait (seq loc val : Nat)
  /-- A PREEMPT of a queue's contexts, or a RESUME of them (R388). -/
  | preempt (seq q : Nat)
  | resume (seq q : Nat)
  /-- An INVAL: its SEQ, and the signal updates on their way that an old entry translated (R313). -/
  | inval (seq : Nat) (ids : List Nat)
deriving DecidableEq, Repr

/-- A hardware queue (R379): registers, the command in hand, and the SEQs complete beyond LCOMP. -/
structure HwQueue where
  ring  : BitVec 64 := 0
  cfg   : BitVec 64 := 0
  tail  : Nat := 0
  lcons : Nat := 0
  lcomp : Nat := 0
  comp  : BitVec 64 := 0
  held  : Held := .none
  /-- The LAUNCH at the head, not yet admitted: the words of its header and SCHT when it came to the head (R319). -/
  launch : Option (List Nat × Nat) := none
  /-- Its head launch has stood for 1,000 schedule ticks (R319). -/
  hold  : Bool := false
  done  : List Nat := []
  /-- ABORT and CRESUME commands taken ahead of their turn (R380). -/
  early : List Nat := []
  /-- From a PREEMPT of the queue to its RESUME: contexts of its kernels are kept frozen (R388). -/
  frozen : Bool := false
deriving DecidableEq, Repr

/-- A child launch in the pool (R322): parent, number, address word, SCHT when it was put there. -/
structure Child where
  parent : Nat
  num    : Nat
  word   : BitVec 64
  since  : Nat
deriving DecidableEq, Repr

/-- An ABORT in progress (R383): queue, SEQ, and the kernels that must complete. -/
structure Abort where
  queue   : Nat
  seq     : Nat
  kernels : List Nat
deriving DecidableEq, Repr

/-- A CRESUME consumed and not complete: queue, SEQ and the trapped context, and the cycle from which it is bound again, once that is
chosen (R217, R380, R384). -/
structure Cresume where
  queue : Nat
  seq   : Nat
  ctx   : Nat
  at_   : Option Nat := none
deriving DecidableEq, Repr

/-- A signal update on its way to its home (R110, R323); of a VIRT word, the address space and address it was translated from
(R313). -/
structure Sig where
  id   : Nat
  ctx  : Nat
  loc  : Nat
  add  : Bool
  val  : BitVec 64
  due  : Nat
  va   : Option (Nat × Nat) := none
deriving DecidableEq, Repr

/-- A port (R404): flits unacknowledged, replays of the oldest, retraining, schedule ticks of failed retrainings. -/
structure Port where
  retired : Bool := false
  unacked : Nat := 0
  replays : Nat := 0
  retrain : Bool := false
  fails   : List Nat := []
deriving DecidableEq, Repr

/-- An entry of a link queue (R411): the write, the command that made it, the job tag it carries (R407), and the cycle from
which it may leave. -/
structure LinkEnt where
  cmd : Nat
  wr  : Wr
  job : BitVec 16 := 0
  due : Nat := 0
deriving DecidableEq, Repr

/-- An abort on its way to a member that has not started: die, KEY, rank, which start of these it is, and where it comes from (R422). -/
structure HeldAbort where
  die    : Nat
  key    : Nat
  rank   : Nat
  gen    : Nat
  origin : Nat
deriving DecidableEq, Repr

/-- A write of another device that has arrived and is not yet published at SYS: its job tag, the cycle from which it may join the
system commit point, and the write (R410, R412). -/
structure Inbound where
  job : Nat
  due : Nat
  wr  : Wr
deriving DecidableEq, Repr

/-- State of the boot ROM (R395, R396). -/
inductive Boot where
  | waiting | badKey | badSignature | oldVersion | running
deriving DecidableEq, Repr

/-- What the device tells the host or another device. -/
inductive Report where
  /-- A trap of a context (R145). -/
  | trap (ctx : Nat) (t : TrapInfo)
  /-- A dropped SIGNAL: context and address word (R323). -/
  | signal (ctx : Nat) (word : BitVec 64)
  /-- A fault record, its three words (R314). -/
  | fault (w0 w1 w2 : Nat)
  /-- An event of the event ring: a retired unit (R400). -/
  | retired (u : HwUnit)
  /-- A host load: its place, its bytes, its value, and whether its data carry a poison mark (R331, R393, R394). -/
  | load (p : HostPlace) (n val : Nat) (bad : Bool)
  /-- An abort that a member sends around its ring, by KEY (R422). -/
  | ringAbort (key : Nat)
  /-- A request that goes to another device: a write or not, the device, the place as 2^43·EXP + OFF, its bytes, the value of a write,
  and the job tag that it carries (R407, R411). -/
  | request (wr : Bool) (dev at_ n val job : Nat)
  /-- The answer to a remote access, or a refusal by STATUS, and whether its data carry a poison mark (R331, R408, R409). -/
  | remote (status val : Nat) (bad : Bool)
deriving DecidableEq, Repr

end Sys2Proof.Machine
end

