-- ==== Sys2Proof/Machine/Map.lean ====
section
/-! DEFINITION. Sparse tables in canonical form: keys strictly ascending, no entry equal to the default. -/

namespace Sys2Proof.Machine

variable {α : Type} [DecidableEq α]

/-- Value at key `k`; an unlisted key holds the default `d`. -/
def mget (d : α) : Map α → Nat → α
  | [], _ => d
  | (j, v) :: l, k => if j = k then v else mget d l k

/-- Remove key `k`. -/
def merase : Map α → Nat → Map α
  | [], _ => []
  | (j, v) :: l, k => if j = k then merase l k else (j, v) :: merase l k

/-- Insert a pair in key order. -/
def minsert : Map α → Nat → α → Map α
  | [], k, v => [(k, v)]
  | (j, w) :: l, k, v => if k < j then (k, v) :: (j, w) :: l else (j, w) :: minsert l k v

/-- Write key `k`; writing the default removes the entry. -/
def mset (d : α) (m : Map α) (k : Nat) (v : α) : Map α :=
  if v = d then merase m k else minsert (merase m k) k v

/-- The canonical form: keys strictly ascending from `lo` on, no default among the values. -/
def mwfFrom (d : α) : Nat → Map α → Bool
  | _, [] => true
  | lo, (k, v) :: l => decide (lo ≤ k) && decide (v ≠ d) && mwfFrom d (k + 1) l

def mwf (d : α) (m : Map α) : Bool := mwfFrom d 0 m

/-- Put `x` before the first element that it does not follow. -/
def insertBy {β : Type} (le : β → β → Bool) (x : β) : List β → List β
  | [] => [x]
  | y :: l => if le x y then x :: y :: l else y :: insertBy le x l

/-- Sort; elements that rank alike keep their order. -/
def sortBy {β : Type} (le : β → β → Bool) : List β → List β
  | [] => []
  | x :: l => insertBy le x (sortBy le l)

/-- Keys whose values satisfy `p`, ascending. -/
def mkeys (p : α → Bool) (m : Map α) : List Nat := (m.filter (fun e => p e.2)).map Prod.fst

end Sys2Proof.Machine
end

