-- ==== Sys2Proof/Machine/State.lean ====
section
/-! DEFINITION. The state of the AX740, its faults and refusals, and the state after reset. Every field is plain data.
A component that a table does not list stands at its default, which is its value at reset. -/

namespace Sys2Proof.Machine

/-- Why a step stops the machine. -/
inductive Fault where
  /-- A step names a location that no part of the device and no outside party has. No step raises it: the spec stops the machine nowhere,
  and an access to such a place goes on (log 26); safe. -/
  | noSuchPlace
deriving DecidableEq, Repr

/-- Why a step has no meaning. -/
inductive Refusal where
  /-- The instruction is not modelled yet. Raised by the arms of Dispatch.lean alone; safe. -/
  | notModelled (mnemonic : String)
deriving DecidableEq, Repr

/-- A kernel that has been admitted (R317 to R321). -/
structure Kernel where
  /-- Kernel number KID (R319). -/
  kid      : Nat := 0
  queue    : Nat := 0
  seq      : Nat := 0
  asid     : Nat := 0
  /-- The locked window table: words 0 and 1 of each entry (R175). -/
  windows  : List (BitVec 64 × BitVec 64) := []
  /-- Owner of each vertical-bus frame slot (R285). -/
  slots    : List Nat := [0, 1, 2, 3, 0, 1, 2, 3, 0, 1, 2, 3, 0, 1, 2, 3]
  /-- It declares `.slots` (R317). -/
  slv      : Bool := false
  /-- Spoil bank, where the kernel declares one (R220). -/
  spoil    : Option Nat := none
  /-- Work fields F0 on: width and extent; and the walk order (R128). -/
  work     : List (Nat × Nat) := []
  nest     : List Nat := []
  /-- Lengths of its ranges of the microprogram store and the routine table, and their first words and entries by cluster
  (R248). -/
  uLen     : Nat := 2048
  tLen     : Nat := 256
  uBases   : Map Nat := []
  tBases   : Map Nat := []
  /-- Lengths of its shares of cluster and die scratchpad, and their first bytes by cluster and by die (R288, R300). -/
  clLen    : Nat := 0
  dieLen   : Nat := 0
  clBases  : Map Nat := []
  dieBases : Map Nat := []
  trapArea : Nat := 0
  saveArea : Nat := 0
  /-- Bound exposure register (R385). -/
  expo     : Option Nat := none
  exit     : BitVec 32 := 0
  /-- Admitted and not yet complete. -/
  alive    : Bool := false
  /-- Priority of its queue (R379). -/
  prio     : Nat := 0
  /-- Chosen cores, ascending (R320), its dies, contexts per core, owned banks, stream table. -/
  cores    : List Nat := []
  dies     : List Nat := []
  ctxN     : Nat := 0
  banks    : Nat := 0
  strm     : Bool := false
  /-- Completion signal word and the value added (R317). -/
  csig     : BitVec 64 := 0
  cadd     : BitVec 64 := 0
  /-- Parent, for a child launch (R322). -/
  parent   : Option Nat := none
  /-- Declared children, LAUNCHes made, pool entries still held (R322). -/
  children : Nat := 0
  launched : Nat := 0
  poolHeld : Nat := 0
  /-- Marks of the completion record (R382) and of R323. -/
  lovf     : Bool := false
  lrej     : Bool := false
  failed   : Bool := false
  trapped  : Bool := false
  aborted  : Bool := false
deriving DecidableEq, Repr

/-- An exposure register (R385). -/
structure Expo where
  limit : Nat := 2000
  count : Nat := 0
  lsexp : Int := 16
  skip  : Bool := false
  nan   : Bool := false
  ovf   : Bool := false
deriving DecidableEq, Repr

/-- The state of the machine. -/
structure State where
  /-- Arithmetic cycle c (R7), and whether the issue stage has acted in it. -/
  cycle    : Nat := 0
  issued   : Bool := false
  /-- Context and bundle for which a slot instruction acts; core whose micro-word acts. -/
  cur      : Nat := 0
  iss      : Issue := {}
  rcore    : Nat := 0
  /-- Free values drawn so far. -/
  freeCtr  : Nat := 0
  /-- Next identifier of a write, a command, a context, a kernel. -/
  nextId   : Nat := 1
  /-- Steps of outside parties, and optional steps, by the cycle from which they are taken. -/
  agenda   : List (Nat × Instr) := []
  ctxs     : Map Ctx := []
  cores    : Map Core := []
  clusters : Map Cluster := []
  /-- Benches by 4·die + bench. -/
  benches  : Map Bench := []
  kernels  : Map Kernel := []
  inflight : List Res := []
  /-- Writes at the end of this cycle: context, slot, write. -/
  ends     : List (Nat × Nat × EndWrite) := []
  stores   : List Store := []
  putqs    : List Putq := []
  mem      : Memory := []
  /-- Poisoned 64-byte units, by location / 64 (R399). -/
  poison   : List Nat := []
  /-- Correctable errors counted (R399). -/
  eccCount : Nat := 0
  /-- DCFG.NCC (R328). -/
  ncc      : Nat := 0
  /-- Commit points by domain: clusters 0 to 127, dies 128 and 129, package 130, system 131 (R100). -/
  orders   : Map (List Wr) := []
  expos    : Map Expo := []
  /-- Signal updates on their way (R110). -/
  sigs     : List Sig := []
  /-- Commands in flight, by identifier in order of issue (R107). -/
  cmds     : Map (Option Cmd) := []
  /-- First cycle of the next start of a copy engine (R303), and the (bench, context) it took last, as 4·bench + ctx. -/
  ceNext   : Map Nat := []
  ceLast   : Map Nat := []
  /-- The (core, context) each die's collective engine took last, as 4·core + ctx (R414). -/
  collLast : Map Nat := []
  /-- TLBs: copy engines by cluster, second level of die d by 128 + d (R313). -/
  tlbs     : Map (List TlbEnt) := []
  /-- Next SEQ of each die's fault records (R314). -/
  faultSeq : Map Nat := []
  /-- SLIP and slip ring of each die: ASID, page, ticks late, newest first (R316). -/
  slip     : Map Nat := []
  slipRing : Map (List (Nat × Nat × Nat)) := []
  /-- Capability tables, by 8,192·stack + index (R336). -/
  caps     : Map Cap := []
  /-- Filter cells of valid entries, by location / 32 (R352). -/
  cells    : Map Cell := []
  /-- Page-table leaves whose R and W rights a FILTER entry keeps clear, as they stood, by the physical address of the entry (R350). -/
  shut     : Map Nat := []
  revokes  : List Revoke := []
  /-- Retired channels (R331), ascending. -/
  deadChs  : List Nat := []
  /-- DCFG, EVBASE and FABCFG are locked by the first admission (R328, R389, R403). -/
  locked   : Bool := false
  evbase   : Map (BitVec 64) := []
  fabcfg   : BitVec 64 := 0
  /-- Export entries: words 0 and 1 (R407). -/
  exports  : Map (BitVec 64 × BitVec 64) := []
  /-- Fabric job tags by ASID (R407). -/
  jobTags  : Map (BitVec 16) := []
  ports    : Map Port := []
  /-- Link queues, by 512·plane + device (R411). -/
  links    : Map (List LinkEnt) := []
  /-- Aborts that await the start of a member (R422). -/
  ringAborts : List HeldAbort := []
  /-- Collectives that have started, by (2^32·die + KEY)·2^9 + rank (R422). -/
  ringStarts : Map Nat := []
  /-- Writes of other devices that await their publication (R412). -/
  inbound  : List Inbound := []
  /-- ARBW of each die where it is not at reset, and a write that takes effect at the next period (R415). -/
  arbw     : Map (Option (BitVec 64)) := []
  arbwNext : Map (Option (BitVec 64)) := []
  hqs      : Map HwQueue := []
  /-- Queue that an admission took last, by priority (R319). -/
  lastQ    : Map Nat := []
  pool     : List Child := []
  aborts   : List Abort := []
  cresumes : List Cresume := []
  /-- Root tables by ASID (R381). -/
  roots    : Map (Option Nat) := []
  /-- Budget registers where they are not at reset, and writes for the next period (R390). -/
  budgets  : Map (Option (BitVec 64)) := []
  budNext  : Map (Option (BitVec 64)) := []
  boot     : Boot := .waiting
  bootaddr : BitVec 64 := 0
  /-- Digest and security version of the running image (R398). -/
  image    : BitVec 256 × Nat := (0, 0)
  /-- SCHT (R7). -/
  scht     : Nat := 0
  /-- Relocation records, oldest first (R326). -/
  reloc    : List (Nat × Nat) := []
  /-- Save slots in use, by core: the context whose V registers the slot holds, and these; its bytes' eviction is in force
  (R214). -/
  evicted  : Map (Option (Nat × Map (BitVec 4096))) := []
  reports  : List Report := []
deriving DecidableEq, Repr

/-- The machine after reset: every component at its default. -/
def State.reset : State := {}

end Sys2Proof.Machine
end

