-- ==== Sys2Proof/Machine/Mem.lean ====
section
/-! DEFINITION. Locations and bytes. A location is a number: device DRAM by channel and channel offset, then the die
scratchpads, the cluster scratchpads, the unit scratchpads, host memory and remote memory, each in a range of its own.
A byte that no entry lists reads as 0 (log 2). Byte order is little-endian (R20). -/

namespace Sys2Proof.Machine

/-- Byte of memory at a location. -/
def readByte (m : Memory) (a : Nat) : BitVec 8 := mget 0 m a

/-- Write one byte. -/
def writeByte (m : Memory) (a : Nat) (b : BitVec 8) : Memory := mset 0 m a b

/-- The canonical form of memory: locations strictly rising, no entry equal to 0. -/
def Memory.wf (m : Memory) : Bool := mwf (0 : BitVec 8) m

/-- `n` bytes from `a`, as a little-endian number. -/
def readRun (m : Memory) (a : Nat) : Nat → Nat
  | 0 => 0
  | n + 1 => (readByte m a).toNat + 256 * readRun m (a + 1) n

/-- Write `n` bytes of a little-endian number from `a` on. -/
def writeRun (m : Memory) (a : Nat) : Nat → Nat → Memory
  | 0, _ => m
  | n + 1, v => writeRun (writeByte m a (BitVec.ofNat 8 v)) (a + 1) n (v / 256)

/-! ### Location ranges -/

/-- Device DRAM: channel `c`, channel offset `o` (R329). -/
def dramLoc (c o : Nat) : Nat := c * 2 ^ 31 + o

/-- Die scratchpad of die `d` (R300). -/
def dieLoc (d o : Nat) : Nat := 2 ^ 39 + d * 2 ^ 28 + o

/-- Cluster scratchpad of cluster `k` (R288). -/
def clLoc (k o : Nat) : Nat := 2 ^ 39 + 2 ^ 29 + k * 2 ^ 22 + o

/-- Unit scratchpad of a core: bank and offset (R179). -/
def unitLoc (core bank off : Nat) : Nat := 2 ^ 39 + 2 ^ 30 + core * 2 ^ 22 + bank % 16 * 2 ^ 18 + off % 2 ^ 18

/-- Host memory at a host address (R312). -/
def hostLoc (a : Nat) : Nat := 2 ^ 64 + a

/-- Exported memory of another device: device, plane-independent address (R410). -/
def remoteLoc (dev a : Nat) : Nat := 2 ^ 72 + dev * 2 ^ 64 + a

/-- V register `n` of a context, as a place that can be poisoned (R399). -/
def vregLoc (ctx n : Nat) : Nat := 2 ^ 90 + (ctx * 2048 + n) * 512

/-- Direct-range base of physical addresses (R329). -/
def directBase : Nat := 2 ^ 40

/-- Location of a device physical address under DCFG.NCC; none outside both ranges (R329). -/
def paLoc (ncc pa : Nat) : Option Nat :=
  if pa < 2 ^ 29 * (1024 - ncc) then
    let g := pa / 4096
    let c := (g % 256) ^^^ (g / 2 ^ 8 % 256) ^^^ (g / 2 ^ 16 % 256) ^^^ (g / 2 ^ 24 % 8)
    some (dramLoc c (4096 * (g / 256) + pa % 4096))
  else if directBase ≤ pa ∧ pa < directBase + 2 ^ 39 then
    let o := (pa - directBase) % 2 ^ 31
    if 1024 - ncc ≤ o / 2 ^ 21 then some (pa - directBase) else none
  else none

/-- Physical core number's die, bench, cluster (R6). -/
def coreDie (core : Nat) : Nat := core / 256
def coreBench (core : Nat) : Nat := core / 64 % 4
def coreCluster (core : Nat) : Nat := 64 * (core / 256) + core % 64

/-- Core of cluster `k` on bench `b`. -/
def clusterCore (k b : Nat) : Nat := 256 * (k / 64) + 64 * b + k % 64

/-! ### Ranges of a kernel (R248, R288, R300) -/

/-- First store word and routine-table entry of a kernel's range in cluster `k`. -/
def Kernel.uBase (kn : Kernel) (k : Nat) : Nat := mget 0 kn.uBases k
def Kernel.tBase (kn : Kernel) (k : Nat) : Nat := mget 0 kn.tBases k

/-- First byte of its share of the scratchpad of cluster `k`, and of that of die `d`. -/
def Kernel.clBase (kn : Kernel) (k : Nat) : Nat := mget 0 kn.clBases k
def Kernel.dieBase (kn : Kernel) (d : Nat) : Nat := mget 0 kn.dieBases d

/-! ### Banks (R179) -/

/-- `n` bytes of a bank from `off`, wrapping within the bank. -/
def readBank (m : Memory) (core bank off : Nat) : Nat → Nat
  | 0 => 0
  | n + 1 => (readByte m (unitLoc core bank off)).toNat + 256 * readBank m core bank (off + 1) n

/-- Write `n` bytes to a bank from `off`, wrapping; only the bits set in `mask` change. -/
def writeBank (m : Memory) (core bank off : Nat) : Nat → Nat → Nat → Memory
  | 0, _, _ => m
  | n + 1, v, mask =>
    let a := unitLoc core bank off
    let old := readByte m a
    let k := BitVec.ofNat 8 mask
    writeBank (writeByte m a ((old &&& ~~~k) ||| (BitVec.ofNat 8 v &&& k))) core bank (off + 1) n (v / 256) (mask / 256)

/-- Write pieces in order: later pieces win (R197). -/
def writePieces (m : Memory) (core bank : Nat) : List (Nat × Nat × Nat × Nat) → Memory
  | [] => m
  | (off, n, v, mask) :: l => writePieces (writeBank m core bank off n v mask) core bank l

/-- The DRAM channel of a location, where it is in DRAM. -/
def chanOf (a : Nat) : Option Nat := if a < 2 ^ 39 then some (a / 2 ^ 31) else none

/-- The location is on a retired channel: its contents are lost (R331). -/
def State.deadAt (s : State) (a : Nat) : Bool := !s.deadChs.isEmpty && (chanOf a).any (fun ch => s.deadChs.contains ch)

/-! ### Poison (R399): 64-byte units by location -/

/-- A unit is poisoned. -/
def State.unitBad (s : State) (a : Nat) : Bool := s.poison.contains (a / 64)

/-- Some unit that holds one of `n` bytes from `a` is poisoned. -/
def State.poisoned (s : State) (a n : Nat) : Bool :=
  s.poison.any (fun p => decide (a < 64 * p + 64 ∧ 64 * p < a + n))

/-- First poisoned unit at or after `a` among `n` bytes, as an address. -/
def State.firstBad (s : State) (a n : Nat) : Option Nat :=
  (sortBy (fun x y => decide (x ≤ y)) (s.poison.filter (fun p => decide (a < 64 * p + 64 ∧ 64 * p < a + n)))).head?.map (fun p => 64 * p)

/-- `n` bytes of a bank from `off` hold a poisoned unit. -/
def State.bankPoisoned (s : State) (core bank off n : Nat) : Bool :=
  if s.poison.isEmpty then false
  else (List.range (n / 64 + 2)).any (fun i =>
    let o := off / 64 * 64 + 64 * i
    decide (o < off + n) && s.unitBad (unitLoc core bank o))

/-- Mark the units of `n` bytes from `a`. -/
def State.taint (s : State) (a n : Nat) : State :=
  { s with poison := (List.range ((a + n + 63) / 64 - a / 64)).foldl (fun l i =>
      if l.contains (a / 64 + i) then l else l ++ [a / 64 + i]) s.poison }

/-- A write of `n` bytes from `a` clears the mark of every unit it covers whole. -/
def State.clean (s : State) (a n : Nat) : State :=
  if s.poison.isEmpty then s
  else { s with poison := s.poison.filter (fun p => !(decide (a ≤ 64 * p ∧ 64 * p + 64 ≤ a + n))) }

end Sys2Proof.Machine
end

