-- ==== Sys2Proof/Machine/Order.lean ====
section
/-! DEFINITION. The ordering machine (R96 to R105, R109): commit points, views, reads, Publish and Acquire. Levels are
0 cluster, 1 die, 2 package, 3 system. -/

namespace Sys2Proof.Machine

/-- The write covers the location. -/
def Wr.covers (w : Wr) (a : Nat) : Bool := decide (w.loc ≤ a ∧ a < w.loc + w.n)

/-- The byte it writes there. -/
def Wr.byteAt (w : Wr) (a : Nat) : BitVec 8 := BitVec.ofNat 8 (w.val / 256 ^ (a - w.loc))

/-- A marker holds no byte (R117). -/
def Wr.isMarker (w : Wr) : Bool := w.n == 0

/-- Commit point of level `j` for a core's parties (R100). -/
def domainOf (core j : Nat) : Nat :=
  match j with
  | 0 => coreCluster core
  | 1 => 128 + coreDie core
  | 2 => 130
  | _ => 131

/-- The commit point that encloses a commit point. -/
def domainParent (d : Nat) : Nat := if d < 128 then 128 + d / 64 else if d < 130 then 130 else 131

/-- Level of a scope; CTX and CORE have no commit point (R100). -/
def scopeLevel : Scope → Option Nat
  | .ctx | .core => none
  | .cluster => some 0
  | .die => some 1
  | .pkg => some 2
  | .sys => some 3

/-- Order of a commit point. -/
def State.order (s : State) (d : Nat) : List Wr := mget [] s.orders d

/-- Append to a commit point. -/
def State.appendOrder (s : State) (d : Nat) (l : List Wr) : State :=
  if l.isEmpty then s else { s with orders := mset [] s.orders d (s.order d ++ l) }

/-- The order holds the write. -/
def holds (o : List Wr) (w : Wr) : Bool := o.any (fun x => x.id == w.id)

/-- Writes among the first `p` of `lo` that `hi` does not hold, in order (R101). -/
def missing (lo hi : List Wr) (p : Nat) : List Wr := (lo.take p).filter (fun w => !w.isMarker && !(holds hi w))

/-- COMMIT_PROPAGATE: the oldest write of a commit point that the enclosing one does not hold goes there (R101). -/
def State.propagate (s : State) (d : Nat) : State :=
  s.appendOrder (domainParent d) ((missing (s.order d) (s.order (domainParent d)) (s.order d).length).take 1)

/-- Carry the first `p` writes of a commit point up to its parent (R101, R104). -/
def State.carry (s : State) (d p : Nat) : State :=
  s.appendOrder (domainParent d) (missing (s.order d) (s.order (domainParent d)) p)

/-- Position of a level in a view. -/
def View.at (v : View) (j : Nat) : Nat :=
  match j with
  | 0 => v.cl
  | 1 => v.die
  | 2 => v.pkg
  | _ => v.sys

/-- Move a level of a view forward to at least `p` (R102: never back). -/
def View.raise (v : View) (j p : Nat) : View :=
  match j with
  | 0 => { v with cl := max v.cl p }
  | 1 => { v with die := max v.die p }
  | 2 => { v with pkg := max v.pkg p }
  | _ => { v with sys := max v.sys p }

/-- Each level at least that of another view (R107 step 7). -/
def View.join (v w : View) : View := ⟨max v.cl w.cl, max v.die w.die, max v.pkg w.pkg, max v.sys w.sys⟩

/-- Position of a write in an order. -/
def posIn (o : List Wr) (w : Wr) : Option Nat := o.findIdx? (fun x => x.id == w.id)

/-- One past the last position in `hi` of the writes among the first `p` of `lo`. -/
def reach (lo hi : List Wr) (p : Nat) : Nat :=
  (lo.take p).foldl (fun n w => match posIn hi w with | some i => max n (i + 1) | none => n) 0

/-- Carry covered writes up from level `j`, `k` levels: at each level the first `p` writes go to the next (R104 step 1).
`p` is the larger of the view's position and what the level below has carried to. -/
def carryChain (core : Nat) (v : View) : Nat → Nat → Nat → State → State
  | 0, _, _, s => s
  | k + 1, j, p, s =>
    let d := domainOf core j
    let q := max p (v.at j)
    let s' := s.carry d q
    carryChain core v k (j + 1) (reach (s'.order d) (s'.order (domainParent d)) q) s'

/-- A write to another device's memory belongs to the system domain only (R410). -/
def Wr.remote (w : Wr) : Bool := decide (remoteLoc 0 0 ≤ w.loc ∧ w.loc < vregLoc 0 0)

/-- Append the pending writes at levels `j` on, `k` levels, each after everything older of the level below (R104
step 2); a remote write only at the system commit point (R410). -/
def pushPending (core : Nat) (pend : List Wr) : Nat → Nat → State → State
  | 0, _, s => s
  | k + 1, j, s =>
    let d := domainOf core j
    let s' := s.appendOrder d (pend.filter (fun w => !(holds (s.order d) w) && (j == 3 || !w.remote)))
    pushPending core pend k (j + 1) (if k = 0 then s' else s'.carry d (s.order d).length)

/-- Raise the view at levels 0 to `L` to the end of what Publish appended (R104 step 4). -/
def raiseAll (core : Nat) (before after : State) : Nat → View → View
  | 0, v => v
  | k + 1, v =>
    let d := domainOf core k
    let n := (after.order d).length
    raiseAll core before after k (if (before.order d).length < n then v.raise k n else v)

/-- Writes that a Publish leaves pending (R410). -/
def leftPending (L : Nat) (pend : List Wr) : List Wr := if L = 3 then [] else pend.filter (fun w => w.remote)

/-- Publish(sc) by a party of `core` with its view and pending writes: the new state, the view, and the writes still
pending (R104, R410). -/
def State.publish (s : State) (core : Nat) (sc : Scope) (v : View) (pend : List Wr) : State × View × List Wr :=
  match scopeLevel sc with
  | none => (s, v, pend)
  | some L =>
    let s1 := carryChain core v L 0 0 s
    let s2 := if pend.isEmpty then s1 else pushPending core pend (L + 1) 0 s1
    (s2, raiseAll core s s2 (L + 1) v, leftPending L pend)

/-- Remote writes of a list that stand in a link queue still (R411). -/
def State.undelivered (s : State) (pend : List Wr) : Bool :=
  pend.any (fun w => w.remote && s.links.any (fun l => l.2.any (fun e => e.wr.id == w.id)))

/-- A write of another device whose publication has come: the first that no earlier one of the same job precedes (R410, R412). -/
def State.inboundDue (s : State) : Option Inbound :=
  s.inbound.find? (fun x => decide (x.due ≤ s.cycle) &&
    ((s.inbound.takeWhile (fun y => y.wr.id != x.wr.id)).all (fun y => y.job != x.job)))

/-- It joins the system commit point; a write to a retired channel is dropped (R331), and its data are unmarked. -/
def State.joinInbound (s : State) : State :=
  match s.inboundDue with
  | some x =>
    let s1 := { s with inbound := s.inbound.filter (fun y => y.wr.id != x.wr.id) }
    if s1.deadAt x.wr.loc then s1 else (s1.clean x.wr.loc x.wr.n).appendOrder 131 [x.wr]
  | none => s

/-- Acquire(sc) (R105). -/
def State.acquire (s : State) (core : Nat) (sc : Scope) (v : View) : View :=
  match scopeLevel sc with
  | none => v
  | some L =>
    { cl := max v.cl (s.order (domainOf core 0)).length
      die := if 1 ≤ L then max v.die (s.order (domainOf core 1)).length else v.die
      pkg := if 2 ≤ L then max v.pkg (s.order (domainOf core 2)).length else v.pkg
      sys := if 3 ≤ L then max v.sys (s.order (domainOf core 3)).length else v.sys }

/-- Latest write to a byte in a list. -/
def lastTo (a : Nat) (l : List Wr) : Option Wr := (l.filter (fun w => w.covers a)).getLast?

/-- `b` is later than `a` for a reader of `core`: by the narrowest commit point from level `j` that holds both, else
the one that stands only at narrower points (R103 step 2). -/
def laterFrom (s : State) (core : Nat) (a b : Wr) : Nat → Nat → Bool
  | 0, _ => decide (a.id < b.id)
  | k + 1, j =>
    match posIn (s.order (domainOf core j)) a, posIn (s.order (domainOf core j)) b with
    | some x, some y => decide (x < y)
    | _, _ => laterFrom s core a b k (j + 1)

/-- The widest level at which the write stands. -/
def widest (s : State) (core : Nat) (w : Wr) : Nat :=
  if holds (s.order 131) w then 3 else if holds (s.order 130) w then 2
  else if holds (s.order (domainOf core 1)) w then 1 else 0

/-- No commit point of the reader holds both. -/
def apart (s : State) (core : Nat) (a b : Wr) : Bool :=
  [0, 1, 2, 3].all (fun j => !(holds (s.order (domainOf core j)) a && holds (s.order (domainOf core j)) b))

def isLater (s : State) (core : Nat) (a b : Wr) : Bool :=
  if apart s core a b then decide (widest s core b < widest s core a) else laterFrom s core a b 4 0

/-- The candidates of R103 step 2. -/
def candidates (s : State) (core : Nat) (v : View) (a : Nat) : List Wr :=
  [0, 1, 2, 3].flatMap (fun j => ((s.order (domainOf core j)).take (v.at j)).filter (fun w => w.covers a))

/-- The later of a list of writes. -/
def pickLatest (s : State) (core : Nat) : Option Wr → List Wr → Option Wr
  | best, [] => best
  | none, w :: l => pickLatest s core (some w) l
  | some b, w :: l => pickLatest s core (some (if isLater s core b w then w else b)) l

/-- A byte read on a retired channel, whose value the spec does not give (R331, log 12). -/
def State.lostByte (s : State) (a : Nat) : BitVec 8 := Config.freeByte (2 ^ 100 * s.freeCtr + a)

/-- A byte of a shared place as a party reads it (R103). -/
def State.readShared (s : State) (core : Nat) (v : View) (pend : List Wr) (a : Nat) : BitVec 8 :=
  if s.deadAt a then s.lostByte a else
  match lastTo a pend with
  | some w => w.byteAt a
  | none =>
    match pickLatest s core none (candidates s core v a) with
    | some w => w.byteAt a
    | none => readByte s.mem a

/-- `n` bytes of shared places from `a`. -/
def State.readSharedRun (s : State) (core : Nat) (v : View) (pend : List Wr) (a : Nat) : Nat → Nat
  | 0 => 0
  | n + 1 => (s.readShared core v pend a).toNat + 256 * s.readSharedRun core v pend (a + 1) n

/-- A byte as a DEVICE read returns it: the latest write of the system commit point (R109). -/
def State.readSys (s : State) (a : Nat) : BitVec 8 :=
  if s.deadAt a then s.lostByte a else
  match lastTo a (s.order 131) with
  | some w => w.byteAt a
  | none => readByte s.mem a

/-- `n` bytes at the system commit point, little-endian. -/
def State.readSysRun (s : State) (a : Nat) : Nat → Nat
  | 0 => 0
  | n + 1 => (s.readSys a).toNat + 256 * s.readSysRun (a + 1) n

/-- The listed bytes among `n` from `a`, as a little-endian number. -/
def memValue (m : Memory) (a n : Nat) : Nat :=
  m.foldl (fun v e => if a ≤ e.1 ∧ e.1 < a + n then v + e.2.toNat * 256 ^ (e.1 - a) else v) 0

/-- Lay a write over the value `v` of `n` bytes from `a`. -/
def Wr.lay (w : Wr) (a n v : Nat) : Nat :=
  let lo := max a w.loc
  let k := min (a + n) (w.loc + w.n) - lo
  let at_ := 256 ^ (lo - a)
  if k = 0 then v else v - v / at_ % 256 ^ k * at_ + w.val / 256 ^ (lo - w.loc) % 256 ^ k * at_

/-- `n` bytes of a scratchpad at the system commit point, taken together. -/
def State.readSysBlock (s : State) (a n : Nat) : Nat := (s.order 131).foldl (fun v w => w.lay a n v) (memValue s.mem a n)

/-- A write performed at the system commit point: a DEVICE access, the host, the command processor (R109, R115). -/
def State.writeSys (s : State) (a n v : Nat) : State :=
  { s.appendOrder 131 [⟨s.nextId, a, n, v % 256 ^ n⟩] with nextId := s.nextId + 1 }

/-- A read of device physical memory by the command processor; addresses outside both ranges read 0 (R329). -/
def State.readPa (s : State) (pa : Nat) : Nat → Nat
  | 0 => 0
  | n + 1 =>
    (match paLoc s.ncc pa with
      | some a => (s.readSys a).toNat
      | none => 0) + 256 * s.readPa (pa + 1) n

/-- A byte at an address that neither range of R329 maps, as the host or another device reads it: the spec gives it no value, and it is
free (log 26). -/
def State.holeByte (s : State) (pa : Nat) : BitVec 8 := Config.freeByte (2 ^ 100 * s.freeCtr + 2 ^ 99 + pa)

/-- A read of device physical memory by the host. -/
def State.readHost (s : State) (pa : Nat) : Nat → Nat
  | 0 => 0
  | n + 1 => (((paLoc s.ncc pa).map s.readSys).getD (s.holeByte pa)).toNat + 256 * s.readHost (pa + 1) n

/-- `n` bytes at a location on a retired channel (R331, log 12). -/
def State.lostRun (s : State) (a : Nat) : Nat → Nat
  | 0 => 0
  | n + 1 => (s.lostByte a).toNat + 256 * s.lostRun (a + 1) n

/-- The same read taken by granules of the interleave; `fuel` bounds their number. -/
def State.readPaLong : Nat → State → Nat → Nat → Nat
  | 0, _, _, _ => 0
  | k + 1, s, pa, n =>
    if n = 0 then 0
    else
      let m := min n (4096 - pa % 4096)
      (match paLoc s.ncc pa with
        | some a => if s.deadAt a then s.lostRun a m else s.readSysBlock a m
        | none => 0) + 256 ^ m * State.readPaLong k s (pa + m) (n - m)

/-- A write of device physical memory by the command processor or the host that stays within one granule of the
interleave: dropped on a retired channel (R331), its data unmarked (R399). -/
def State.writePa (s : State) (pa n v : Nat) : State :=
  match paLoc s.ncc pa with
  | some a => if s.deadAt a then s else (s.clean a n).writeSys a n v
  | none => s

/-- A longer write, cut at the 4 KiB granules; `fuel` bounds their number. -/
def State.writePaLong : Nat → State → Nat → Nat → Nat → State
  | 0, s, _, _, _ => s
  | k + 1, s, pa, n, v =>
    if n = 0 then s
    else
      let m := min n (4096 - pa % 4096)
      State.writePaLong k (s.writePa pa m (v % 256 ^ m)) (pa + m) (n - m) (v / 256 ^ m)

end Sys2Proof.Machine
end

