-- ==== Sys2Proof/Machine/Ops.lean ====
section
/-! DEFINITION. The named operations of the machine: contexts and cores, registers, results in flight (R208), guards
(R48), blocking (R129), taking a trap (R145) and its return (R384). Every slot instruction acts for the context
`s.cur` and the bundle `s.iss`. -/

namespace Sys2Proof.Machine

/-- The answer of a step. -/
abbrev Out := Host.Outcome State Fault Refusal

/-! ### Components -/

/-- A context by its key. -/
def State.ctx (s : State) (u : Nat) : Ctx := mget {} s.ctxs u

/-- Store a context. -/
def State.setCtx (s : State) (u : Nat) (c : Ctx) : State := { s with ctxs := mset {} s.ctxs u c }

/-- The context for which a slot instruction acts. -/
def State.me (s : State) : Ctx := s.ctx s.cur

/-- Store it. -/
def State.setMe (s : State) (c : Ctx) : State := s.setCtx s.cur c

/-- A core by its physical number. -/
def State.core (s : State) (k : Nat) : Core := mget {} s.cores k

def State.setCore (s : State) (k : Nat) (c : Core) : State := { s with cores := mset {} s.cores k c }

/-- A cluster by its number. -/
def State.cluster (s : State) (k : Nat) : Cluster := mget {} s.clusters k

def State.setCluster (s : State) (k : Nat) (c : Cluster) : State := { s with clusters := mset {} s.clusters k c }

/-- A kernel by its key. -/
def State.kernel (s : State) (k : Nat) : Kernel := mget {} s.kernels k

def State.setKernel (s : State) (k : Nat) (c : Kernel) : State := { s with kernels := mset {} s.kernels k c }

/-- The next free value of `freeNat` (log 12). -/
def State.free (s : State) : Nat := Config.freeNat s.freeCtr

/-- Draw it. -/
def State.draw (s : State) : State := { s with freeCtr := s.freeCtr + 1 }

/-! ### Registers (R120, R123, R126) -/

/-- S register; S0 reads as zero (R120). -/
def Ctx.s (c : Ctx) (n : BitVec 6) : BitVec 64 := if n = 0 then 0 else mget 0 c.sr n.toNat

/-- A register, its 32 kept bits (R123). -/
def Ctx.a (c : Ctx) (n : BitVec 4) : BitVec 32 := mget 0 c.ar n.toNat

/-- M register; M0 reads all ones (R120). -/
def Ctx.mask (c : Ctx) (n : BitVec 4) : BitVec 1024 := if n = 0 then BitVec.allOnes 1024 else mget 0 c.m n.toNat

/-- Physical number of logical V register `n` (R126). -/
def physV (vrot n : Nat) : Nat := if n % 2048 < 1024 then n % 2048 else 1024 + (n % 2048 + 1024 - vrot % 1024) % 1024

/-- A logical V register. -/
def Ctx.vr (c : Ctx) (n : Nat) : BitVec 4096 := mget 0 c.v (physV c.vrot n)

/-- Queue handle. -/
def Ctx.qh (c : Ctx) (n : Nat) : QHandle := mget {} c.q n

def Ctx.setQh (c : Ctx) (n : Nat) (h : QHandle) : Ctx := { c with q := mset {} c.q n h }

/-- Tensor-table entry. -/
def Ctx.te (c : Ctx) (n : Nat) : TEntry := mget {} c.t n

/-- Latch. -/
def Ctx.latch (c : Ctx) (n : Nat) : Latch := mget {} c.pl n

def Ctx.setLatch (c : Ctx) (n : Nat) (l : Latch) : Ctx := { c with pl := mset {} c.pl n l }

/-- Matrix parameter register (R253). -/
def Ctx.mpr (c : Ctx) (n : Nat) : BitVec 64 := mget 0 c.mp n

/-- Key of a shape register's copy: class 0 LH, 1 WH, 2 CH, 3 MH; number; shadow or live (R142). -/
def shapeKey (cls n : Nat) (shadow : Bool) : Nat := 8 * cls + 2 * n + (if shadow then 1 else 0)

def Ctx.shapeOf (c : Ctx) (cls n : Nat) : BitVec 64 := mget 0 c.shape (shapeKey cls n false)

/-- Exchange the live and the shadow copy (R49). -/
def Ctx.swapShape (c : Ctx) (cls n : Nat) : Ctx :=
  let l := mget 0 c.shape (shapeKey cls n false)
  let h := mget 0 c.shape (shapeKey cls n true)
  { c with shape := mset 0 (mset 0 c.shape (shapeKey cls n false) h) (shapeKey cls n true) l }

/-- The swap of a slot with its SW bit. -/
def Ctx.swapIf (c : Ctx) (cls n : Nat) (sw : Bool) : Ctx := if sw then c.swapShape cls n else c

/-- Second operand of an X slot: S[SB], or SignExt(IMM) (R131). -/
def Ctx.xsrc (c : Ctx) : XSrc → BitVec 64
  | .reg r => c.s r
  | .imm v => v.signExtend 64

/-- The same with ZeroExt(IMM) (R138, R140, R142). -/
def Ctx.xsrcZ (c : Ctx) : XSrc → BitVec 64
  | .reg r => c.s r
  | .imm v => v.zeroExtend 64

/-! ### Results (R25, R208) -/

/-- A result of the running slot, written `lat` cycles after issue. -/
def State.defer (s : State) (lat : Nat) (val : RVal) (fl : Flags) : State :=
  { s with inflight := s.inflight ++
      [{ ctx := s.cur, due := s.cycle + lat, issued := s.cycle, slot := s.iss.slot, val := val, flags := fl }] }

/-- A write at the end of the issue cycle (R208). -/
def State.atEnd (s : State) (w : EndWrite) : State := { s with ends := s.ends ++ [(s.cur, s.iss.slot, w)] }

/-- Latency of the scalar results (R208). -/
def latX : Nat := 1

/-- A scalar result. -/
def State.deferS (s : State) (lat : Nat) (sd : BitVec 6) (v : BitVec 64) : State := s.defer lat (.s sd v) 0

/-! ### Guards and blocking (R48, R129) -/

/-- G = 0, or stage predicate G is true (R48). -/
def guardOk (c : Ctx) (g : BitVec 3) : Bool := g == 0 || c.stage.getLsbD g.toNat

/-- A slot issues as a no-operation when its guard is false (R48); otherwise it acts. -/
def slotDo (g : BitVec 3) (s : State) (act : State → State) : Out := .next (if guardOk s.me g then act s else s)

/-- The bundle cannot issue in this cycle (R129): nothing else happens. -/
def State.block (s : State) : State := { s with iss := { s.iss with blocked := true } }

/-! ### Traps (R144, R145, R384) -/

/-- Word 0 of a trap record. -/
def trapWord0 (kid : Nat) (t : TrapInfo) : Nat :=
  t.info % 2 ^ 32 * 2 ^ 32 + kid % 2 ^ 12 * 2 ^ 20 + t.slot % 16 * 2 ^ 16 + t.cause % 256 * 2 ^ 8 + t.code % 256

/-- The 32 bytes of a trap record (R145). -/
def trapRecord (kid : Nat) (t : TrapInfo) (pc resume : Nat) : Nat :=
  trapWord0 kid t + pc % 2 ^ 64 * 2 ^ 64 + resume % 2 ^ 64 * 2 ^ 128 + t.addr % 2 ^ 64 * 2 ^ 192

/-- Cycle of the release of a context that stops at cycle `f`: after the drain, within 6 µs (R212, R216). -/
def State.releaseTime (s : State) (f : Nat) : Nat := f + 12 + s.free % 16189

/-- What a context's contact sheet still holds, counted from a new stop at cycle `f` (R212, R217). -/
def Ctx.resheet (c : Ctx) (f : Nat) : List SheetEntry :=
  c.sheet.map (fun e => { e with off := c.resumeAt + e.off - f, age := e.age + (f - c.resumeAt) })

/-- Taking a trap (R145): the context stops at this cycle (from which its results go to the contact sheet, R212),
its yield flag clears (R207), its fetch queue is discarded, its kernel is marked. Once its state is saved the command processor
goes on (`State.reportTrap`). A TRAP in the STOP bundle of a body keeps the loop record (DESIGN CHOICE, log 50). -/
def State.takeTrap (s : State) (u : Nat) (t : TrapInfo) (pc resume : Nat) : State :=
  let c := s.ctx u
  let k := s.kernel c.kernel
  let c' := { c with
    life := .trapped, frozenAt := s.cycle, yielded := false, fq := [], mread := none, pre := .none
    gapLeft := c.readyAt - s.cycle
    trap := some t, trapPc := pc, resumePc := resume, sheet := c.resheet s.cycle, released := false
    releaseAt := s.releaseTime s.cycle
    loop := c.loop.map (fun l => { l with buf := [], met := if resume = pc then l.met else l.met + 1 }) }
  (s.draw.setCtx u c').setKernel c.kernel { k with trapped := true }

/-! ### What the command processor writes of a stopped context (R145, R215, R274) -/

/-- Address of the state record of a context (R215). -/
def State.recordPa (s : State) (u : Nat) : Nat :=
  let c := s.ctx u
  (s.kernel c.kernel).saveArea + 1280 * 1024 * c.worker

/-- Write areas of the record. -/
def State.writeAreas (s : State) (pa : Nat) (l : List (Nat × Nat × Nat)) : State :=
  l.foldl (fun t a => State.writePaLong (a.2.1 / 4096 + 2) t (pa + a.1) a.2.1 a.2.2) s

/-- What changes in a saved context reaches its record (R116, R274). -/
def State.echo (s : State) (u : Nat) (l : Ctx → List (Nat × Nat × Nat)) : State :=
  if (s.ctx u).released then s.writeAreas (s.recordPa u) (l (s.ctx u)) else s

/-- Steps 3 and 4 of a trap (R145): the command processor writes the trap record at TRAPAREA + 32·w and reports the trap to the
host. -/
def State.reportTrap (s : State) (u : Nat) : State :=
  let c := s.ctx u
  let k := s.kernel c.kernel
  match c.trap with
  | some t =>
    let s1 := s.writePa (k.trapArea + 32 * c.worker) 32 (trapRecord k.kid t c.trapPc c.resumePc)
    { s1 with reports := s1.reports ++ [.trap u t] }
  | none => s

/-- A trap taken by the running slot at its bundle's address (R145). -/
def State.trap (s : State) (code cause info addr : Nat) : State :=
  let t : TrapInfo := { code := code, cause := cause, slot := s.iss.slot, info := info, addr := addr }
  let s' := s.takeTrap s.cur t s.iss.pc s.iss.pc
  { s' with iss := { s'.iss with trapped := some t } }

/-- The software trap, which resumes at PC + length (R140, R145). -/
def State.softTrap (s : State) (info : Nat) : State :=
  let t : TrapInfo := { code := 0x0B, cause := 0, slot := s.iss.slot, info := info, addr := 0 }
  let s' := s.takeTrap s.cur t s.iss.pc (s.iss.pc + s.iss.len)
  { s' with iss := { s'.iss with trapped := some t } }

/-- Return from a trap or a freeze (R217, R384): the context is bound again from cycle `z` at the address `pc`; what
its contact sheet holds is written from then on. CYCLE counts on through the pause (R122, R218). -/
def State.rebind (s : State) (u z pc : Nat) : State :=
  let c := s.ctx u
  s.setCtx u { c with
    life := .running, resumeAt := z, pc := pc, wait := 0, released := false, trap := none, pre := .none, moving := false
    readyAt := z + c.gapLeft, fq := [], fetchAt := z - 1 }

/-! ### Banks of a cycle (R184, R185) -/

/-- Banks that matrix feeds of a core use in this cycle. -/
def State.feedBanks (s : State) (core : Nat) : List Nat :=
  let f := (s.core core).feeds
  if f.1 = s.cycle then f.2 else []

/-- Note a matrix feed of this cycle. -/
def State.addFeed (s : State) (core bank : Nat) : State :=
  let c := s.core core
  s.setCore core { c with feeds := (s.cycle, bank :: s.feedBanks core) }

/-- Banks that L and S slots of a core use in this cycle. -/
def State.usedBanks (s : State) (core : Nat) : List Nat :=
  let f := (s.core core).used
  if f.1 = s.cycle then f.2 else []

/-- Note an L- or S-slot access of this cycle. -/
def State.addUsed (s : State) (core bank : Nat) : State :=
  let c := s.core core
  s.setCore core { c with used := (s.cycle, bank :: s.usedBanks core) }

/-- A bank grants an engine access in this cycle: no scheduled access and no other engine access uses it (R179, R185). -/
def State.bankFree (s : State) (core bank : Nat) : Bool :=
  decide (mget 0 (s.core core).engAt bank ≤ s.cycle) && !((s.usedBanks core).contains bank) && !((s.feedBanks core).contains bank)

/-- A bank makes its engine access of this cycle. -/
def State.useEngine (s : State) (core bank : Nat) : State :=
  s.setCore core { s.core core with engAt := mset 0 (s.core core).engAt bank (s.cycle + 1) }

end Sys2Proof.Machine
end

