-- ==== Sys2Proof/Machine/Scalar.lean ====
section
/-! DEFINITION. Scalar instructions of the X slot: integer arithmetic (R131), bit counts (R132), SET (R133), SEL (R134),
immediates (R135) and address registers (R136). None sets a flag. -/

namespace Sys2Proof.Machine

/-- A scalar result f(S[SA], b) written `lat` cycles after issue (R131). -/
def scalarOp (lat : Nat) (f : Word → Word → Word) (g : BitVec 3) (sd sa : BitVec 6) (b : XSrc) (s : State) : Out :=
  slotDo g s (fun s => s.deferS lat sd (f (s.me.s sa) (s.me.xsrc b)))

/-- ⌊a·b / 2^64⌋, signed, or unsigned with `.N` (R131). -/
def mulHigh (n : Bool) (a b : Word) : Word :=
  if n then BitVec.ofNat 64 (a.toNat * b.toNat / 2 ^ 64) else BitVec.ofInt 64 (a.toInt * b.toInt / 2 ^ 64)

/-- a < b, unsigned with `.N` (R131). -/
def ltN (n : Bool) (a b : Word) : Bool := if n then decide (a.toNat < b.toNat) else decide (a.toInt < b.toInt)

/-- A condition of R51 on two words (R133). -/
def condHolds (cc : Cond) (a b : Word) : Bool :=
  match cc with
  | .eq => a == b
  | .ne => a != b
  | .lt => ltN false a b
  | .ge => !(ltN false a b)
  | .le => !(ltN false b a)
  | .gt => ltN false b a
  | .lo => ltN true a b
  | .hs => !(ltN true a b)
  | .ls => !(ltN true b a)
  | .hi => ltN true b a

/-- Number of one bits among the low `k`. -/
def onesBelow (v : Nat) : Nat → Nat
  | 0 => 0
  | k + 1 => (if v.testBit k then 1 else 0) + onesBelow v k

/-- Number of leading zeros from bit `k − 1` down. -/
def leadZeros (v : Nat) : Nat → Nat
  | 0 => 0
  | k + 1 => if v.testBit k then 0 else 1 + leadZeros v k

def execAdd := scalarOp 1 (fun a b => a + b)
def execSub := scalarOp 1 (fun a b => a - b)
def execMul := scalarOp 3 (fun a b => a * b)
def execMulh (g : BitVec 3) (n : Bool) := scalarOp 3 (mulHigh n) g
def execAnd := scalarOp 1 (fun a b => a &&& b)
def execOr := scalarOp 1 (fun a b => a ||| b)
def execXor := scalarOp 1 (fun a b => a ^^^ b)
def execShl := scalarOp 1 (fun a b => a <<< (b.toNat % 64))
def execShr := scalarOp 1 (fun a b => a >>> (b.toNat % 64))
def execSra := scalarOp 1 (fun a b => a.sshiftRight (b.toNat % 64))
def execMin (g : BitVec 3) (n : Bool) := scalarOp 1 (fun a b => if ltN n b a then b else a) g
def execMax (g : BitVec 3) (n : Bool) := scalarOp 1 (fun a b => if ltN n a b then b else a) g

/-- CLZ: 64 for zero (R132). -/
def execClz (g : BitVec 3) (sd sa : BitVec 6) (s : State) : Out :=
  slotDo g s (fun s => s.deferS 1 sd (BitVec.ofNat 64 (leadZeros (s.me.s sa).toNat 64)))

/-- POPC (R132). -/
def execPopc (g : BitVec 3) (sd sa : BitVec 6) (s : State) : Out :=
  slotDo g s (fun s => s.deferS 1 sd (BitVec.ofNat 64 (onesBelow (s.me.s sa).toNat 64)))

/-- SET.cc (R133). -/
def execSet (g : BitVec 3) (cc : Cond) := scalarOp 1 (fun a b => if condHolds cc a b then 1 else 0) g

/-- SEL (R134). -/
def execSel (g : BitVec 3) (sd sc sa sb : BitVec 6) (s : State) : Out :=
  slotDo g s (fun s => s.deferS 1 sd (if s.me.s sc ≠ 0 then s.me.s sa else s.me.s sb))

/-- LI (R135). -/
def execLi (g : BitVec 3) (sd : BitVec 6) (v : BitVec 32) (s : State) : Out :=
  slotDo g s (fun s => s.deferS 1 sd (v.signExtend 64))

/-- LIH: the immediate above the low word of S[SA] (R135). -/
def execLih (g : BitVec 3) (sd sa : BitVec 6) (v : BitVec 32) (s : State) : Out :=
  slotDo g s (fun s => s.deferS 1 sd (v ++ (s.me.s sa).setWidth 32))

/-- MOVA in its three forms (R136). -/
def execMova (g : BitVec 3) (f : MovaForm) (s : State) : Out :=
  slotDo g s (fun s =>
    match f with
    | .toA ad sa => s.defer 1 (.a ad ((s.me.s sa).setWidth 32)) 0
    | .fromA sd aa => s.deferS 1 sd ((s.me.a aa).setWidth 64)
    | .immA ad v => s.defer 1 (.a ad v) 0)

/-- OFFSET of an address register (R123). -/
def aOffset (v : AReg) : Nat := v.toNat % 2 ^ 18

/-- The register with OFFSET replaced, BANK and STEP kept (R123). -/
def aWithOffset (v : AReg) (o : Nat) : AReg := BitVec.ofNat 32 (v.toNat / 2 ^ 18 * 2 ^ 18 + o % 2 ^ 18)

/-- ADDA: OFFSET + b mod 2^18, BANK and STEP of Aa (R136). -/
def execAdda (g : BitVec 3) (ad aa : BitVec 4) (b : XSrc) (s : State) : Out :=
  slotDo g s (fun s =>
    s.defer 1 (.a ad (aWithOffset (s.me.a aa) (aOffset (s.me.a aa) + (s.me.xsrc b).toNat))) 0)

end Sys2Proof.Machine
end

