-- ==== Sys2Proof/Machine/Control.lean ====
section
/-! DEFINITION. Control transfer (R137), LOOP (R125 to R127, R138), work items (R128, R139), EXIT and TRAP (R140). -/

namespace Sys2Proof.Machine

/-! ### The fetch queue (R174) -/

/-- The line of an address. -/
def lineOf (a : Nat) : Nat := a / 256 * 256

/-- Queue after the context goes on at `a` in sequence: lines before that of `a` leave. -/
def fqKeep (a : Nat) (q : List FLine) : List FLine := q.dropWhile (fun l => decide (l.base ≠ lineOf a))

/-- A transfer keeps the queue if it holds the target's line, and empties it otherwise (R174). -/
def Ctx.goTo (c : Ctx) (a : Nat) : Ctx := { c with pc := a % 2 ^ 64, fq := fqKeep (a % 2 ^ 64) c.fq }

/-- PC + 4·OFF, or S[SA] + 4·OFF, as a 64-bit address (R137). -/
def target64 (base : Nat) (off : BitVec 30) : Nat := (((base : Int) + 4 * off.toInt) % (2 ^ 64 : Nat)).toNat

/-- A taken transfer: the target issues no earlier than t + 2 + GAP (R137). -/
def State.transfer (s : State) (a : Nat) : State :=
  s.setMe { s.me.goTo a with readyAt := s.cycle + 2 + s.iss.gap }

/-- BR, JMP, CALL, RET and LOOP in a loop body take the loop trap, cause 0x02 (R127). -/
def outsideLoop (s : State) (act : State → State) : State :=
  if s.me.loop.isSome then s.trap 0x05 0x02 0 0 else act s

/-- BR.cc (R137). -/
def execBr (g : BitVec 3) (cc : Cond) (sa sb : BitVec 6) (off : BitVec 30) (s : State) : Out :=
  slotDo g s (fun s => outsideLoop s (fun s =>
    if condHolds cc (s.me.s sa) (s.me.s sb) then s.transfer (target64 s.iss.pc off) else s))

/-- Base of JMP and CALL: PC where SA = 0 (R137). -/
def jumpBase (s : State) (sa : BitVec 6) : Nat := if sa = 0 then s.iss.pc else (s.me.s sa).toNat

/-- JMP (R137). -/
def execJmp (g : BitVec 3) (sa : BitVec 6) (off : BitVec 30) (s : State) : Out :=
  slotDo g s (fun s => outsideLoop s (fun s => s.transfer (target64 (jumpBase s sa) off)))

/-- CALL: the link is PC + length at t + 1 (R137, R208). -/
def execCall (g : BitVec 3) (sd sa : BitVec 6) (off : BitVec 30) (s : State) : Out :=
  slotDo g s (fun s => outsideLoop s (fun s =>
    (s.transfer (target64 (jumpBase s sa) off)).deferS 1 sd (BitVec.ofNat 64 (s.iss.pc + s.iss.len))))

/-- RET (R137). -/
def execRet (g : BitVec 3) (sa : BitVec 6) (s : State) : Out :=
  slotDo g s (fun s => outsideLoop s (fun s => s.transfer (s.me.s sa).toNat))

/-! ### Loops (R125, R126) -/

/-- STAGE at the start of iteration k: Pj ← 1 if j − 1 ≤ k ≤ j + N − 2 (R125). -/
def stageAt (cnt k : Nat) : BitVec 8 :=
  BitVec.ofNat 8 ((List.range 8).foldl (fun a j => if 1 ≤ j ∧ j ≤ k + 1 ∧ k + 2 ≤ j + cnt then a + 2 ^ j else a) 0)

/-- The loop record of LOOP with count N and stage count s: I = N + s − 1 iterations, none with N = 0 (R125). -/
def loopStart (pc n stg : Nat) (rot : Bool) : LoopRec :=
  { start := pc, total := if n = 0 then 0 else n + stg - 1, cnt := n, stg := stg, rot := rot, iter := 0, met := 0,
    skip := n == 0, buf := [] }

/-- LOOPC.LEFT: iterations left, the current one included (R122, R125). -/
def Ctx.left (c : Ctx) : Nat :=
  match c.loop with
  | some l => l.total - l.iter
  | none => 0

/-- LOOP (R125, R138): the body starts at the next bundle; a register count above 2^32 − 1 takes the loop trap, cause
0x04 (R127). -/
def execLoop (g : BitVec 3) (rot : Bool) (stg : BitVec 3) (cnt : XSrc) (s : State) : Out :=
  slotDo g s (fun s => outsideLoop s (fun s =>
    let n := (s.me.xsrcZ cnt).toNat
    if 2 ^ 32 ≤ n then s.trap 0x05 0x04 0 0
    else
      let l := loopStart (s.iss.pc + s.iss.len) n stg.toNat rot
      let c := { s.me with loop := some l }
      s.setMe (if n = 0 then c else { c with stage := stageAt n 0 })))

/-- The end of a body's STOP bundle (R125, R126): VROT advances in a `.R` loop, and the next iteration starts or the
loop ends. `next` is the address after the STOP bundle. -/
def Ctx.loopStop (c : Ctx) (l : LoopRec) (next : Nat) : Ctx :=
  let c := { c with vrot := if l.rot then (c.vrot + 1) % 1024 else c.vrot }
  if l.iter + 1 < l.total then
    let l' := { l with iter := l.iter + 1, met := 0 }
    { c with loop := some l', stage := stageAt l.cnt (l.iter + 1), pc := l.start }
  else { c with loop := none, stage := 0xFE, pc := next }

/-! ### Work items (R128, R139) -/

/-- Bits below field k: w0 + … + w(k−1). -/
def fieldBase (work : List (Nat × Nat)) (k : Nat) : Nat := ((work.take k).map Prod.fst).foldl (· + ·) 0

/-- WidOf(p), fields in walk order (R128). -/
def widOf (work : List (Nat × Nat)) : List Nat → Nat → Nat → Nat
  | [], _, wid => wid
  | k :: rest, x, wid =>
    let e := ((work[k]?).getD (1, 1)).2
    widOf work rest (x / e) (wid + x % e * 2 ^ fieldBase work k)

/-- WNEXT, advancing (R139). -/
def execWnext (g : BitVec 3) (sd : BitVec 6) (s : State) : Out :=
  slotDo g s (fun s =>
    let c := s.me
    let k := s.kernel c.kernel
    if c.next < c.rangeHi then
      ((s.setMe { c with next := c.next + 1 }).deferS 1 sd 1).defer 1
        (.wid (BitVec.ofNat 64 (widOf k.work k.nest c.next 0))) 0
    else s.deferS 1 sd 0)

/-- WNEXT, reading field k of WID; 0 where the field is not declared (R139). -/
def execWnextField (g : BitVec 3) (sd : BitVec 6) (k : BitVec 3) (s : State) : Out :=
  slotDo g s (fun s =>
    let w := (s.kernel s.me.kernel).work
    match w[k.toNat]? with
    | some f => s.deferS 1 sd (BitVec.ofNat 64 (s.me.wid.toNat / 2 ^ fieldBase w k.toNat % 2 ^ f.1))
    | none => s.deferS 1 sd 0)

end Sys2Proof.Machine
end

