-- ==== Sys2Proof/Machine/SysReg.lean ====
section
/-! DEFINITION. Control registers (R121, R122, R141), shape registers (R142, R182, R254, R305) and tensor-table entries
(R143): MFC, MTC, SHW, TDW, TDR. Their writes land at the end of the issue cycle (R208); `applyEnd` performs them. -/

namespace Sys2Proof.Machine

/-- SPTOP (R221). -/
def Spoil.sptop (p : Spoil) : Word := BitVec.ofNat 64 (p.spill * 2 ^ 36 + p.frames * 2 ^ 20 + p.depth)

/-- L, the length of the spill area in bytes (R221). -/
def Spoil.area (p : Spoil) : Nat := 512 * (p.lim - p.base)

/-- An exposure register as a word (R385). -/
def Expo.word (e : Expo) : Word :=
  BitVec.ofNat 64 (e.limit * 2 ^ 48 + e.count * 2 ^ 32 + (e.lsexp % 256).toNat * 2 ^ 24 +
    (if e.skip then 4 else 0) + (if e.nan then 2 else 0) + (if e.ovf then 1 else 0))

/-- LSEXP of the context's kernel, sign-extended; 0 where no register is bound (R121, R385). -/
def State.lsexpOf (s : State) (c : Ctx) : Word :=
  match (s.kernel c.kernel).expo with
  | some k => BitVec.ofInt 64 (mget {} s.expos k).lsexp
  | none => 0

/-- A control register as MFC reads it (R121, R141): its value at the end of the previous cycle, and the bundle's own
address for PC. -/
def State.creg (s : State) (crn : BitVec 4) : Word :=
  let c := s.me
  match crn.toNat with
  | 0 => BitVec.ofNat 64 s.iss.pc
  | 1 => c.fpcr.setWidth 64
  | 2 => c.fpstat.setWidth 64
  | 3 => c.seed
  | 4 => c.srctr
  | 5 => c.stage.setWidth 64
  | 6 => BitVec.ofNat 64 c.left
  | 7 => BitVec.ofNat 64 c.vrot
  | 8 => c.tagSet
  | 9 => c.sp.sptop
  | 10 => BitVec.ofNat 64 (c.sp.bank * 2 ^ 18 + c.sp.base * 2 ^ 9)
  | 11 => BitVec.ofNat 64 (c.sp.lim * 2 ^ 9)
  | 12 => c.wid
  | 13 => c.mstat
  | 14 => s.lsexpOf c
  | _ => BitVec.ofNat 64 (s.cycle - c.born)

/-- MFC (R141). -/
def execMfc (g : BitVec 3) (sd : BitVec 6) (crn : BitVec 4) (s : State) : Out :=
  slotDo g s (fun s => s.deferS 1 sd (s.creg crn))

/-- BASE field of a word written to SPBASE (R221). -/
def spBaseField (v : Word) : Nat := v.toNat / 2 ^ 9 % 2 ^ 9

/-- LIM field of a word written to SPLIM, stored as it is above 512 too (R221; DESIGN CHOICE, log 49). -/
def spLimField (v : Word) : Nat := v.toNat / 2 ^ 9 % 2 ^ 10

/-- An MTC to SPBASE or SPLIM is refused: DEPTH is not 0, or the area would end before it starts (R222). A kernel without `.spoil`
may write them, and its area then lies in bank 0 (DESIGN CHOICE, log 55). -/
def spRefused (p : Spoil) (crn : Nat) (v : Word) : Bool :=
  p.depth != 0 || (if crn = 10 then decide (p.lim < spBaseField v) else decide (spLimField v < p.base))

/-- MTC (R141): STAGE and VROT in a loop body take the loop trap, cause 0x03 (R127); a refused spoil register takes the
spoil-overflow trap, cause 0x02 (R222). -/
def execMtc (g : BitVec 3) (crn : BitVec 4) (sa : BitVec 6) (s : State) : Out :=
  slotDo g s (fun s =>
    let v := s.me.s sa
    if (crn = 5 ∨ crn = 7) ∧ s.me.loop.isSome then s.trap 0x05 0x03 0 0
    else if (crn = 10 ∨ crn = 11) ∧ spRefused s.me.sp crn.toNat v then s.trap 0x07 0x02 s.iss.depth0 0
    else s.atEnd (.mtc crn.toNat v))

/-- What an MTC writes (R72, R73, R122, R221, R283). -/
def Ctx.writeCreg (c : Ctx) (crn : Nat) (v : Word) : Ctx :=
  match crn with
  | 1 => { c with fpcr := v.setWidth 5 }
  | 2 => { c with fpstat := v.setWidth 7 }
  | 3 => { c with seed := v }
  | 4 => { c with srctr := v }
  | 5 => { c with stage := v.setWidth 8 &&& 0xFE#8 }
  | 7 => { c with vrot := v.toNat % 1024 }
  | 10 => { c with sp := { c.sp with base := spBaseField v } }
  | 11 => { c with sp := { c.sp with lim := spLimField v } }
  | 13 => { c with mstat := v &&& 0xFFFFE3FFFFFFF8F3#64 }
  | _ => c

/-! ### Shape registers -/

/-- Position and width of a field: class 0 LH, 1 WH (R182), 2 CH (R305), 3 MH (R254). -/
def shapeField (cls fld : Nat) : Option (Nat × Nat) :=
  match cls, fld with
  | 0, 0 => some (0, 13)
  | 0, 1 => some (13, 2)
  | 0, 2 => some (15, 12)
  | 1, 0 => some (0, 13)
  | 1, 2 => some (15, 12)
  | 2, 0 => some (52, 12)
  | 2, 1 => some (39, 13)
  | 2, 2 => some (14, 25)
  | 2, 3 => some (0, 12)
  | 2, 4 => some (12, 2)
  | 3, 0 => some (0, 16)
  | 3, 1 => some (16, 16)
  | 3, 2 => some (32, 16)
  | 3, 3 => some (48, 16)
  | _, _ => none

/-- A word with one field replaced. -/
def putField (w : Word) (lo n : Nat) (v : Nat) : Word :=
  BitVec.ofNat 64 (w.toNat - w.toNat / 2 ^ lo % 2 ^ n * 2 ^ lo + v % 2 ^ n * 2 ^ lo)

/-- SHW: the write lands on the shadow copy at the end of the cycle (R142); a field the class does not define takes
cause 0x07. -/
def execShw (g : BitVec 3) (cls n : BitVec 2) (fld : BitVec 6) (v : XSrc) (s : State) : Out :=
  slotDo g s (fun s =>
    match shapeField cls.toNat fld.toNat with
    | some _ => s.atEnd (.shw (shapeKey cls.toNat n.toNat true) fld.toNat (s.me.xsrcZ v))
    | none => s.trap 0x01 0x07 0 0)

/-- What an SHW writes: `key` names class, number and copy. -/
def Ctx.writeShape (c : Ctx) (key fld : Nat) (v : Word) : Ctx :=
  match shapeField (key / 8) fld with
  | some (lo, n) => { c with shape := mset 0 c.shape key (putField (mget 0 c.shape key) lo n v.toNat) }
  | none => c

/-! ### Tensor-table entries (R143) -/

/-- A LOC or SCALE value leaves no unused bit of its KIND nonzero (R143). -/
def locOk (kind : Nat) (v : Word) : Bool :=
  match kind with
  | 0 | 1 => decide (v.toNat < 2 ^ 22)
  | 2 => decide (v.toNat < 2 ^ 28)
  | _ => true

/-- A TDW value lies in its field's range (R143). -/
def tdwOk (e : TEntry) (fld : Nat) (v : Word) : Bool :=
  match fld with
  | 0 => decide (v.toNat ≤ 14)
  | 1 => decide (1 ≤ v.toNat ∧ v.toNat ≤ 4)
  | 2 => decide (v.toNat ≤ 3)
  | 3 => decide (v.toNat ≤ 1)
  | 4 => decide (-128 ≤ v.toInt ∧ v.toInt ≤ 127)
  | 5 => decide (v.toNat ≤ 4)
  | 6 | 7 => locOk e.kind v
  | 8 | 9 | 10 | 11 => decide (v.toNat < 2 ^ 32)
  | 12 | 13 | 14 | 15 => decide (-(2 ^ 47 : Int) ≤ v.toInt ∧ v.toInt < 2 ^ 47)
  | _ => false

/-- The entry with a field written. -/
def TEntry.write (e : TEntry) (fld : Nat) (v : Word) : TEntry :=
  match fld with
  | 0 => { e with fmt := (ETy.ofCode v.toNat).getD e.fmt }
  | 1 => { e with rank := v.toNat }
  | 2 => { e with kd := v.toNat }
  | 3 => { e with mx := v.toNat == 1 }
  | 4 => { e with bias := v.toInt }
  | 5 => { e with kind := v.toNat }
  | 6 => { e with loc := v }
  | 7 => { e with scale := v }
  | 8 | 9 | 10 | 11 => { e with ext := e.ext.set (fld - 8) v.toNat }
  | 12 | 13 | 14 | 15 => { e with str := e.str.set (fld - 12) v.toInt }
  | _ => e

/-- The header word an entry implies (R70, R143); an entry of RANK 0 shows 3 in the field (DESIGN CHOICE, log 50). -/
def TEntry.header (e : TEntry) : Nat :=
  2 ^ 24 + (if e.mx then 2 ^ 16 else 0) + (e.bias % 256).toNat * 2 ^ 8 + e.kd % 4 * 2 ^ 6 + (e.rank + 3) % 4 * 2 ^ 4 +
    e.fmt.code

/-- A field as TDR reads it (R143). -/
def TEntry.read (e : TEntry) (fld : Nat) : Word :=
  match fld with
  | 0 => BitVec.ofNat 64 e.fmt.code
  | 1 => BitVec.ofNat 64 e.rank
  | 2 => BitVec.ofNat 64 e.kd
  | 3 => if e.mx then 1 else 0
  | 4 => BitVec.ofInt 64 e.bias
  | 5 => BitVec.ofNat 64 e.kind
  | 6 => e.loc
  | 7 => e.scale
  | 8 | 9 | 10 | 11 => BitVec.ofNat 64 ((e.ext[fld - 8]?).getD 0)
  | 12 | 13 | 14 | 15 => BitVec.ofInt 64 ((e.str[fld - 12]?).getD 0)
  | _ => BitVec.ofNat 64 e.header

/-- R70 accepts a header word: reserved bits zero, HVER 0x01, KD below the rank, a type code. -/
def headerOk (h : Nat) : Bool :=
  decide (h / 2 ^ 32 = 0) && decide (h / 2 ^ 24 % 256 = 1) && decide (h / 2 ^ 17 % 128 = 0) &&
  decide (h / 2 ^ 6 % 4 < h / 2 ^ 4 % 4 + 1) && decide (h % 16 ≠ 15)

/-- FMT, RANK, KD, MX and BIAS from a header word (R70, R143). -/
def TEntry.fromHeader (e : TEntry) (h : Nat) : TEntry :=
  { e with
    fmt := (ETy.ofCode (h % 16)).getD e.fmt, rank := h / 2 ^ 4 % 4 + 1, kd := h / 2 ^ 6 % 4
    mx := h / 2 ^ 16 % 2 == 1, bias := (BitVec.ofNat 8 (h / 2 ^ 8)).toInt }

/-! ### Locked windows (R175, R176) -/

/-- Entry `w` translates address `a` with the right in bit `rb` of word 0 (0 X, 1 R). -/
def windowHit (rb a : Nat) (w : Word × Word) : Bool :=
  let size := w.2.toNat % 2048
  decide (size ≠ 0) && w.1.toNat.testBit rb &&
  decide (w.1.toNat / 2 ^ 21 ≤ a / 2 ^ 21 ∧ a / 2 ^ 21 < w.1.toNat / 2 ^ 21 + size)

/-- Physical address of `a` through the window table; none outside (R44, R176). -/
def windowPa (ws : List (Word × Word)) (rb a : Nat) : Option Nat :=
  match ws.find? (windowHit rb a) with
  | some w => some ((w.2.toNat / 2 ^ 21 + (a / 2 ^ 21 - w.1.toNat / 2 ^ 21)) * 2 ^ 21 + a % 2 ^ 21)
  | none => none

/-- TDW to HDR (R143): an address no R window translates or that is not a multiple of 8 takes the tensor-header trap
with cause 0x01, a header R70 refuses takes cause 0x02; otherwise the next bundle waits for the read. A header with FMT 15 is
one that R70 refuses and takes this trap, not the one of R22 (DESIGN CHOICE, log 52). -/
def State.tdwHdr (s : State) (tid : Nat) (v : Word) : State :=
  match windowPa (s.kernel s.me.kernel).windows 1 v.toNat with
  | none => s.trap 0x0C 0x01 0 v.toNat
  | some pa =>
    if v.toNat % 8 ≠ 0 then s.trap 0x0C 0x01 0 v.toNat
    else if headerOk (s.readPa pa 8) then
      (s.setMe { s.me with hdrRead := some (tid, v, s.cycle + s.free) }).draw
    else s.trap 0x0C 0x02 0 v.toNat

/-- TDW (R143). -/
def execTdw (g : BitVec 3) (tid fld : BitVec 6) (v : XSrc) (s : State) : Out :=
  slotDo g s (fun s =>
    let x := s.me.xsrc v
    if fld = 16 then s.tdwHdr tid.toNat x
    else if tdwOk (s.me.te tid.toNat) fld.toNat x then s.atEnd (.tdw tid.toNat fld.toNat x)
    else s.trap 0x01 0x07 0 0)

/-- TDR (R143). -/
def execTdr (g : BitVec 3) (sd tid fld : BitVec 6) (_immForm : Bool) (s : State) : Out :=
  slotDo g s (fun s =>
    if 16 < fld.toNat then s.trap 0x01 0x07 0 0
    else s.deferS 1 sd ((s.me.te tid.toNat).read fld.toNat))

/-- The header word at an address is one R70 accepts. -/
def State.headerAt (s : State) (u : Nat) (a : BitVec 64) : Bool :=
  match windowPa (s.kernel (s.ctx u).kernel).windows 1 a.toNat with
  | some pa => headerOk (s.readPa pa 8)
  | none => false

/-- A FENCE or a header read is pending: a freeze and the trap of a routine fault wait for it (R211, R268). -/
def Ctx.finishing (c : Ctx) : Bool := c.hdrRead.isSome || (match c.pend with | .fence .. => true | _ => false)

/-- TDW_HEADER_READ of a context: once the read has arrived, the entry takes the header's fields and the wait ends. A
header that has become one R70 refuses leaves the entry and takes the tensor-header trap at the next bundle (log 15). -/
def execTdwHeaderRead (u : Nat) (s : State) : Out :=
  let c := s.ctx u
  match c.hdrRead with
  | some (tid, a, _) =>
    match windowPa (s.kernel c.kernel).windows 1 a.toNat with
    | none => .next s
    | some pa =>
      let h := s.readPa pa 8
      if headerOk h then
        .next (s.setCtx u { c with t := mset {} c.t tid ((c.te tid).fromHeader h), hdrRead := none, pre := c.pre.later s.cycle })
      else
        .next ((s.setCtx u { c with hdrRead := none }).takeTrap u
          { code := 0x0C, cause := 0x02, slot := 0, addr := a.toNat } c.pc c.pc)
  | none => .next s

/-! ### End-of-cycle writes (R74, R208, R283) -/

/-- MSTAT after END's report: every field but SAT and OVF, which are ORed (R283). -/
def mstatReport (old fields : Word) (sat ovf : Bool) : Word :=
  fields ||| (old &&& 3#64) ||| (if sat then 1 else 0) ||| (if ovf then 2 else 0)

/-- MSTAT after a fault: FCAUSE and FWORD (R268, R283). -/
def mstatFault (old : Word) (cause word : Nat) : Word :=
  putField (putField old 56 8 cause) 45 11 word

/-- QADV's advance (R198). -/
def QHandle.advance (h : QHandle) (tail : Bool) (k : Nat) : QHandle :=
  if tail then { h with tail := (h.tail + k) % h.count, fill := h.fill + k }
  else { h with head := (h.head + k) % h.count, fill := h.fill - k }

/-- One write at the end of the cycle. -/
def Ctx.applyEnd (c : Ctx) : EndWrite → Ctx
  | .mtc crn v => c.writeCreg crn v
  | .shw key fld v => c.writeShape key fld v
  | .tdw tid fld v => { c with t := mset {} c.t tid ((c.te tid).write fld v) }
  | .lend k on =>
    { c with lent := if on then c.lent ||| BitVec.ofNat 16 (2 ^ k) else c.lent &&& ~~~(BitVec.ofNat 16 (2 ^ k)) }
  | .yield => { c with yielded := true }
  | .qadv q tail k => c.setQh q ((c.qh q).advance tail k)
  | .bias tid v => { c with t := mset {} c.t tid { c.te tid with bias := v } }
  | .report f sat ovf => { c with mstat := mstatReport c.mstat f sat ovf }
  | .fault cause word => { c with mstat := mstatFault c.mstat cause word }
  | .sat => { c with mstat := c.mstat ||| 1 }
  | .flags f => { c with fpstat := c.fpstat ||| f }

end Sys2Proof.Machine
end

