-- ==== Sys2Proof/Machine/Spoil.lean ====
section
/-! DEFINITION. The spoil stack (R219 to R230): pushing, popping and dropping frames, SPMARK, SPDROP and SPDEPTH (R242
to R244). Bytes of the on-core top are one little-endian number whose byte 0 is stack position SPILL. -/

namespace Sys2Proof.Machine

/-- Capacity C = 65,536 + L (R219). -/
def Spoil.capacity (p : Spoil) : Nat := 65536 + p.area

/-- Bytes of the top. -/
def Spoil.held (p : Spoil) : Nat := p.depth - p.spill

/-- `n` bytes at stack position `pos` of the top. -/
def Spoil.peek (p : Spoil) (pos n : Nat) : Nat := p.top / 256 ^ (pos - p.spill) % 256 ^ n

/-- Put `n` bytes at a position of the top. -/
def Spoil.poke (p : Spoil) (pos n v : Nat) : Spoil :=
  { p with top := p.top - p.peek pos n * 256 ^ (pos - p.spill) + v % 256 ^ n * 256 ^ (pos - p.spill) }

/-- A check word (R227). -/
def checkWord (opc reg ty lanes aux name : Nat) : Nat :=
  opc * 2 ^ 56 + reg % 2 ^ 11 * 2 ^ 45 + ty * 2 ^ 41 + lanes * 2 ^ 30 + aux % 256 * 2 ^ 20 + name % 2 ^ 16

/-- An info word (R227). -/
def infoWord (esc below size : Nat) : Nat := esc * 2 ^ 32 + below % 2 ^ 16 * 2 ^ 16 + size % 2 ^ 16

/-- A frame (R226): payload of `p` bytes, escaped lanes with their bitmap and image, check word. -/
structure Frame where
  plen   : Nat
  pay    : Nat
  esc    : Nat
  bitmap : Nat
  image  : Nat
  check  : Nat
  below  : Nat
deriving DecidableEq, Repr

/-- Length of the escape image: that of the payload, or 512 (R226). -/
def imageLen (plen : Nat) : Nat := if plen = 0 then 512 else plen

/-- Size of a frame without and with escapes (R226). -/
def frameSize (plen esc : Nat) : Nat := plen + 16 + (if esc = 0 then 0 else 128 + imageLen plen)

def Frame.size (f : Frame) : Nat := frameSize f.plen f.esc

/-- Maximum size of a frame with payload `plen`; a marker never escapes (R226). -/
def frameMax (plen : Nat) : Nat := plen + 16 + 128 + imageLen plen

/-- Payload, bitmap and image as they stand below the check word. -/
def Frame.body (f : Frame) : Nat :=
  f.pay % 256 ^ f.plen + (if f.esc = 0 then 0 else f.bitmap % 256 ^ 128 * 256 ^ f.plen +
    f.image % 256 ^ imageLen f.plen * 256 ^ (f.plen + 128))

/-- Push without the capacity check: check and info words now, the body in cycle `due` (R228). -/
def Spoil.push (p : Spoil) (f : Frame) (due : Nat) : Spoil :=
  let sz := f.size
  let q := (p.poke (p.depth + sz - 16) 8 f.check).poke (p.depth + sz - 8) 8 (infoWord f.esc f.below sz)
  { q with depth := p.depth + sz, frames := p.frames + 1,
           pay := if sz = 16 then q.pay else q.pay ++ [⟨p.depth, sz - 16, f.body, due⟩] }

/-- A push may not yet issue: the top lacks room for the bundle's frames at their largest, and spilling can make it
(R224). -/
def pushWaits (p : Spoil) (depth0 need : Nat) : Bool :=
  decide (65536 - (depth0 - p.spill) < need) && decide (p.spill < p.area)

/-- SpoilPush of the running slot, or its wait, or its overflow trap (R224, R229, R230). `mx` is the frame's maximum
size, `lat` the latency of the forward instruction. -/
def State.spoilPush (s : State) (f : Frame) (mx lat : Nat) (act : State → State) : State :=
  let c := s.me
  let need := s.iss.pushMax + mx
  if pushWaits c.sp s.iss.depth0 need then s.block
  else if c.sp.capacity < c.sp.depth + f.size then s.trap 0x07 0x01 s.iss.depth0 0
  else
    let s' := s.setMe { c with sp := c.sp.push f (s.cycle + lat) }
    act { s' with iss := { s'.iss with pushMax := need } }

/-- What a pop finds: it must wait, it traps with a code and cause, or the frame with the stack after it. -/
inductive PopResult where
  | wait
  | bad (code cause : Nat)
  | frame (f : Frame) (rest : Spoil)
deriving DecidableEq, Repr

/-- The stack with everything from position `d` up gone. -/
def Spoil.cut (p : Spoil) (d frames : Nat) : Spoil :=
  { p with depth := d, frames := frames, spill := min p.spill d, top := p.top % 256 ^ (d - min p.spill d)
           pay := p.pay.filter (fun x => decide (x.pos < d)) }

/-- A frame read from the top: payload, bitmap and image at position `pos`. -/
def Spoil.readFrame (p : Spoil) (pos plen esc check below : Nat) : Frame :=
  { plen := plen, pay := p.peek pos plen, esc := esc
    bitmap := if esc = 0 then 0 else p.peek (pos + plen) 128
    image := if esc = 0 then 0 else p.peek (pos + plen + 128) (imageLen plen)
    check := check, below := below }

/-- SpoilPop(cw) for a forward whose payload is `plen` bytes (R224, R229). A frame whose bytes are not all in the top, or
whose payload is in flight, is waited for before its words are judged (DEDUCED, log entry 25). -/
def Spoil.pop (p : Spoil) (cw plen : Nat) : PopResult :=
  if p.frames = 0 then .bad 0x08 0x01
  else if p.depth < p.spill + 16 then .wait
  else
    let info := p.peek (p.depth - 8) 8
    let esc := info / 2 ^ 32 % 2 ^ 16
    let size := info % 2 ^ 16
    if size < 16 ∨ size % 16 ≠ 0 ∨ p.depth < size then .bad 0x09 0x01
    else if p.depth - size < p.spill ∨ p.pay.any (fun x => decide (p.depth - size ≤ x.pos)) then .wait
    else if p.peek (p.depth - 16) 8 ≠ cw then .bad 0x09 0x01
    else if size ≠ frameSize plen esc ∨ info / 2 ^ 48 ≠ 0 ∨ info / 2 ^ 16 % 2 ^ 16 ≠ 0 then .bad 0x09 0x01
    else .frame (p.readFrame (p.depth - size) plen esc cw (info / 2 ^ 16 % 2 ^ 16)) (p.cut (p.depth - size) (p.frames - 1))

/-- SpoilPop of the running slot (R229); a VB undo of its own bundle's VA frame takes LIFO cause 0x02 (R228). -/
def State.spoilPop (s : State) (cw plen : Nat) (act : Frame → State → State) : State :=
  let c := s.me
  if s.iss.vaPush ∧ s.iss.slot = 2 then s.trap 0x09 0x02 s.iss.depth0 0
  else
    match c.sp.pop cw plen with
    | .wait => s.block
    | .bad code cause => s.trap code cause s.iss.depth0 0
    | .frame f rest => act f (s.setMe { c with sp := rest })

/-- A marker frame (R242). -/
def markerFrame (name below : Nat) : Frame :=
  { plen := 0, pay := 0, esc := 0, bitmap := 0, image := 0, check := checkWord 0x01 0 0 0 0 name, below := below }

/-- SPMARK (R242). -/
def execSpmark (g : BitVec 3) (sd : BitVec 6) (name : XSrc) (s : State) : Out :=
  slotDo g s (fun s =>
    let c := s.me
    s.spoilPush (markerFrame (c.xsrcZ name).toNat c.sp.frames) 16 0 (fun t =>
      t.deferS 1 sd (BitVec.ofNat 64 c.sp.depth)))

/-- The 16 bytes at `d` are a well-formed marker of a name (R243). -/
def Spoil.markerAt (p : Spoil) (d name : Nat) : Bool :=
  let info := p.peek (d + 8) 8
  p.peek d 8 == checkWord 0x01 0 0 0 0 name && info / 2 ^ 32 == 0 && info % 2 ^ 16 == 16 &&
  decide (info / 2 ^ 16 % 2 ^ 16 < p.frames)

/-- SPDROP (R243). It waits for a marker in the spill area, though no refill comes while the top holds 16,384 bytes (R224; DESIGN
CHOICE, log 49). -/
def execSpdrop (g : BitVec 3) (sa : BitVec 6) (name : XSrc) (s : State) : Out :=
  slotDo g s (fun s =>
    let c := s.me
    let d := (c.s sa).toNat
    if c.sp.depth < d then s.trap 0x08 0x02 s.iss.depth0 0
    else if c.sp.depth < d + 16 then s.trap 0x09 0x03 s.iss.depth0 0
    else if d < c.sp.spill ∨ c.sp.pay.any (fun x => decide (d ≤ x.pos)) then s.block
    else if !(c.sp.markerAt d ((c.xsrcZ name).toNat % 2 ^ 16)) then s.trap 0x09 0x03 s.iss.depth0 0
    else s.setMe { c with sp := c.sp.cut d (c.sp.peek (d + 8) 8 / 2 ^ 16 % 2 ^ 16) })

/-- SPDEPTH: SPTOP[35:0], FRAMES and DEPTH (R244). -/
def execSpdepth (g : BitVec 3) (sd : BitVec 6) (s : State) : Out :=
  slotDo g s (fun s => s.deferS 1 sd (BitVec.ofNat 64 (s.me.sp.frames * 2 ^ 20 + s.me.sp.depth)))

/-- The payloads due in a cycle are written into the top (R228, R245). -/
def Spoil.land (p : Spoil) (now : Nat) : Spoil :=
  let due := p.pay.filter (fun x => decide (x.due ≤ now))
  let q := due.foldl (fun p x => p.poke x.pos x.len x.val) p
  { q with pay := p.pay.filter (fun x => decide (now < x.due)) }

end Sys2Proof.Machine
end

