-- ==== Sys2Proof/Machine/Operands.lean ====
section
/-! DEFINITION. Operands of the V, L, S and C slots: lanes (R20, R21), masks (R26, R148), register groups (R147), the
forwarding latch as a source (R149, R262), lent banks (R273), and scratchpad addresses (R54, R181, R187 to R189). -/

namespace Sys2Proof

/-- Logical register numbers of the sources that are registers (R53). -/
def VF.regA (f : VF) : List Nat := if f.fls = .first then [] else [f.opa.toNat]
def VF.regB (f : VF) : List Nat := if f.fls = .second then [] else [f.opb.toNat]

/-- OPX[0], SAT (R146). -/
def VF.sat (f : VF) : Bool := f.opx.getLsbD 0

/-- OPX[1], IMM: the count is an immediate (R153). -/
def VF.immCount (f : VF) : Bool := f.opx.getLsbD 1

/-- Registers a shift names. -/
def VF.shiftRegs (f : VF) : List Nat := [f.opd.toNat] ++ f.regA ++ (if f.immCount then [] else f.regB)

/-- The type of twice the width, signed as `t` (R154). -/
def ETy.twice : ETy → ETy
  | .i4 => .i8 | .n4 => .n8 | .i8 => .i16 | .n8 => .n16 | .i16 => .i32 | .n16 => .n32 | t => t

end Sys2Proof

namespace Sys2Proof.Machine

/-! ### Lanes -/

/-- Bits of lane `i` of width `w` (R20, R21). -/
def laneAt (w v i : Nat) : Nat := v / 2 ^ (w * i) % 2 ^ w

/-- Pack lanes, lane 0 lowest. -/
def packLanes (w : Nat) : List Nat → Nat
  | [] => 0
  | x :: l => x % 2 ^ w + 2 ^ w * packLanes w l

/-- A lane's result: whether it is written, its bits, its flags. -/
structure LaneRes where
  on    : Bool
  bits  : Nat
  flags : Flags
deriving DecidableEq, Repr

/-- Results of lanes 0 to n − 1: inactive lanes are not written and raise no flag (R26). -/
def laneResults (n : Nat) (act : Nat → Bool) (f : Nat → Nat × Flags) : List LaneRes :=
  (List.range n).map (fun i => if act i then ⟨true, (f i).1, (f i).2⟩ else ⟨false, 0, 0⟩)

/-- The register value, the mask of the bits written, and the flags of a list of lane results. -/
def lanesVal (w : Nat) (l : List LaneRes) : BitVec 4096 := BitVec.ofNat 4096 (packLanes w (l.map (fun r => r.bits)))
def lanesMask (w : Nat) (l : List LaneRes) : BitVec 4096 :=
  BitVec.ofNat 4096 (packLanes w (l.map (fun r => if r.on then 2 ^ w - 1 else 0)))
def lanesFlags (l : List LaneRes) : Flags := l.foldl (fun f r => f ||| r.flags) 0

/-- Lane `i` is active under a mask register's value (R26). -/
def laneOn (m : MReg) (i : Nat) : Bool := m.getLsbD i

/-! ### V-slot sources -/

/-- FL as a V slot of the running context reads it in this cycle: +0 everywhere unless an EMIT of its own routine acts
now (R262). -/
def State.flNow (s : State) : VReg :=
  match (s.core s.me.core).fl with
  | some (c, u, v) => if c = s.cycle ∧ u = s.cur then v else 0
  | none => 0

/-- First source of a V slot: FL with FLS 1, else OPA (R53). -/
def State.srcA (s : State) (f : VF) : VReg := if f.fls = .first then s.flNow else s.me.vr f.opa.toNat

/-- Second source of a V slot: FL with FLS 2, else OPB (R53). -/
def State.srcB (s : State) (f : VF) : VReg := if f.fls = .second then s.flNow else s.me.vr f.opb.toNat

/-- Registers n to n + r − 1 of a group (R147). -/
def regGroup (n : BitVec 11) (r : Nat) : List Nat := (List.range r).map (fun k => n.toNat + k)

/-- Bank of a physical register (R273). -/
def bankOfReg (p : Nat) : Nat := p / 128

/-- The first lent bank among the registers named (R273, cause 0x02). -/
def lentHit (c : Ctx) (regs : List Nat) : Option Nat :=
  ((regs.map (fun n => bankOfReg (physV c.vrot n))).find? (fun b => c.lent.getLsbD b))

/-- A slot that names V registers: a register of a lent bank takes the bank-lending trap, cause 0x02 (R149, R273). -/
def State.withRegs (s : State) (regs : List Nat) (act : State → State) : State :=
  match lentHit s.me regs with
  | some b => s.trap 0x06 0x02 b 0
  | none => act s

/-- A V slot: guard, lent banks, then its action (R48, R149). -/
def vSlot (f : VF) (regs : List Nat) (s : State) (act : State → State) : Out :=
  slotDo f.g s (fun s => s.withRegs regs act)

/-- Modes an operation captures at issue (R75), and the counter's advance for an SR operation (R82). -/
def State.modes (s : State) (ro : BitVec 2) : Modes := captureModes s.me.fpcr ro s.me.seed s.me.srctr
def State.srTick (s : State) (ro : BitVec 2) : State :=
  if ro = 3 then s.setMe { s.me with srctr := s.me.srctr + 1 } else s

/-- A V-register result of lanes of type `t`. -/
def State.deferV (s : State) (lat : Nat) (d : Nat) (t : ETy) (l : List LaneRes) : State :=
  s.defer lat (.v (physV s.me.vrot d) (lanesVal t.width l) (lanesMask t.width l) t) (lanesFlags l)

/-- A V slot whose result is, in each active lane of the destination type, a function of the lane index (R26). -/
def vLanes (lat : Nat) (f : VF) (regs : List Nat) (s : State) (fn : State → Nat → Nat × Flags) : Out :=
  vSlot f regs s (fun s =>
    let l := laneResults f.ty.lanes (laneOn (s.me.mask f.msk)) (fn s)
    (s.deferV lat f.opd.toNat f.ty l).srTick f.ro)

/-! ### Scratchpad operands (R54, R181) -/

/-- Which side of a ring a slot takes (R181). -/
inductive Side where
  | consumer | producer
deriving DecidableEq, Repr

/-- ORG of a load or store shape register (R182); copy commands have none. -/
def shapeOrg (v : Word) : Nat := v.toNat / 2 ^ 15 % 2 ^ 12
/-- SEG of a load shape register. -/
def shapeSeg (v : Word) : Nat := v.toNat / 2 ^ 13 % 4
/-- PITCH of a load or store shape register. -/
def shapePitch (v : Word) : Nat := v.toNat % 2 ^ 13

/-- BANK of an address register (R123). -/
def aBank (v : AReg) : Nat := v.toNat / 2 ^ 18 % 16

/-- The register after a post-increment: OFFSET + 64·STEP (R123). -/
def aIncremented (v : AReg) : AReg :=
  aWithOffset v (((aOffset v : Int) + 64 * (BitVec.ofNat 10 (v.toNat / 2 ^ 22)).toInt) % (2 ^ 18 : Nat)).toNat

/-- EffAddr(SPA, sh, align) with ORG in units of 64 bytes (R181): bank and offset. -/
def effAddr (c : Ctx) (side : Side) (spa : Spa) (org align : Nat) : Nat × Nat :=
  let p := match spa with
    | .bank b au an _ off =>
      ((b.toNat + (if au then aBank (c.a an) else 0)) % 16, 8 * off.toNat + (if au then aOffset (c.a an) else 0))
    | .queue q k _ =>
      let h := c.qh q.toNat
      let sl := (if side = Side.consumer then h.head else h.tail) + k.toNat
      (h.bank, 64 * h.base + 64 * h.size * (sl % h.count))
  let off := (p.2 + 64 * org) % 2 ^ 18
  (p.1, off - off % align)

/-- The handle of a queue-form operand has the slots it names: K and WAIT at most COUNT, COUNT not 0 (R54, R187). -/
def handleOk (c : Ctx) : Spa → Bool
  | .bank .. => true
  | .queue q k wt =>
    let h := c.qh q.toNat
    decide (h.count ≠ 0 ∧ k.toNat ≤ h.count ∧ wt.toNat ≤ h.count)

/-- The wait of a queue-form operand is met (R187). -/
def waitMet (c : Ctx) (side : Side) : Spa → Bool
  | .bank .. => true
  | .queue q _ wt =>
    let h := c.qh q.toNat
    if side = Side.consumer then decide (wt.toNat ≤ h.fill) else decide (wt.toNat ≤ h.count - h.fill)

/-- Q12 to Q15, declared, are inbound handles: PUTQ can feed them (R289). -/
def inbound (c : Ctx) (q : Nat) : Bool := decide (12 ≤ q) && decide ((c.qh q).count ≠ 0)

/-- A PUTQ delivery could meet the wait (R188). -/
def waitCanEnd (c : Ctx) (side : Side) : Spa → Bool
  | .bank .. => false
  | .queue q _ _ => side == .consumer && inbound c q.toNat

/-- The post-increment of An, written at t + 1 (R181, R208). -/
def State.spaInc (s : State) : Spa → State
  | .bank _ true an true _ => s.defer 1 (.a an (aIncremented (s.me.a an))) 0
  | _ => s

/-- Cause 0x09 where the handle has no such slot (R61); a wait that can still end blocks (R188); otherwise `run`,
which tests the bundle's run-time conditions and then `unmet`, the queue trap with cause 0x01 of a wait that can never
end (R189, R424). -/
def State.withQueue (s : State) (side : Side) (spa : Spa) (run : Bool → State → State) : State :=
  if !(handleOk s.me spa) then s.trap 0x01 0x09 0 0
  else if waitMet s.me side spa then run false s
  else if waitCanEnd s.me side spa then s.block
  else run true s

/-- The spoil bank declared by the context's kernel (R184, R220). -/
def State.spoilBank (s : State) : Option Nat := (s.kernel s.me.kernel).spoil

/-- Causes 0x02 and 0x03 of a bank conflict of a slot that accesses `bank` (R184). -/
def State.bankConflict (s : State) (bank : Nat) : Option Nat :=
  if (s.feedBanks s.me.core).contains bank then some 0x02
  else if s.spoilBank = some bank then some 0x03
  else none

/-! ### Publish and Acquire by a context (R104, R105) -/

/-- Publish(sc) by a context. -/
def State.publishCtx (s : State) (u : Nat) (sc : Scope) : State :=
  let c := s.ctx u
  match scopeLevel sc with
  | none => s
  | some _ =>
    let r := s.publish c.core sc c.view c.outbox
    r.1.setCtx u { c with view := r.2.1, outbox := r.2.2 }

/-- A bundle that publishes at a scope waits: a remote write that the Publish(SYS) covers is not yet delivered (R411, log 16). -/
def State.publishWaits (s : State) (sc : Scope) : Bool := sc == .sys && s.undelivered s.me.outbox

/-- Acquire(sc) by a context. -/
def State.acquireCtx (s : State) (u : Nat) (sc : Scope) : State :=
  let c := s.ctx u
  s.setCtx u { c with view := s.acquire c.core sc c.view }

end Sys2Proof.Machine
end

