-- ==== Sys2Proof/Machine/VecRed.lean ====
section
/-! DEFINITION. The partial-sum latches (R166 to R171): LatchAdd, LatchValue, VRCLR, VRED, VRDRN and LATCH_UPDATE. -/

namespace Sys2Proof.Machine

/-- Merge equal sizes at the top of STK (R167). `fuel` bounds the merges. -/
def mergeStk (free : Int) (prof : Nat) : Nat → List (PSum × Nat) × SumFlags → List (PSum × Nat) × SumFlags
  | k + 1, ((b, y) :: (a, x) :: l, fl) =>
    if x = y then
      let r := addP free prof a b
      mergeStk free prof k ((r.1, 2 * x) :: l, fl.or r.2)
    else ((b, y) :: (a, x) :: l, fl)
  | _, p => p

/-- LatchAdd (R167); the top of STK is the head of the list. -/
def latchAdd (free : Int) (l : Latch) (S : PSum) : Latch × SumFlags :=
  if l.prof = 4 then
    let r := mergeStk free l.prof (l.stk.length + 1) ((S, 1) :: l.stk, SumFlags.none)
    ({ l with stk := r.1, n := l.n + 1 }, r.2)
  else
    let p := if l.q = 0 then (S, SumFlags.none) else addP free l.prof l.pass S
    if l.q + 1 = 4 then
      let a := addP free l.prof l.acc p.1
      ({ l with acc := a.1, pass := p.1, q := 0, n := l.n + 1 }, p.2.or a.2)
    else ({ l with pass := p.1, q := l.q + 1, n := l.n + 1 }, p.2)

/-- Fold the lower entries of STK onto its top value, top to bottom (R167). -/
def stkValue (free : Int) (prof : Nat) (v : PSum × SumFlags) : List (PSum × Nat) → PSum × SumFlags
  | [] => v
  | (a, _) :: l =>
    let r := addP free prof a v.1
    stkValue free prof (r.1, v.2.or r.2) l

/-- LatchValue (R167). -/
def latchValue (free : Int) (l : Latch) : PSum × SumFlags :=
  if l.prof = 4 then
    match l.stk with
    | [] => (l.acc, SumFlags.none)
    | (v, _) :: rest =>
      let t := stkValue free l.prof (v, SumFlags.none) rest
      let r := addP free l.prof l.acc t.1
      (r.1, t.2.or r.2)
  else if 0 < l.q then addP free l.prof l.acc l.pass
  else (l.acc, SumFlags.none)

/-- The latch after a clear under a profile, with accumulator `acc`; Q ← 0 empties PASS (R169). -/
def clearedLatch (l : Latch) (prof : Nat) (acc : PSum) : Latch := { l with prof := prof, acc := acc, q := 0, n := 0, stk := [] }

/-- Latch number, OPX[1:0]. -/
def latchNo (f : VF) : Nat := f.opx.toNat % 4

/-- VRCLR: acts at issue (R168, R169). -/
def execVrclr (f : VF) (s : State) : Out :=
  vSlot f (if f.opx.getLsbD 2 then f.regA else []) s (fun s =>
    let prof := f.opx.toNat / 16
    let acc := if f.opx.getLsbD 2 then accOf prof (BitVec.ofNat 32 (laneAt 32 (s.srcA f).toNat 0)) else pZero prof
    s.setMe (s.me.setLatch (latchNo f) (clearedLatch (s.me.latch (latchNo f)) prof acc)))

/-- The values of the active lanes in lane order, squared exactly with SQ (R170); FZI does not reach them (DEDUCED, log 51). -/
def redValues (t : ETy) (sq : Bool) (m : MReg) (a : Nat) : List Ext :=
  ((List.range t.lanes).filter (laneOn m)).map (fun i =>
    let x := valOf t (laneAt t.width a i)
    if sq then (mulExt x x).1 else x)

/-- A V register of the context holds poisoned bytes (R399). -/
def State.vPoisoned (s : State) (n : Nat) : Bool :=
  let a := vregLoc s.cur (physV s.me.vrot n) / 64
  s.poison.any (fun p => decide (a ≤ p ∧ p < a + 8))

/-- VRED (R170): the chunk sum is formed at issue under the latch's profile and added at t + 6. A floating type into an
integer latch takes the profile-mismatch trap; after it a poisoned source takes the machine check (R399; DESIGN CHOICE, log 52). -/
def execVred (f : VF) (s : State) : Out :=
  vSlot f f.regA s (fun s =>
    let prof := (s.me.latch (latchNo f)).prof
    if profInt prof && !f.ty.isInt then s.trap 0x04 0x00 0 0
    else if f.regA.any s.vPoisoned then s.trap 0x0A 0x01 0 0
    else
      let p := redValues f.ty (f.opx.getLsbD 2) (s.me.mask f.msk) (s.srcA f).toNat
      if p.isEmpty then s else s.defer 6 (.latch (latchNo f) (chunkSum prof p).1) 0)

/-- VRDRN (R171). -/
def execVrdrn (f : VF) (s : State) : Out :=
  vSlot f [f.opd.toNat] s (fun s =>
    let l := s.me.latch (latchNo f)
    if profInt l.prof != (f.ty == .i32) then s.trap 0x04 0x00 0 0
    else
      let v := latchValue (Config.freeSum s.freeCtr) l
      let s1 := s.deferV 2 f.opd.toNat f.ty (laneResults 128 (laneOn (s.me.mask f.msk)) (fun _ => (v.1.pat.toNat, 0)))
      let s2 := if v.2.sat then s1.atEnd .sat else s1
      if f.opx.getLsbD 2 then s2
      else s2.draw.setMe (s2.me.setLatch (latchNo f) (clearedLatch l l.prof (pZero l.prof))))

/-- A chunk sum reaches its latch (R167, R170): with N = 2^20 − 1 the latch stays and NV is set; a clamp under profile
8 sets MSTAT.SAT at the end of the cycle. -/
def State.latchLand (s : State) (u k : Nat) (S : PSum) : State :=
  let c := s.ctx u
  let l := c.latch k
  if l.n = 2 ^ 20 - 1 then { s with ends := s.ends ++ [(u, 2, .flags fNV)] }
  else
    let r := latchAdd (Config.freeSum s.freeCtr) l S
    let s' := (s.setCtx u (c.setLatch k r.1)).draw
    if r.2.sat then { s' with ends := s'.ends ++ [(u, 2, .sat)] } else s'

end Sys2Proof.Machine
end

