-- ==== Sys2Proof/Machine/Matrix.lean ====
section
/-! DEFINITION. The matrix engine's shared operations: busy slots and frame slots (R252, R277, R284, R285), operand
streams (R255, R256, R287), products and chunks (R258), chain state of a tile (R259), and routine faults (R268). -/

namespace Sys2Proof.Machine

/-! ### Benches, frame slots, busy slots -/

/-- A bench of a die. -/
def State.bench (s : State) (d b : Nat) : Bench := mget {} s.benches (4 * d + b)

def State.setBench (s : State) (d b : Nat) (v : Bench) : State := { s with benches := mset {} s.benches (4 * d + b) v }

/-- Live for folding (R277). -/
def Bench.live (b : Bench) : Bool := b.powered && !b.throttled && !b.retired

/-- The live-bench mask of a folded MRUN homed on a core, ascending: the home bench alone where none is live (R277). -/
def State.liveBenches (s : State) (core : Nat) : List Nat :=
  let l := (List.range 4).filter (fun b => (s.bench (coreDie core) b).live)
  if l.isEmpty then [coreBench core] else l

/-- Owner of the frame slot of cycle `x` under a kernel's table (R285). -/
def Kernel.slotOwner (k : Kernel) (x : Nat) : Nat := (k.slots[x % 16]?).getD 0

/-- A bench owns some frame slot. -/
def Kernel.ownsSlot (k : Kernel) (b : Nat) : Bool := k.slots.contains b

/-- The four cores of a cluster. -/
def clusterCores (k : Nat) : List Nat := (List.range 4).map (clusterCore k)

/-- A folded routine runs in the cluster, its END's cycle included (R284). -/
def State.foldRuns (s : State) (k : Nat) : Bool :=
  decide (s.cycle < (s.cluster k).fbusy) ||
  (clusterCores k).any (fun c => match (s.core c).routine with | some r => r.fold | none => false)

/-- A running folded routine of the cluster makes bench `b` busy (R284). -/
def State.foldHolds (s : State) (k b : Nat) : Bool :=
  (clusterCores k).any (fun c =>
    match (s.core c).routine with | some r => r.fold && r.live.contains b | none => false)

/-- A routine started on the core, or an MPLOAD, occupies its slice (R252). -/
def State.sliceBusy (s : State) (core : Nat) : Bool :=
  (s.core core).routine.isSome || decide (s.cycle < (s.core core).mbusy)

/-- The core's matrix slot is busy (R252, R284, R294). -/
def State.matrixBusy (s : State) (core : Nat) : Bool :=
  s.sliceBusy core || decide (s.cycle < (s.core core).mhold) || s.foldHolds (coreCluster core) (coreBench core)

/-! ### Operand streams (R253, R255, R256) -/

/-- ADDR of a parameter register, its low six bits ignored (R253). -/
def mpAddr (mp : Word) : Nat := mp.toNat % 2 ^ 22 / 64 * 64

/-- TID of a parameter register. -/
def mpTid (mp : Word) : Nat := mp.toNat / 2 ^ 58

/-- ADDR ← (ADDR + 64·STEP) mod 2^22 (R253). -/
def mpAdvance (mp : Word) : Word :=
  let a : Nat := mp.toNat % 2 ^ 22
  let st : Int := (BitVec.ofNat 14 (mp.toNat / 2 ^ 22)).toInt
  BitVec.ofNat 64 (mp.toNat - a + (((a : Int) + 64 * st) % ((2 ^ 22 : Nat) : Int)).toNat)

/-- Advance every MPk of a mask (R253, R264, R269). -/
def Ctx.advanceMps (c : Ctx) (mask : BitVec 8) : Ctx :=
  { c with mp := (List.range 8).foldl (fun m k =>
      if mask.getLsbD k then mset 0 m k (mpAdvance (mget 0 m k)) else m) c.mp }

/-- The places in a state record of the MPk of a mask (R215). -/
def Ctx.mpAreas (mask : BitVec 8) (c : Ctx) : List (Nat × Nat × Nat) :=
  ((List.range 8).filter (fun k => mask.getLsbD k)).map (fun k => (0x00F80 + 8 * k, 8, (c.mpr k).toNat))

/-- An advance by a routine of context `u`; that of a saved context reaches its record too (R274). -/
def State.advanceMps (s : State) (u : Nat) (mask : BitVec 8) : State :=
  (s.setCtx u ((s.ctx u).advanceMps mask)).echo u (Ctx.mpAreas mask)

/-- Types a stream may have (R255). -/
def feedType : ETy → Bool
  | .i4 | .n4 | .i8 | .n8 | .e2m1 | .e4m3 | .e5m2 | .fp16 | .bf16 => true
  | _ => false

/-- The stream that FEEDA or FEEDB binds, or the cause of its fault (R255, R268). -/
def bindStream (e : TEntry) (mp : Word) (lent : BitVec 16) (lb : Bool) (k : Nat) : Except Nat Stream :=
  if !(feedType e.fmt) || (e.mx && !e.fmt.isMx) then .error 0x04
  else if lb then
    if lent.getLsbD k then .ok ⟨.lent k, mpAddr mp % 2 ^ 16, e.fmt, e.mx⟩ else .error 0x05
  else
    match e.kind with
    | 0 => .ok ⟨.bank (e.loc.toNat / 2 ^ 18 % 16), e.loc.toNat % 2 ^ 18 + mpAddr mp, e.fmt, e.mx⟩
    | 1 => .ok ⟨.cluster, e.loc.toNat % 2 ^ 22 + mpAddr mp, e.fmt, e.mx⟩
    | _ => .error 0x04

/-- `n` bytes of a lent bank from `off`, wrapping in its 64 KiB (R255, R273). -/
def readLent (c : Ctx) (k off : Nat) : Nat → Nat
  | 0 => 0
  | n + 1 =>
    laneAt 8 (mget 0 c.v (128 * k + off % 65536 / 512)).toNat (off % 512) + 256 * readLent c k (off + 1) n

/-- Bytes that a stream reads on a core for a routine of context `u` (R98, R256, R287). -/
def State.fetchStream (s : State) (u core : Nat) (st : Stream) (n : Nat) : Nat :=
  let c := s.ctx u
  match st.place with
  | .bank b => readBank s.mem core b st.ptr n
  | .lent k => readLent c k st.ptr n
  | .cluster =>
    s.readSharedRun core c.view c.outbox (clLoc (coreCluster core) ((s.kernel c.kernel).clBase (coreCluster core) + st.ptr)) n

/-- Routine accesses of the cluster scratchpad in this cycle (R286). -/
def State.k1Now (s : State) (k : Nat) : List (Nat × Nat × Nat × Bool) :=
  let f := (s.cluster k).k1
  if f.1 = s.cycle then f.2 else []

/-- Note one. -/
def State.addK1 (s : State) (k bench lo n : Nat) (rd : Bool) : State :=
  let c := s.cluster k
  s.setCluster k { c with k1 := (s.cycle, (bench, lo, n, rd) :: s.k1Now k) }

/-- Every byte of a range is read by the owner bench's routine in this cycle (R287, multicast rider). -/
def State.rides (s : State) (k owner lo n : Nat) : Bool :=
  (List.range n).all (fun i => (s.k1Now k).any (fun x =>
    x.1 == owner && x.2.2.2 && decide (x.2.1 ≤ lo + i ∧ lo + i < x.2.1 + x.2.2.1)))

/-- The vertical bus is free for a copy transfer of a core's bench in this cycle: the kernel's table gives the slot to the bench, and
no routine's access and no PUTQ has taken it (R285, R286). -/
def State.busFree (s : State) (kernel core : Nat) : Bool :=
  let k := coreCluster core
  (s.kernel kernel).slotOwner s.cycle == coreBench core && decide ((s.cluster k).busAt ≤ s.cycle) && (s.k1Now k).isEmpty

/-- The bus of a core's cluster carries its transfer of this cycle. -/
def State.useBus (s : State) (core : Nat) : State :=
  let k := coreCluster core
  s.setCluster k { s.cluster k with busAt := s.cycle + 1 }

/-- Kind-1 accesses of one micro-word: ranges relative to the share, reads or a write (R287). -/
def State.k1Access (s : State) (u core : Nat) (acc : List (Nat × Nat)) (rd : Bool) : Except Nat State :=
  let kn := s.kernel (s.ctx u).kernel
  let k := coreCluster core
  let b := coreBench core
  let own := kn.slotOwner s.cycle == b
  if acc.any (fun a => decide (kn.clLen < a.1 + a.2)) then .error 0x11
  else if own then
    if 512 < (acc.map Prod.snd).foldl (· + ·) 0 then .error 0x11
    else .ok (acc.foldl (fun t a => t.addK1 k b (kn.clBase k + a.1) a.2 rd) s)
  else if rd && acc.all (fun a => s.rides k (kn.slotOwner s.cycle) (kn.clBase k + a.1) a.2) then .ok s
  else .error 0x11

/-- The bank a stream accesses in the scratchpad. -/
def Stream.bankOf (st : Stream) : Option Nat := match st.place with | .bank b => some b | _ => none

/-- A stream's next bytes hold a poisoned unit (R399). -/
def State.streamPoisoned (s : State) (u core : Nat) (st : Stream) (n : Nat) : Bool :=
  match st.place with
  | .bank b => s.bankPoisoned core b st.ptr n
  | .lent k => s.poisoned (vregLoc u (128 * k) + st.ptr % 65536) n
  | .cluster => s.poisoned (clLoc (coreCluster core) ((s.kernel (s.ctx u).kernel).clBase (coreCluster core) + st.ptr)) n

/-- The accesses of one micro-word on one slice, as matrix feeds of its core (R267, R281, R287): streams with the bytes
each reads. -/
def State.touch (s : State) (u core : Nat) (dealt : Bool) (acc : List (Stream × Nat)) : Except Nat State :=
  let banks := acc.filterMap (fun a => a.1.bankOf)
  if banks.eraseDups.length < banks.length then .error 0x02
  else
    if acc.any (fun a => s.streamPoisoned u core a.1 a.2) then .error 0x102
    else
    let k1 := (acc.filter (fun a => a.1.place == .cluster)).map (fun a => (a.1.ptr, a.2))
    let s' := banks.foldl (fun t b => t.addFeed core b) s
    if k1.isEmpty then .ok s'
    else if dealt then .error 0x12
    else s'.k1Access u core k1 true

/-! ### Products (R257, R258) -/

/-- A value times its block scale: 0xFF gives NaN (R67, R258). -/
def scaled (mx : Bool) (x : Nat) (v : Ext) : Ext :=
  if mx then (if x = 255 then .nan else shiftExt ((x : Int) - 127) v) else v

/-- The 32 values of step `q` of a feed block: element kd·i + q of each line i, scaled with the record (R256, R258). -/
def blockColumn (st : Stream) (kd cn : Nat) (rec : BitVec 2048) (data q : Nat) : List Ext :=
  (List.range 32).map (fun i =>
    scaled st.mx (laneAt 8 rec.toNat (32 * ((cn + q) / 32) + i)) (valOf st.fmt (laneAt st.fmt.width data (kd * i + q))))

/-- Bytes of a feed block (R256). -/
def blockBytes (st : Stream) (kd : Nat) : Nat := 4 * kd * st.fmt.width

/-- Reduction step of two streams (R255). -/
def stepOf (a b : Stream) : Nat := 64 / max a.fmt.width b.fmt.width

/-- MAC t on one slice (R255, R256, R258). -/
def State.macOn (s : State) (u core : Nat) (dealt : Bool) (t : Nat) (x : Exec) : Except Nat (Exec × State) :=
  match x.sA, x.sB with
  | some a, some b =>
    let kd := stepOf a b
    if a.fmt.isInt != b.fmt.isInt then .error 0x04
    else if (0 < x.chunk.cn ∧ x.chunk.ot ≠ t) ∨ 256 < x.chunk.cn + kd then .error 0x03
    else
      match s.touch u core dealt [(a, blockBytes a kd), (b, blockBytes b kd)] with
      | .error e => .error e
      | .ok s' =>
        let da := s.fetchStream u core a (blockBytes a kd)
        let db := s.fetchStream u core b (blockBytes b kd)
        let cn := x.chunk.cn
        let new := (List.range kd).map (fun q => (blockColumn a kd cn x.scA da q, blockColumn b kd cn x.scB db q, a.fmt.isInt))
        .ok ({ x with
          sA := some { a with ptr := a.ptr + blockBytes a kd }
          sB := some { b with ptr := b.ptr + blockBytes b kd }
          chunk := { ot := t, cn := cn + kd, prods := (if cn = 0 then [] else x.chunk.prods) ++ new } }, s')
  | _, _ => .error 0x05

/-- SCALE on one slice (R257). -/
def State.scaleOn (s : State) (u core : Nat) (dealt selA selB : Bool) (x : Exec) : Except Nat (Exec × State) :=
  if (selA && x.sA.isNone) || (selB && x.sB.isNone) then .error 0x05
  else
    let rdA := if selA then x.sA.filter (fun st => st.mx) else none
    let rdB := if selB then x.sB.filter (fun st => st.mx) else none
    match s.touch u core dealt ((rdA.toList ++ rdB.toList).map (fun st => (st, 256))) with
    | .error e => .error e
    | .ok s' =>
      let x1 := match rdA with
        | some a => { x with scA := BitVec.ofNat 2048 (s.fetchStream u core a 256), sA := some { a with ptr := a.ptr + 256 } }
        | none => x
      let x2 := match rdB with
        | some b => { x1 with scB := BitVec.ofNat 2048 (s.fetchStream u core b 256), sB := some { b with ptr := b.ptr + 256 } }
        | none => x1
      .ok (x2, s')

/-- Lines of a chunk: for each of the 32 positions, its values in step order. -/
def linesOf (cols : List (List Ext)) : List (List Ext) := (List.range 32).map (fun i => cols.map (fun col => (col[i]?).getD .nan))

/-- The 1,024 chunk sums of products, row-major; the flag says a finite sum overflowed (R87, R259). -/
def gridSums (prof : Nat) (prods : List (List Ext × List Ext × Bool)) : List (PSum × Bool) :=
  let rows := linesOf (prods.map Prod.fst)
  let cols := linesOf (prods.map (fun p => p.2.1))
  let ints := prods.map (fun p => p.2.2)
  rows.flatMap (fun r => cols.map (fun c => chunkSum prof (List.zipWith (fun i p => dotMul i p.1 p.2) ints (r.zip c))))

/-! ### Tiles (R258 to R260) -/

/-- A tile's entries under a profile (R93). -/
def Tile.vals (t : Tile) (prof : Nat) : List PSum :=
  (List.range 1024).map (fun i => accOf prof (BitVec.ofNat 32 (laneAt 32 t.acc.toNat i)))

/-- Entries as bits. -/
def tileBits (l : List PSum) : BitVec 32768 := BitVec.ofNat 32768 (packLanes 32 (l.map (fun p => p.pat.toNat)))

/-- Add over two lists of entries. -/
def addGrid (prof : Nat) (a b : List PSum) : List PSum × SumFlags :=
  let r := List.zipWith (addP 0 prof) a b
  (r.map Prod.fst, r.foldl (fun f x => f.or x.2) SumFlags.none)

/-- Merge equal sizes at the top of the stack (R167). -/
def mergeGrid (prof : Nat) : Nat → List (List PSum × Nat) × SumFlags → List (List PSum × Nat) × SumFlags
  | k + 1, ((b, y) :: (a, x) :: l, fl) =>
    if x = y then
      let r := addGrid prof a b
      mergeGrid prof k ((r.1, 2 * x) :: l, fl.or r.2)
    else ((b, y) :: (a, x) :: l, fl)
  | _, p => p

/-- ChainAdd of every entry with group size D (R259): the tile, its flags, and the Add(acc, P) steps made. -/
def Tile.chainAdd (t : Tile) (prof D : Nat) (S : List PSum) : Tile × SumFlags × Nat :=
  if prof = 4 then
    let r := mergeGrid prof (t.stk.length + 1) ((S, 1) :: t.stk, SumFlags.none)
    ({ t with stk := r.1, n := t.n + 1 }, r.2, 0)
  else
    let p := if t.q = 0 then (S, SumFlags.none) else addGrid prof t.pass S
    if t.q + 1 = D then
      let a := addGrid prof (t.vals prof) p.1
      ({ t with acc := tileBits a.1, pass := [], q := 0, n := t.n + 1 }, p.2.or a.2, 1)
    else ({ t with pass := p.1, q := t.q + 1, n := t.n + 1 }, p.2, 0)

/-- Fold the lower stack values onto the top one (R167). -/
def foldGrid (prof : Nat) (v : List PSum × SumFlags) : List (List PSum × Nat) → List PSum × SumFlags
  | [] => v
  | (a, _) :: l =>
    let r := addGrid prof a v.1
    foldGrid prof (r.1, v.2.or r.2) l

/-- Chain state empty. -/
def Tile.settled (t : Tile) : Tile := { t with pass := [], q := 0, stk := [] }

/-- CHAIN.LAST: every entry becomes its ChainValue, pass and stack clear (R259). -/
def Tile.chainLast (t : Tile) (prof : Nat) : Tile × SumFlags × Nat :=
  if prof = 4 then
    match t.stk with
    | [] => (t.settled, SumFlags.none, 0)
    | (v, _) :: rest =>
      let f := foldGrid prof (v, SumFlags.none) rest
      let a := addGrid prof (t.vals prof) f.1
      ({ t.settled with acc := tileBits a.1 }, f.2.or a.2, 1)
  else if t.q = 0 then (t.settled, SumFlags.none, 0)
  else
    let a := addGrid prof (t.vals prof) t.pass
    ({ t.settled with acc := tileBits a.1 }, a.2, 1)

/-- A tile of a core's slice. -/
def State.tile (s : State) (core t : Nat) : Tile := mget {} (s.core core).tiles t

def State.setTile (s : State) (core t : Nat) (v : Tile) : State :=
  let c := s.core core
  s.setCore core { c with tiles := mset {} c.tiles t v }

/-- An OPEN stream entry holds tile `t` of a core's slice (R292). -/
def State.held (s : State) (core t : Nat) : Option SEntry :=
  (((s.cluster (coreCluster core)).streams).map Prod.snd).find? (fun e =>
    decide (e.state = .opened ∧ e.bench = coreBench core ∧ e.tile = t) && !e.away)

/-- The tiles at a routine's start: +0 but for held ones (R252). -/
def State.clearTiles (s : State) (core : Nat) : State :=
  let c := s.core core
  s.setCore core { c with tiles := c.tiles.filter (fun e => (s.held core e.1).isSome) }

/-! ### Routines -/

/-- The routine of the acting core. -/
def State.setRoutine (s : State) (core : Nat) (r : Option Routine) : State :=
  s.setCore core { s.core core with routine := r }

/-- Discard the open steps of a routine (R293). -/
def State.dropSteps (s : State) (core : Nat) (r : Routine) : State :=
  r.steps.foldl (fun t e =>
    let cl := t.cluster (coreCluster core)
    let x := mget {} cl.streams e
    t.setCluster (coreCluster core) { cl with streams := mset {} cl.streams e { x with cn := 0, h0 := 0, rows := [] } }) s

/-- The routine leaves its slice: the slot is busy to the end of this cycle, a folded one on every live slice
(R252, R284). -/
def State.routineGone (s : State) (core : Nat) (r : Routine) : State :=
  let k := coreCluster core
  let s0 := (s.dropSteps core r).setRoutine core none
  let s1 := s0.setCore core { s0.core core with ended := (s.cycle, r.start, r.len) }
  let free (t : State) (c : Nat) : State := t.setCore c { t.core c with mbusy := max (t.core c).mbusy (s.cycle + 1) }
  let s2 := free s1 core
  if r.fold then
    let s3 := r.live.foldl (fun t b => free t (clusterCore k b)) s2
    s3.setCluster k { s3.cluster k with fbusy := s.cycle + 1 }
  else s2

/-- Causes above 0xFF stand for machine checks of the matrix slot: 0x100 + cause (R399). -/
def faultCode (cause : Nat) : Nat × Nat := if cause < 0x100 then (0x0D, cause) else (0x0A, cause - 0x100)

/-- A routine fault (R268, R283): the routine stops, MSTAT records cause and word, and the trap becomes due for the
context unless it has exited. -/
def State.routineFault (s : State) (core cause word : Nat) : State :=
  match (s.core core).routine with
  | none => s
  | some r =>
    let s1 := s.routineGone core r
    let c := s1.ctx r.ctx
    let s2 := if c.life = .exited then s1 else s1.setCtx r.ctx { c with rfault := some ((faultCode cause).1, (faultCode cause).2, word, s.cycle) }
    { s2 with ends := s2.ends ++ [(r.ctx, 3, .fault (faultCode cause).2 word)] }

/-- Leave every loop whose body ends at `pc`, or start its next pass (R265). -/
def loopEnd : List KLoop → Nat → List KLoop × Nat
  | [], pc => ([], pc)
  | l :: ls, pc =>
    if pc = l.start + l.len then
      (if 1 < l.left then ({ l with left := l.left - 1 } :: ls, l.start) else loopEnd ls pc)
    else (l :: ls, pc)

/-- Go on at word `pc` in the next cycle. -/
def Routine.goOn (r : Routine) (pc now : Nat) : Routine :=
  let e := loopEnd r.loops pc
  { r with loops := e.1, pc := e.2, at_ := now + 1 }

/-- Add sums of one chunk to a tile of the home slice, with their flags and passes (R259, R279). -/
def State.chainInto (s : State) (core : Nat) (r : Routine) (t : Nat) (S : List (PSum × Bool)) : Routine × State :=
  let a := (s.tile core t).chainAdd r.prof r.d (S.map Prod.fst)
  ({ r with passes := r.passes + a.2.2, sat := r.sat || a.2.1.sat, ovf := r.ovf || a.2.1.ov || S.any (fun x => x.2) },
    s.setTile core t a.1)

/-! ### Dealing (R278 to R281) -/

/-- A word of the cluster's store, decoded. -/
def State.microAt (s : State) (cluster w : Nat) : Option Instr :=
  match decodeMicro (mget 0 (s.cluster cluster).store (w % 2048)).toNat with
  | .ok i => some i
  | .error _ => none

/-- Words pc to pc + n − 1 of a routine. -/
def State.bodyWords (s : State) (core : Nat) (r : Routine) (pc n : Nat) : List Instr :=
  if r.len < pc + n then []
  else (List.range n).filterMap (fun i => s.microAt (coreCluster core) (r.start + pc + i))

/-- What stands in a chunk loop before its CHAIN: SCALE, MAC, and at most one LOOPK, whose body ends there too (R278). -/
def plainBody : Bool → List Instr → Bool
  | _, [] => true
  | inner, .mac _ :: l => plainBody inner l
  | inner, .scale _ _ :: l => plainBody inner l
  | false, .loopk _ len :: l => decide (len.toNat + 1 ≤ l.length) && plainBody true l
  | false, .loopkMh _ len :: l => decide (len.toNat + 1 ≤ l.length) && plainBody true l
  | _, _ => false

/-- The tile of a chunk loop's body, if it is one (R278). -/
def chunkLoop (body : List Instr) : Option Nat :=
  match body.getLast? with
  | some (.chain t false) => if plainBody false body.dropLast then some t.toNat else none
  | _ => none

/-- Passes of an inner LOOPK: the immediate or field Cf of MH (R265). -/
def mhCount (mh : BitVec 64) (f : BitVec 2) : Nat := mh.toNat / 2 ^ (16 * f.toNat) % 65536

/-- Bytes of streams A and B that a word consumes (R281). -/
def consumes (x : Exec) : Instr → Nat × Nat
  | .mac _ =>
    match x.sA, x.sB with
    | some a, some b => (blockBytes a (stepOf a b), blockBytes b (stepOf a b))
    | _, _ => (0, 0)
  | .scale a b =>
    ((if a && (x.sA.any (fun st => st.mx)) then 256 else 0), (if b && (x.sB.any (fun st => st.mx)) then 256 else 0))
  | _ => (0, 0)

def addPair (a b : Nat × Nat) : Nat × Nat := (a.1 + b.1, a.2 + b.2)

/-- Bytes of a list of words, once each. -/
def consumesAll (x : Exec) (l : List Instr) : Nat × Nat := l.foldl (fun a i => addPair a (consumes x i)) (0, 0)

/-- Bytes of one iteration, with its inner loop run `n` times (R281). -/
def iterBytes (mh : BitVec 64) (x : Exec) : List Instr → Nat × Nat
  | [] => (0, 0)
  | .loopk n len :: l =>
    let inner := consumesAll x (l.take (len.toNat + 1))
    addPair (inner.1 * n.toNat, inner.2 * n.toNat) (consumesAll x (l.drop (len.toNat + 1)))
  | .loopkMh f len :: l =>
    let inner := consumesAll x (l.take (len.toNat + 1))
    addPair (inner.1 * mhCount mh f, inner.2 * mhCount mh f) (consumesAll x (l.drop (len.toNat + 1)))
  | i :: l => addPair (consumes x i) (iterBytes mh x l)

/-- Cut a list into groups of `L`; `fuel` bounds their number. -/
def groupsOf {α : Type} (L : Nat) : Nat → List α → List (List α)
  | 0, _ => []
  | k + 1, l => if l.isEmpty then [] else l.take L :: groupsOf L k (l.drop L)

/-- The passes of a loop from iteration k on, `m` left, each a list of slots: chunk number j = first + k, position
j mod D (R279, R280). `fuel` bounds the passes. -/
def dealPlan (live : List Nat) (D first : Nat) : Nat → Nat → Nat → List (List (List (Nat × Nat)))
  | 0, _, _ => []
  | fuel + 1, k, m =>
    if m = 0 then []
    else
      let p := (first + k) % D
      let here := min m (D - p)
      let its := (List.range here).map (fun i => ((live[(p + i) % live.length]?).getD 0, k + i))
      groupsOf live.length here its :: dealPlan live D first fuel (k + here) (m - here)

/-- Iteration k on a slice: fresh chunk, each pointer k iterations on (R281). -/
def dealtStart (x : Exec) (stepA stepB : Nat) (p : Nat × Nat) : Dealt :=
  { bench := p.1
    ex := { x with
      sA := x.sA.map (fun st => { st with ptr := st.ptr + p.2 * stepA })
      sB := x.sB.map (fun st => { st with ptr := st.ptr + p.2 * stepB }), chunk := {} } }

/-- Start a chunk loop at LOOPK word r.pc (R278 to R281). -/
def State.startDeal (s : State) (core : Nat) (r : Routine) (len count tile : Nat) (body : List Instr) : Routine :=
  let first := (s.tile core tile).n
  let by_ := iterBytes r.mh r.ex body
  let passes := dealPlan r.live r.d first (count + 1) 0 count
  let plan := passes.flatten
  { r with
    pc := r.pc + 1, at_ := s.cycle + 1
    xp := r.xp || (decide (r.d = 4 ∧ r.live.length < 4) && passes.any (fun p => decide (1 < p.length)))
    deal := some {
      body := r.pc + 1, len := len, count := count, tile := tile, stepA := by_.1, stepB := by_.2
      plan := plan.drop 1, cur := ((plan.head?).getD []).map (dealtStart r.ex by_.1 by_.2), done := [] } }

/-- Combine the chunk sums of a finished loop on the home slice, in iteration order (R279). -/
def State.chainAll (s : State) (core : Nat) (t : Nat) : List (List (PSum × Bool)) → Routine → Routine × State
  | [], r => (r, s)
  | S :: l, r =>
    if S.isEmpty then s.chainAll core t l r
    else
      let a := s.chainInto core r t S
      a.2.chainAll core t l a.1

/-- A pass slot has run its last word: the next one starts, or the chain drains for 4 c and the words after the loop
follow (R280, R281). -/
def State.slotDone (s : State) (core : Nat) (r : Routine) (d : Deal) : Routine × State :=
  let done := d.done ++ d.cur.map (fun x => x.sums)
  match d.plan with
  | nx :: rest =>
    ({ r with pc := d.body, at_ := s.cycle + 1,
              deal := some { d with plan := rest, cur := nx.map (dealtStart r.ex d.stepA d.stepB), done := done } }, s)
  | [] =>
    let a := s.chainAll core d.tile done { r with deal := none }
    let last := (d.cur.getLast?).map (fun x => x.ex)
    let x := { r.ex with
      sA := r.ex.sA.map (fun st => { st with ptr := st.ptr + d.count * d.stepA })
      sB := r.ex.sB.map (fun st => { st with ptr := st.ptr + d.count * d.stepB })
      scA := (last.map (fun e => e.scA)).getD r.ex.scA
      scB := (last.map (fun e => e.scB)).getD r.ex.scB }
    let g := a.1.goOn (d.body + d.len) (s.cycle + 4)
    ({ g with ex := x }, a.2)

/-- Run an operation on every slice of the slot in progress, in ascending bench order. -/
def dealEach (f : State → Nat → Dealt → Except Nat (Dealt × State)) (cluster : Nat) :
    List Dealt → State → Except Nat (List Dealt × State)
  | [], s => .ok ([], s)
  | d :: l, s =>
    match f s (clusterCore cluster d.bench) d with
    | .error e => .error e
    | .ok (d', s') =>
      match dealEach f cluster l s' with
      | .error e => .error e
      | .ok (l', s'') => .ok (d' :: l', s'')

/-! ### One micro-word -/

/-- After its operation, the acting routine goes on with the next word, or a pass slot ends (R252, R280). -/
def State.microNext (s : State) (r : Routine) : State :=
  match r.deal with
  | some d =>
    if r.pc + 1 = d.body + d.len then
      let a := s.slotDone s.rcore r d
      a.2.setRoutine s.rcore (some { a.1 with last := r.pc })
    else s.setRoutine s.rcore (some { r.goOn (r.pc + 1) s.cycle with last := r.pc })
  | none => s.setRoutine s.rcore (some { r.goOn (r.pc + 1) s.cycle with last := r.pc })

/-- A micro-word of the acting core's routine: its operation and the next word, or a fault (R252, R268). Without a
running routine nothing acts. -/
def microDo (s : State) (act : Routine → Except Nat (Routine × State)) : Out :=
  match (s.core s.rcore).routine with
  | none => .next s
  | some r =>
    match act r with
    | .ok (r', s') => .next (s'.microNext r')
    | .error e => .next (s.routineFault s.rcore e r.pc)

end Sys2Proof.Machine
end

