-- ==== Sys2Proof/Machine/MicroOps.lean ====
section
/-! DEFINITION. The matrix micro-words (R251 to R266, R293): each acts for the routine of the core `s.rcore`. -/

namespace Sys2Proof.Machine

/-- The entry of MPm as the MRUN read it, with END's bias writes of this MRUN (R143, R263). -/
def Routine.entry (r : Routine) (c : Ctx) (m : BitVec 3) : TEntry := mget {} r.ents (mpTid (c.mpr m.toNat))

/-- FEEDA (R255). -/
def execFeeda (m : BitVec 3) (lb : Bool) (k : BitVec 4) (s : State) : Out :=
  microDo s (fun r =>
    let c := s.ctx r.ctx
    let e := r.entry c m
    match bindStream e (c.mpr m.toNat) c.lent lb k.toNat with
    | .error x => .error x
    | .ok st => .ok ({ r with ex := { r.ex with sA := some st }, ba := e.bias }, s))

/-- FEEDB (R255). -/
def execFeedb (m : BitVec 3) (lb : Bool) (k : BitVec 4) (s : State) : Out :=
  microDo s (fun r =>
    let c := s.ctx r.ctx
    let e := r.entry c m
    match bindStream e (c.mpr m.toNat) c.lent lb k.toNat with
    | .error x => .error x
    | .ok st => .ok ({ r with ex := { r.ex with sB := some st }, bb := e.bias }, s))

/-- An operation on the home slice, or on every slice of the slot in progress (R278, R280). -/
def onSlices (s : State) (r : Routine) (f : State → Nat → Bool → Exec → Except Nat (Exec × State)) :
    Except Nat (Routine × State) :=
  match r.deal with
  | none =>
    match f s s.rcore false r.ex with
    | .error e => .error e
    | .ok (x, s') => .ok ({ r with ex := x }, s')
  | some d =>
    match dealEach (fun t core y =>
        match f t core true y.ex with
        | .error e => .error e
        | .ok (x, t') => .ok ({ y with ex := x }, t')) (coreCluster s.rcore) d.cur s with
    | .error e => .error e
    | .ok (l, s') => .ok ({ r with deal := some { d with cur := l } }, s')

/-- MAC (R255, R258); on a held tile it faults with cause 0x07 (R292). -/
def execMac (t : BitVec 3) (s : State) : Out :=
  microDo s (fun r =>
    if (s.held s.rcore t.toNat).isSome then .error 0x07
    else onSlices s r (fun u core dealt x => u.macOn r.ctx core dealt t.toNat x))

/-- SCALE (R257). -/
def execScale (a b : Bool) (s : State) : Out :=
  microDo s (fun r => onSlices s r (fun u core dealt x => u.scaleOn r.ctx core dealt a b x))

/-- CHAIN of a dealt iteration: its chunk sums wait for the chain (R279). -/
def dealtChain (prof t : Nat) (d : Dealt) : Except Nat Dealt :=
  if d.ex.chunk.cn = 0 then .ok d
  else if d.ex.chunk.ot ≠ t then .error 0x03
  else .ok { d with ex := { d.ex with chunk := {} }, sums := gridSums prof d.ex.chunk.prods }

/-- CHAIN and CHAIN.LAST (R259). -/
def execChain (t : BitVec 3) (last : Bool) (s : State) : Out :=
  microDo s (fun r =>
    if (s.held s.rcore t.toNat).isSome then .error 0x07
    else
      match r.deal with
      | some d =>
        match dealEach (fun u _ y => match dealtChain r.prof t.toNat y with
            | .error e => .error e
            | .ok y' => .ok (y', u)) (coreCluster s.rcore) d.cur s with
        | .error e => .error e
        | .ok (l, s') => .ok ({ r with deal := some { d with cur := l } }, s')
      | none =>
        if 0 < r.ex.chunk.cn ∧ r.ex.chunk.ot ≠ t.toNat then .error 0x03
        else
          let a := if r.ex.chunk.cn = 0 then (r, s)
            else s.chainInto s.rcore { r with ex := { r.ex with chunk := {} } } t.toNat (gridSums r.prof r.ex.chunk.prods)
          if last then
            let v := (a.2.tile s.rcore t.toNat).chainLast r.prof
            .ok ({ a.1 with passes := a.1.passes + v.2.2, sat := a.1.sat || v.2.1.sat, ovf := a.1.ovf || v.2.1.ov },
              a.2.setTile s.rcore t.toNat v.1)
          else .ok a)

/-- ACLR (R260). -/
def execAclr (t : BitVec 3) (s : State) : Out :=
  microDo s (fun r =>
    if (s.held s.rcore t.toNat).isSome then .error 0x07
    else
      let r' := if r.ex.chunk.ot = t.toNat then { r with ex := { r.ex with chunk := {} } } else r
      .ok (r', s.setTile s.rcore t.toNat {}))

/-- Rows 4g to 4g + 3 of a tile as 128 lanes (R261). -/
def tileRows (t : Tile) (g : Nat) : BitVec 4096 := BitVec.ofNat 4096 (t.acc.toNat / 2 ^ (4096 * g))

/-- Place lanes in the forwarding latch for this cycle (R261, R262). -/
def State.forwardLatch (s : State) (core u : Nat) (v : BitVec 4096) : State :=
  s.setCore core { s.core core with fl := some (s.cycle, u, v) }

/-- EMIT.ST's write: a bank access performed 2 c later, or a pending write of the issuing context (R261, R287). -/
def State.emitStore (s : State) (u core : Nat) (e : TEntry) (off : Nat) (v : BitVec 4096) : Except Nat State :=
  match e.kind with
  | 0 =>
    let b := e.loc.toNat / 2 ^ 18 % 16
    let s' := s.addFeed core b
    .ok { s' with stores := s'.stores ++
      [{ ctx := none, due := s.cycle + 2, core := core, bank := b,
         pieces := [((e.loc.toNat % 2 ^ 18 + off) % 2 ^ 18, 512, v.toNat, 2 ^ 4096 - 1)] }] }
  | 1 =>
    let lo := e.loc.toNat % 2 ^ 22 + off
    match s.k1Access u core [(lo, 512)] false with
    | .error x => .error x
    | .ok s' =>
      let c := s'.ctx u
      let w : Wr := ⟨s'.nextId, clLoc (coreCluster core) ((s'.kernel c.kernel).clBase (coreCluster core) + lo), 512, v.toNat⟩
      .ok { s'.setCtx u { c with outbox := c.outbox ++ [w] } with nextId := s'.nextId + 1 }
  | _ => .error 0x04

/-- EMIT and EMIT.ST (R261); a held tile is emitted only for its owner (R293). -/
def execEmit (t g : BitVec 3) (st : Bool) (m : BitVec 3) (s : State) : Out :=
  microDo s (fun r =>
    if (s.held s.rcore t.toNat).any (fun e => e.ctx != r.ctx) then .error 0x07
    else
      let v := tileRows (s.tile s.rcore t.toNat) g.toNat
      if st then
        let c := s.ctx r.ctx
        match s.emitStore r.ctx s.rcore (r.entry c m) (mpAddr (c.mpr m.toNat) + 512 * g.toNat) v with
        | .error x => .error x
        | .ok s' => .ok (r, s'.forwardLatch s.rcore r.ctx v)
      else .ok (r, s.forwardLatch s.rcore r.ctx v))

/-- BIAS (R263). -/
def execBias (v : BitVec 8) (s : State) : Out := microDo s (fun r => .ok ({ r with sb := r.sb + v.toInt }, s))

/-- ADV (R264). -/
def execAdv (mask : BitVec 8) (s : State) : Out :=
  microDo s (fun r => .ok (r, s.advanceMps r.ctx mask))

/-- LOOPK with count n over the next `len` words (R265, R278): a skipped body, a chunk loop dealt to slices, or a loop
of the home slice. -/
def State.loopWords (s : State) (n len : Nat) : State :=
  match (s.core s.rcore).routine with
  | none => s
  | some r =>
    let next : Routine :=
      if n = 0 then r.goOn (r.pc + 1 + len) s.cycle
      else
        let body := s.bodyWords s.rcore r (r.pc + 1) len
        match (if r.fold && r.deal.isNone && !body.isEmpty then chunkLoop body else none) with
        | some t => s.startDeal s.rcore r len n t body
        | none => { r with loops := ⟨r.pc + 1, len, n⟩ :: r.loops, pc := r.pc + 1, at_ := s.cycle + 1 }
    s.setRoutine s.rcore (some { next with last := r.pc })

/-- LOOPK with an immediate count (R265). -/
def execLoopk (n : BitVec 14) (len : BitVec 11) (s : State) : Out := .next (s.loopWords n.toNat (len.toNat + 1))

/-- LOOPK with a count of the captured MH (R254, R265). -/
def execLoopkMh (f : BitVec 2) (len : BitVec 11) (s : State) : Out :=
  match (s.core s.rcore).routine with
  | none => .next s
  | some r => .next (s.loopWords (mhCount r.mh f) (len.toNat + 1))

/-- An entry of the stream table of a core's cluster (R292). -/
def State.sentry (s : State) (core e : Nat) : SEntry := mget {} (s.cluster (coreCluster core)).streams e

def State.setSentry (s : State) (core e : Nat) (v : SEntry) : State :=
  let cl := s.cluster (coreCluster core)
  s.setCluster (coreCluster core) { cl with streams := mset {} cl.streams e v }

/-- Row i of a tile's bits, columns in order. -/
def tileEntry (acc : BitVec 32768) (i j : Nat) : Nat := laneAt 32 acc.toNat (32 * i + j)

/-- H(i, j) after the step: Add(ChunkSum of the step products, U(i, j)) (R293). -/
def streamSums (prof : Nat) (h0 : BitVec 32768) (rows : List (List Ext)) (u : Tile) : List (PSum × SumFlags) :=
  let cols := linesOf rows
  (List.range 32).flatMap (fun i =>
    let hs := (List.range rows.length).map (fun k => valOf .fp32 (tileEntry h0 i k))
    (List.range 32).map (fun j =>
      let S := chunkSum prof (List.zipWith (fun a b => (mulExt a b).1) hs ((cols[j]?).getD []))
      let r := addP 0 prof S.1 (accOf prof (BitVec.ofNat 32 (tileEntry u.acc i j)))
      (r.1, { r.2 with ov := r.2.ov || S.2 })))

/-- STREAM (R266, R293). -/
def execStream (e u : BitVec 3) (cl : Bool) (s : State) : Out :=
  microDo s (fun r =>
    let x := s.sentry s.rcore e.toNat
    if x.state ≠ .opened ∨ x.bench ≠ coreBench s.rcore ∨ x.ctx ≠ r.ctx ∨ u.toNat = x.tile then .error 0x07
    else
      match r.ex.sB with
      | none => if profInt r.prof then .error 0x04 else .error 0x05
      | some b =>
        if profInt r.prof ∨ b.fmt.isInt ∨ b.mx then .error 0x04
        else
          let x := if x.cn = 0 then { x with h0 := if x.rst then 0 else (s.tile s.rcore x.tile).acc, rows := [] } else x
          if 32 < x.cn + 2 then .error 0x03
          else
            match s.touch r.ctx s.rcore false [(b, blockBytes b 2)] with
            | .error y => .error y
            | .ok s1 =>
              let d := s.fetchStream r.ctx s.rcore b (blockBytes b 2)
              let rows := x.rows ++ (List.range 2).map (fun q => blockColumn b 2 0 0 d q)
              let r1 := { r with ex := { r.ex with sB := some { b with ptr := b.ptr + blockBytes b 2 } } }
              if cl then
                let h := streamSums r.prof x.h0 rows (s.tile s.rcore u.toNat)
                let s2 := s1.setTile s.rcore x.tile { acc := tileBits (h.map Prod.fst) }
                .ok ({ r1 with ovf := r1.ovf || h.any (fun y => y.2.ov), steps := r1.steps.filter (fun k => k != e.toNat) },
                  s2.setSentry s.rcore e.toNat { x with cn := 0, h0 := 0, rows := [], rst := false })
              else
                .ok ({ r1 with steps := if r1.steps.contains e.toNat then r1.steps else e.toNat :: r1.steps },
                  s1.setSentry s.rcore e.toNat { x with cn := x.cn + 2, rows := rows }))

/-- The fields of MSTAT that END writes, apart from SAT and OVF (R283). -/
def mstatFields (r : Routine) (home : Nat) : Word :=
  let live := if r.fold then r.live.foldl (fun m b => m + 2 ^ b) 0 else 2 ^ home
  BitVec.ofNat 64 (r.prof * 2 ^ 36 + min r.passes (2 ^ 20 - 1) * 2 ^ 16 + (if r.xp then 2 ^ 15 else 0) + r.d % 8 * 2 ^ 12 +
    (if r.fold then 2 ^ 11 else 0) + live * 2 ^ 4)

/-- The bias END writes, and whether the sum was clamped (R71, R263). -/
def endBias (r : Routine) : Int × Bool :=
  let v := r.ba + r.bb + r.sb
  (max (-128) (min 127 v), decide (v < -128 ∨ 127 < v))

/-- A run's start state (R252, R269): the next run of a repeated MRUN. -/
def Routine.rerun (r : Routine) (now : Nat) : Routine :=
  { r with pc := 0, at_ := now + 1, loops := [], rep := r.rep - 1, ex := {}, ba := 0, bb := 0, sb := 0, passes := 0,
           xp := false, sat := false, ovf := false, deal := none, steps := [] }

/-- END (R263, R269, R270, R283). -/
def execEnd (m : BitVec 3) (nb : Bool) (s : State) : Out :=
  match (s.core s.rcore).routine with
  | none => .next s
  | some r =>
    let c := s.ctx r.ctx
    let tid := mpTid (c.mpr m.toNat)
    let bv := endBias r
    let ovf := r.ovf || (!nb && bv.2)
    let rep : List (Nat × Nat × EndWrite) := [(r.ctx, 3, .report (mstatFields r (coreBench s.rcore)) r.sat ovf)]
    let ws := if nb then rep else rep ++ [(r.ctx, 3, .bias tid bv.1)]
    let s1 := { s with ends := s.ends ++ ws }
    let r1 := if nb then r else { r with ents := mset {} r.ents tid { mget {} r.ents tid with bias := bv.1 } }
    if r.rep = 0 then .next (s1.routineGone s.rcore r)
    else
      let s2 := ((s1.dropSteps s.rcore r).clearTiles s.rcore).advanceMps r.ctx r.inc
      .next (s2.setRoutine s.rcore (some (r1.rerun s.cycle)))

end Sys2Proof.Machine
end

