-- ==== Sys2Proof/Machine/MSlot.lean ====
section
/-! DEFINITION. M-slot instructions: MRUN and MRUN.F (R269, R284), MPLOAD (R271, R272), LEND and RECL (R273), MSTR
(R294). Every one blocks while the core's matrix slot is busy (R252). -/

namespace Sys2Proof.Machine

/-- An M slot: guard, then the wait for the core's matrix slot (R48, R252). -/
def mSlot (g : BitVec 3) (s : State) (act : State → State) : Out :=
  slotDo g s (fun s => if s.matrixBusy s.me.core then s.block else act s)

/-! ### MRUN -/

/-- An entry of the routine table as an MRUN reads it in cycle `now`: without what an MPLOAD of the same cycle installs
(R271). -/
def Cluster.entryAt (c : Cluster) (now i : Nat) : BitVec 32 :=
  match (if c.was.1 = now then c.was.2 else []).find? (fun e => e.1 == i) with
  | some e => e.2
  | none => mget 0 c.table i

/-- Routine-table entry IDX of the running context's kernel; an index outside the kernel's range names no routine
(R248, R249). -/
def State.routineEntry (s : State) (idx : Nat) : Nat :=
  let k := s.kernel s.me.kernel
  let g := coreCluster s.me.core
  if idx < k.tLen then ((s.cluster g).entryAt s.cycle (k.tBase g + idx)).toNat else 0

/-- Some MPk of FMASK names a floating FMT (R94, R269). -/
def floatOperand (c : Ctx) (entry : Nat) : Bool :=
  (List.range 8).any (fun k => (entry / 2 ^ 22).testBit k && !(c.te (mpTid (c.mpr k))).fmt.isInt)

/-- A folded MRUN cannot issue in this cycle (R284). -/
def State.foldWaits (s : State) : Bool :=
  let core := s.me.core
  let k := coreCluster core
  (s.kernel s.me.kernel).slotOwner s.cycle != coreBench core || s.foldRuns k ||
  (s.liveBenches core).any (fun b => s.sliceBusy (clusterCore k b))

/-- D of a routine (R90): profiles 1, 3 and 6 are adaptive (R89). -/
def groupSize (prof : Nat) (fold : Bool) (live : Nat) : Nat :=
  if prof = 1 ∨ prof = 3 ∨ prof = 6 then (if fold then live else 1) else 4

/-- MRUN binds routine `entry` (R252, R269). -/
def State.bindRoutine (s : State) (entry : Nat) (fold : Bool) (sh : BitVec 2) (sw : Bool) (rep : BitVec 12)
    (inc : BitVec 8) : State :=
  let c := s.me.swapIf 3 sh.toNat sw
  let s1 := (s.setMe c).clearTiles c.core
  let live := if fold then s.liveBenches c.core else [coreBench c.core]
  s1.setRoutine c.core (some {
    ctx := s.cur, issued := s.cycle, start := (s.kernel c.kernel).uBase (coreCluster c.core) + entry % 2 ^ 11, len := entry / 2 ^ 11 % 2 ^ 11 + 1
    at_ := s.cycle + 1, rep := rep.toNat, inc := inc, mh := c.shapeOf 3 sh.toNat, prof := s.iss.profile, fold := fold
    live := live, d := groupSize s.iss.profile fold live.length, ents := c.t })

/-- MRUN in either mode (R269, R284, R298), its traps in the order of R424. -/
def State.runMatrix (s : State) (fold : Bool) (idx : BitVec 8) (sh : BitVec 2) (sw : Bool) (rep : BitVec 12)
    (inc : BitVec 8) : State :=
  let e := s.routineEntry idx.toNat
  let noSlot := fold && !(s.kernel s.me.kernel).ownsSlot (coreBench s.me.core)
  if fold && !noSlot && s.foldWaits then s.block
  else if profInt s.iss.profile && floatOperand s.me e then s.trap 0x04 0x00 0 0
  else if e / 2 ^ 31 = 0 then s.trap 0x0D 0x01 0 0
  else if noSlot then s.trap 0x0D 0x10 0 0
  else s.bindRoutine e fold sh sw rep inc

/-- MRUN (R269). -/
def execMrun (g : BitVec 3) (idx : BitVec 8) (sh : BitVec 2) (sw : Bool) (rep : BitVec 12) (inc : BitVec 8)
    (s : State) : Out := mSlot g s (fun s => s.runMatrix false idx sh sw rep inc)

/-- MRUN.F (R277, R284). -/
def execMrunF (g : BitVec 3) (idx : BitVec 8) (sh : BitVec 2) (sw : Bool) (rep : BitVec 12) (inc : BitVec 8)
    (s : State) : Out := mSlot g s (fun s => s.runMatrix true idx sh sw rep inc)

/-! ### MPLOAD -/

/-- Words of the block a header names (R249, R250). -/
def blockLen (hdr : Nat) : Nat := hdr / 2 ^ 11 % 2 ^ 11 + 1

/-- Engine accesses that read the block (R271). -/
def blockReads (hdr : Nat) : Nat := (4 + 4 * blockLen hdr + 511) / 512

/-- The read of a block is complete. -/
def MRead.complete (m : MRead) : Bool := decide (1 ≤ m.got) && decide (blockReads (m.data % 2 ^ 32) ≤ m.got)

/-- One engine access of up to 512 bytes (R185, R271). -/
def MRead.grant (m : MRead) (mem : Memory) (core : Nat) : MRead :=
  { m with got := m.got + 1, data := m.data + readBank mem core m.bank (m.off + 512 * m.got) 512 * 256 ^ (512 * m.got) }

/-- Micro-words of a block. -/
def MRead.words (m : MRead) : List Nat := (List.range (blockLen (m.data % 2 ^ 32))).map (fun i => laneAt 32 m.data (i + 1))

/-- The bodies of the LOOPKs of a routine: word index and last word of the body. -/
def loopBodies (ws : List Nat) : List (Nat × Nat) :=
  ((List.range ws.length).zip ws).filterMap (fun p => if p.2 / 2 ^ 28 = 9 then some (p.1, p.1 + p.2 % 2 ^ 11 + 1) else none)

/-- Loops nest as R265 allows and stay within the routine; a body may hold two LOOPKs side by side (DESIGN CHOICE, log 55). -/
def loopsOk (n : Nat) (ls : List (Nat × Nat)) : Bool :=
  ls.all (fun l =>
    let outer := ls.filter (fun o => decide (o.1 < l.1 ∧ l.1 ≤ o.2))
    decide (l.2 < n) && decide (outer.length ≤ 1) && outer.all (fun o => decide (l.2 ≤ o.2)))

/-- Bits that R251 marks zero are zero. -/
def microZeros (w : Nat) : Bool :=
  match decodeMicro w with
  | .ok i => i.zeroOk
  | .error b => b.cause != 0x06

/-- Cause of the trap that a block takes, 0 for none (R271). -/
def blockCause (hdr : Nat) (ws : List Nat) (inRange : Bool) : Nat :=
  let ends := (List.range ws.length).filter (fun i => (ws[i]?).getD 0 / 2 ^ 28 == 11)
  if hdr / 2 ^ 22 % 2 ^ 9 ≠ 0 ∨ !(ws.all microZeros) then 0x06
  else if hdr / 2 ^ 31 = 0 ∨ !inRange ∨ ends ≠ [ws.length - 1] ∨ !(loopsOk ws.length (loopBodies ws)) then 0x07
  else if ws.any (fun w => decide (12 ≤ w / 2 ^ 28)) then 0x08
  else 0

/-- FMASK of a routine (R249). -/
def feedMask (ws : List Nat) : Nat :=
  (List.range 8).foldl (fun m k =>
    if ws.any (fun w => decide (w / 2 ^ 28 ≤ 1 ∧ w / 2 ^ 25 % 8 = k)) then m + 2 ^ k else m) 0

/-- A routine of the cluster that runs, its END's own cycle included, has words in the store from `lo`, `n` of them (R271, R284). -/
def State.wordsInUse (s : State) (k lo n : Nat) : Bool :=
  let meets (start len : Nat) : Bool := decide (start < lo + n ∧ lo < start + len)
  (clusterCores k).any (fun c =>
    let x := s.core c
    (match x.routine with | some r => meets r.start r.len | none => false) ||
      (decide (x.ended.1 = s.cycle) && meets x.ended.2.1 x.ended.2.2))

/-- Install a block: its words, then the entry with FMASK (R271). -/
def Cluster.install (c : Cluster) (lo idx hdr : Nat) (ws : List Nat) : Cluster :=
  { c with
    store := ((List.range ws.length).zip ws).foldl (fun m p => mset 0 m (lo + p.1) (BitVec.ofNat 32 p.2)) c.store
    table := mset 0 c.table idx (BitVec.ofNat 32 (hdr % 2 ^ 22 + hdr / 2 ^ 31 * 2 ^ 31 + feedMask ws * 2 ^ 22)) }

/-- Note the entry that an MPLOAD of cycle `now` replaces. -/
def Cluster.remember (c : Cluster) (now i : Nat) : Cluster :=
  { c with was := (now, (if c.was.1 = now then c.was.2 else []) ++ [(i, mget 0 c.table i)]) }

/-- The read that a waiting MPLOAD has under way, or a new one. -/
def State.blockRead (s : State) (bank : BitVec 4) (off : BitVec 12) : MRead :=
  match s.me.mread with
  | some m => if m.pc = s.iss.pc then m else { pc := s.iss.pc, bank := bank.toNat, off := 64 * off.toNat }
  | none => { pc := s.iss.pc, bank := bank.toNat, off := 64 * off.toNat }

/-- The bundle blocks and asks for the read of its routine block, whether or not the matrix slot is busy (R271). -/
def State.blockForRead (s : State) (m : MRead) : State := { s.block with iss := { s.iss with blocked := true, mread := some m } }

/-- MPLOAD of a routine (R271). An MRUN of the same cycle on another core: log 30 (DESIGN CHOICE). -/
def execMpload (g : BitVec 3) (idx : BitVec 8) (bank : BitVec 4) (off : BitVec 12) (s : State) : Out :=
  slotDo g s (fun s =>
    let m := s.blockRead bank off
    if !m.complete then s.blockForRead m
    else
      let core := s.me.core
      let k := coreCluster core
      let kn := s.kernel s.me.kernel
      let hdr := m.data % 2 ^ 32
      let lo := kn.uBase k + hdr % 2 ^ 11
      if s.matrixBusy core || s.wordsInUse k lo (blockLen hdr) then s.block
      else
        let cause := blockCause hdr m.words (decide (idx.toNat < kn.tLen ∧ hdr % 2 ^ 11 + blockLen hdr ≤ kn.uLen))
        let s1 := s.setMe { s.me with mread := none }
        if cause ≠ 0 then s1.trap 0x01 cause 0 0
        else
          let s2 := s1.setCluster k (((s1.cluster k).remember s.cycle (kn.tBase k + idx.toNat)).install lo (kn.tBase k + idx.toNat) hdr m.words)
          s2.setCore core { s2.core core with mbusy := s.cycle + 1 })

/-- MPLOAD.P (R253, R272): acts at issue; bits [57:36] are written as zero. -/
def execMploadP (g : BitVec 3) (k : BitVec 3) (sa : BitVec 6) (s : State) : Out :=
  mSlot g s (fun s =>
    let c := s.me
    s.setMe { c with mp := mset 0 c.mp k.toNat (c.s sa &&& 0xFC00000FFFFFFFFF#64) })

/-! ### LEND and RECL (R273) -/

/-- A result of an earlier bundle is in flight to a register of bank k. -/
def State.bankInFlight (s : State) (k : Nat) : Bool :=
  let hit (v : RVal) : Bool := match v with | .v n _ _ _ => bankOfReg n == k | _ => false
  s.inflight.any (fun r => r.ctx == s.cur && r.issued != s.cycle && hit r.val) || s.me.sheet.any (fun e => hit e.val)

/-- LEND (R273). -/
def execLend (g : BitVec 3) (k : BitVec 4) (s : State) : Out :=
  mSlot g s (fun s =>
    if s.bankInFlight k.toNat then s.trap 0x06 0x01 k.toNat 0
    else if s.me.lent.getLsbD k.toNat then s.trap 0x06 0x04 k.toNat 0
    else s.atEnd (.lend k.toNat true))

/-- RECL (R273). -/
def execRecl (g : BitVec 3) (k : BitVec 4) (s : State) : Out :=
  mSlot g s (fun s =>
    if s.me.lent.getLsbD k.toNat then s.atEnd (.lend k.toNat false) else s.trap 0x06 0x03 k.toNat 0)

/-! ### MSTR (R292, R294, R295) -/

/-- First byte of an entry's save area, from the start of the cluster scratchpad (R292). -/
def State.saveByte (s : State) (u : Nat) (x : SEntry) : Nat :=
  (s.kernel (s.ctx u).kernel).clBase (coreCluster (s.ctx u).core) + 4096 * x.save

/-- Save the tile of an entry: 4 KiB, row-major, as a pending write of context `u` (R294). -/
def State.streamSave (s : State) (u core : Nat) (x : SEntry) : State :=
  let c := s.ctx u
  let w : Wr := ⟨s.nextId, clLoc (coreCluster core) (s.saveByte u x), 4096, (s.tile core x.tile).acc.toNat⟩
  { s.setCtx u { c with outbox := c.outbox ++ [w] } with nextId := s.nextId + 1 }

/-- Restore it as the context reads (R294). -/
def State.streamRestore (s : State) (u core : Nat) (x : SEntry) : State :=
  let c := s.ctx u
  let v := s.readSharedRun core c.view c.outbox (clLoc (coreCluster core) (s.saveByte u x)) 4096
  s.setTile core x.tile { acc := BitVec.ofNat 32768 v }

/-- A save or restore holds the core's matrix slot until t + 16 (R294). -/
def State.holdSlot (s : State) (core : Nat) : State :=
  s.setCore core { s.core core with mhold := max (s.core core).mhold (s.cycle + 16) }

/-- An MSTR: guard, busy slot, requirement, then its effect (R294). Only a kernel that uses the stream table reaches its
entries (R292): for another no requirement holds (log 32). -/
def mstrSlot (g e : BitVec 3) (s : State) (ok : SEntry → Bool) (act : SEntry → State → State) : Out :=
  mSlot g s (fun s =>
    let x := s.sentry s.me.core e.toNat
    if (s.kernel s.me.kernel).strm && ok x then act x s else s.trap 0x0D 0x08 0 0)

/-- MSTR.OPEN. What the tile held is not kept (R252): until its first step it holds a free value. -/
def execMstrOpen (g e tile : BitVec 3) (save : BitVec 10) (s : State) : Out :=
  mstrSlot g e s
    (fun x => decide (x.state = .closed) && (s.held s.me.core tile.toNat).isNone &&
      decide (4096 * save.toNat + 4096 ≤ (s.kernel s.me.kernel).clLen))
    (fun _ s =>
      let x : SEntry := { state := .opened, bench := coreBench s.me.core, ctx := s.cur, tile := tile.toNat, rst := true,
                          save := save.toNat }
      ((s.setTile s.me.core tile.toNat { acc := Config.freeTile s.freeCtr }).draw).setSentry s.me.core e.toNat x)

/-- MSTR.PAUSE. -/
def execMstrPause (g e : BitVec 3) (s : State) : Out :=
  mstrSlot g e s (fun x => decide (x.state = .opened ∧ x.ctx = s.cur))
    (fun x s => ((s.streamSave s.cur s.me.core x).holdSlot s.me.core).setSentry s.me.core e.toNat { x with state := .paused })

/-- MSTR.RESUME. -/
def execMstrResume (g e : BitVec 3) (s : State) : Out :=
  mstrSlot g e s
    (fun x => decide (x.state = .paused ∧ x.ctx = s.cur ∧ x.bench = coreBench s.me.core) &&
      (s.held s.me.core x.tile).isNone)
    (fun x s => ((s.streamRestore s.cur s.me.core x).holdSlot s.me.core).setSentry s.me.core e.toNat { x with state := .opened })

/-- MSTR.RESET. -/
def execMstrReset (g e : BitVec 3) (s : State) : Out :=
  mstrSlot g e s (fun x => decide (x.state ≠ .closed ∧ x.ctx = s.cur))
    (fun x s => s.setSentry s.me.core e.toNat { x with rst := true, cn := 0 })

/-- MSTR.CLOSE. -/
def execMstrClose (g e : BitVec 3) (s : State) : Out :=
  mstrSlot g e s (fun x => decide (x.state ≠ .closed ∧ x.ctx = s.cur))
    (fun x s =>
      let s1 := if x.state = .opened then (s.streamSave s.cur s.me.core x).holdSlot s.me.core else s
      s1.setSentry s.me.core e.toNat {})

/-- A context is frozen or trapped: each OPEN entry is saved and its tile released (R295). -/
def State.streamsAway (s : State) (u : Nat) : State :=
  let core := (s.ctx u).core
  (List.range 8).foldl (fun t e =>
    let x := t.sentry core e
    if x.state = .opened ∧ x.ctx = u ∧ !x.away then
      (t.streamSave u core x).setSentry core e { x with away := true, cn := 0, h0 := 0, rows := [] }
    else t) s

/-- EXIT closes every entry the context owns, saving those that are OPEN (R295). -/
def State.streamsClose (s : State) (u : Nat) : State :=
  let core := (s.ctx u).core
  (List.range 8).foldl (fun t e =>
    let x := t.sentry core e
    if x.state = .closed ∨ x.ctx ≠ u then t
    else ((if x.state = .opened ∧ !x.away then t.streamSave u core x else t).setSentry core e {})) s

/-- The tiles that a saved context's OPEN entries need are free on a core of its cluster (R295). -/
def State.streamsFit (s : State) (u core : Nat) : Bool :=
  (List.range 8).all (fun e =>
    let x := s.sentry core e
    !(decide (x.state = .opened ∧ x.ctx = u) && x.away) || (s.held core x.tile).isNone)

/-- On resume each saved entry is restored to the slice of the core the context resumes on (R295). -/
def State.streamsBack (s : State) (u core : Nat) : State :=
  (List.range 8).foldl (fun t e =>
    let x := t.sentry core e
    if x.state = .opened ∧ x.ctx = u ∧ x.away then
      (t.streamRestore u core x).setSentry core e { x with away := false, bench := coreBench core }
    else t) s

end Sys2Proof.Machine
end

