-- ==== Sys2Proof/Machine/LoadStore.lean ====
section
/-! DEFINITION. The L and S slots: VLD, VLDG, SLD, MLD (R193), VLDT (R194), VLDB (R195), VST, SST, MST (R196), VSTX
(R197) and PUTQ (R290). -/

namespace Sys2Proof.Machine

/-- Note the bank of the L or S slot's access (R183). -/
def State.useBank (s : State) (side : Side) (b : Nat) : State :=
  let s' := s.addUsed s.me.core b
  { s' with iss := match side with
      | .consumer => { s'.iss with lBank := some b }
      | .producer => { s'.iss with sBank := some b } }

/-- Cause of a bank conflict of this slot, if any (R184): the S slot with the L slot's bank, then feeds, then the spoil
bank. -/
def State.lsConflict (s : State) (side : Side) (b : Nat) : Option Nat :=
  if side = .producer ∧ s.iss.lBank = some b then some 0x01 else s.bankConflict b

/-- An L or S slot: guard, wait, lent banks, bank conflict, queue trap, and its access with bank, offset and shape
register (R181, R184, R187, R424). The swap and An's post-increment follow. -/
def lsSlot (f : LF) (side : Side) (align : Nat) (regs : List Nat) (s : State)
    (act : Nat → Nat → Word → State → State) : Out :=
  slotDo f.g s (fun s => s.withQueue side f.spa (fun unmet s => s.withRegs regs (fun s =>
    let cls := if side = .consumer then 0 else 1
    let sh := (s.me.swapIf cls f.sh.toNat f.sw).shapeOf cls f.sh.toNat
    let p := effAddr s.me side f.spa (shapeOrg sh) align
    match s.lsConflict side p.1 with
    | some c => s.trap 0x03 c p.1 0
    | none =>
      if unmet then s.trap 0x0E 0x01 0 0
      else
        let s1 := act p.1 p.2 sh (s.useBank side p.1)
        if s1.iss.trapped.isSome then s1
        else
          let s2 := s1.spaInc f.spa
          s2.setMe (s2.me.swapIf cls f.sh.toNat f.sw))))

/-- A load of runs of a bank, (offset, bytes) each: poisoned bytes take the machine-check trap (R399), after the other conditions of
the slot (DESIGN CHOICE, log 52); otherwise the value read, lowest run first. -/
def State.loadRuns (s : State) (bank : Nat) (runs : List (Nat × Nat)) (act : Nat → State → State) : State :=
  let core := s.me.core
  if runs.any (fun r => s.bankPoisoned core bank r.1 r.2) then s.trap 0x0A 0x01 0 0
  else act (runs.foldr (fun r v => readBank s.mem core bank r.1 r.2 + 256 ^ r.2 * v) 0) s

/-- A whole V register as a result. -/
def State.deferWhole (s : State) (lat d : Nat) (t : ETy) (v : Nat) : State :=
  s.defer lat (.v (physV s.me.vrot d) (BitVec.ofNat 4096 v) (BitVec.allOnes 4096) t) 0

/-- VLD (R193). -/
def execVld (f : LF) (s : State) : Out :=
  lsSlot f .consumer 64 [f.opd.toNat] s (fun b o _ s =>
    s.loadRuns b [(o, 512)] (fun v s => s.deferWhole 4 f.opd.toNat f.ty v))

/-- The segments of VLDG: 512/g of them, g bytes each, 32·PITCH apart (R193). -/
def segments (o : Nat) (sh : Word) : List (Nat × Nat) :=
  let g := 32 * 2 ^ shapeSeg sh
  (List.range (512 / g)).map (fun m => (o + 32 * shapePitch sh * m, g))

/-- VLDG (R193). -/
def execVldg (f : LF) (s : State) : Out :=
  lsSlot f .consumer 64 [f.opd.toNat] s (fun b o sh s =>
    s.loadRuns b (segments o sh) (fun v s => s.deferWhole 4 f.opd.toNat f.ty v))

/-- SLD (R193). -/
def execSld (f : LF) (s : State) : Out :=
  lsSlot f .consumer 8 [] s (fun b o _ s =>
    s.loadRuns b [(o, 8)] (fun v s => s.deferS 4 (f.opd.setWidth 6) (BitVec.ofNat 64 v)))

/-- MLD (R193). -/
def execMld (f : LF) (s : State) : Out :=
  lsSlot f .consumer 128 [] s (fun b o _ s =>
    s.loadRuns b [(o, 128)] (fun v s => s.defer 4 (.m (f.opd.setWidth 4) (BitVec.ofNat 1024 v) (BitVec.allOnes 1024)) 0))

/-- The 16 rows of a transposing access (R194, R197). -/
def tileRuns (o : Nat) (sh : Word) : List (Nat × Nat) :=
  (List.range 16).map (fun r => (o + 32 * shapePitch sh * r, 32))

/-- Lane 16·c + r is element (r, c) of 16 rows of 256/w columns (R194). -/
def transposeIn (w v : Nat) : Nat :=
  packLanes w ((List.range (4096 / w)).map (fun i => laneAt w v (256 / w * (i % 16) + i / 16)))

/-- The inverse (R197). -/
def transposeOut (w v : Nat) : Nat :=
  packLanes w ((List.range (4096 / w)).map (fun i => laneAt w v (16 * (i % (256 / w)) + i / (256 / w))))

/-- VLDT (R194). -/
def execVldt (f : LF) (s : State) : Out :=
  lsSlot f .consumer 64 [f.opd.toNat] s (fun b o sh s =>
    s.loadRuns b (tileRuns o sh) (fun v s => s.deferWhole 6 f.opd.toNat f.ty (transposeIn f.ty.width v)))

/-- Lanes of parity `k` of 1,024 lanes of `st`, converted (R195). -/
def unpackHalf (st dt : ETy) (v k : Nat) : Nat :=
  packLanes dt.width ((List.range 512).map (fun i => (convert rneModes st dt false i (laneAt st.width v (2 * i + k))).1))

/-- VLDB (R195). -/
def execVldb (f : LF) (s : State) : Out :=
  let st := (ETy.ofCode (f.opx.toNat % 16)).getD .i4
  lsSlot f .consumer 64 [f.opd.toNat, f.opd.toNat + 1] s (fun b o _ s =>
    s.loadRuns b [(o, 512)] (fun v s =>
      (s.deferWhole 4 f.opd.toNat f.ty (unpackHalf st f.ty v 0)).deferWhole 4 (f.opd.toNat + 1) f.ty
        (unpackHalf st f.ty v 1)))

/-- A store, performed at its bank 2 c after issue (R183, R196). -/
def State.storeAt (s : State) (bank : Nat) (pieces : List (Nat × Nat × Nat × Nat)) : State :=
  { s with stores := s.stores ++
      [{ ctx := some s.cur, due := s.cycle + 2, core := s.me.core, bank := bank, pieces := pieces }] }

/-- Bits of the lanes of type `t` that a mask selects. -/
def laneMask (t : ETy) (m : MReg) : Nat :=
  packLanes t.width ((List.range t.lanes).map (fun i => if laneOn m i then 2 ^ t.width - 1 else 0))

/-- VST (R196); the mask register is OPX[3:0]. -/
def execVst (f : LF) (s : State) : Out :=
  lsSlot f .producer 64 [f.opd.toNat] s (fun b o _ s =>
    s.storeAt b [(o, 512, (s.me.vr f.opd.toNat).toNat, laneMask f.ty (s.me.mask (f.opx.setWidth 4)))])

/-- SST (R196). -/
def execSst (f : LF) (s : State) : Out :=
  lsSlot f .producer 8 [] s (fun b o _ s =>
    s.storeAt b [(o, 8, (s.me.s (f.opd.setWidth 6)).toNat, 2 ^ 64 - 1)])

/-- MST (R196). -/
def execMst (f : LF) (s : State) : Out :=
  lsSlot f .producer 128 [] s (fun b o _ s =>
    s.storeAt b [(o, 128, (s.me.mask (f.opd.setWidth 4)).toNat, 2 ^ 1024 - 1)])

/-- VSTX (R197): rows in ascending order, so the higher row wins an overlap. -/
def execVstx (f : LF) (s : State) : Out :=
  lsSlot f .producer 64 [f.opd.toNat] s (fun b o sh s =>
    let v := transposeOut f.ty.width (s.me.vr f.opd.toNat).toNat
    s.storeAt b ((List.range 16).map (fun r =>
      ((o + 32 * shapePitch sh * r) % 2 ^ 18, 32, v / 2 ^ (256 * r) % 2 ^ 256, 2 ^ 256 - 1))))

/-! ### PUTQ (R289, R290) -/

/-- The context of kernel `kn` bound, or saved, at hardware context `hw` of a core (R290, R291). -/
def State.boundOf (s : State) (kn core hw : Nat) : Option Nat :=
  (s.ctxs.find? (fun e => decide (e.2.core = core ∧ e.2.hw = hw ∧ e.2.kernel = kn ∧
    e.2.life ≠ .unbound ∧ e.2.life ≠ .exited))).map Prod.fst

/-- FREE of an inbound handle (R289). -/
def QHandle.free (h : QHandle) : Nat := h.occ - h.fill - h.infl

/-- PUTQ's effect at issue (R290). -/
def State.putqGo (s : State) (t : Nat) (q : Nat) (vs : Nat) : State :=
  let d := s.me.vr vs
  let s1 := s.publishCtx s.cur .cluster
  let c := s1.ctx t
  let h := c.qh q
  let s2 := s1.setCtx t (c.setQh q { h with infl := h.infl + 1 })
  let p : Putq := { id := s2.nextId, target := t, q := q, data := d, due := s2.cycle + 4 + s2.free }
  { (s2.useBus s.me.core).draw with nextId := s2.nextId + 1, putqs := s2.putqs ++ [p] }

/-- PUTQ (R290); a WAIT beyond the slots of the handle it names takes cause 0x09 (R54), before it could block (R62). -/
def execPutq (g : BitVec 3) (vs : BitVec 11) (ben ctx : BitVec 2) (q : BitVec 4) (wait : BitVec 9) (s : State) : Out :=
  slotDo g s (fun s =>
    let core := s.me.core
    let k := coreCluster core
    let b := coreBench core
    let kn := s.kernel s.me.kernel
    let tgt := s.boundOf s.me.kernel (clusterCore k ben.toNat) ctx.toNat
    let h := match tgt with | some t => (s.ctx t).qh q.toNat | none => {}
    let bad := tgt.isNone || h.count == 0 || decide (h.size < 8)
    if h.count != 0 && decide (h.count < wait.toNat) then s.trap 0x01 0x09 0 0
    else if kn.ownsSlot b && (kn.slotOwner s.cycle != b || (s.k1Now k).any (fun x => x.1 == b)) then s.block
    else if kn.ownsSlot b && !bad && (decide (h.free < wait.toNat) || tgt.any (fun t => (s.ctx t).moving)) then s.block
    else s.withRegs [vs.toNat] (fun s =>
      match tgt with
      | some t =>
        if bad then s.trap 0x0E 0x05 0 0
        else if !kn.ownsSlot b then s.trap 0x0E 0x06 0 0
        else s.putqGo t q.toNat vs.toNat
      | none => s.trap 0x0E 0x05 0 0))

end Sys2Proof.Machine
end

