-- ==== Sys2Proof/Machine/Translate.lean ====
section
/-! DEFINITION. Memory-side addresses (R302, R406), page tables and TLBs (R312, R313), the location of a byte, and the
home of a signal word (R323). -/

namespace Sys2Proof.Machine

/-! ### Page-table entries (R312) -/

/-- Bits of an entry. -/
def pteValid (e : Nat) : Bool := e.testBit 0
def pteR (e : Nat) : Bool := e.testBit 1
def pteW (e : Nat) : Bool := e.testBit 2
def pteLeaf (e : Nat) : Bool := e.testBit 6
def pteC64 (e : Nat) : Bool := e.testBit 7
def pteHost (e : Nat) : Bool := e.testBit 59
def pteMt (e : Nat) : Nat := e / 2 ^ 60 % 4
def ptePin (e : Nat) : Bool := e.testBit 62
def pteCc (e : Nat) : Bool := e.testBit 63
/-- PA field, as an address. -/
def ptePa (e : Nat) : Nat := e / 2 ^ 12 % 2 ^ 40 * 2 ^ 12

/-- A physical address is the start of a direct frame (R329, R332). -/
def directFrame (ncc pa : Nat) : Bool := decide (directBase ≤ pa) && decide (pa % 2 ^ 21 = 0) && (paLoc ncc pa).isSome

/-- A valid entry at a level is malformed (R312, R329, R332). -/
def pteBad (ncc level e : Nat) : Bool :=
  e / 2 ^ 3 % 8 != 0 || e / 2 ^ 8 % 16 != 0 || e / 2 ^ 52 % 128 != 0 ||
  (pteLeaf e && level == 1) || (!pteLeaf e && level == 4) ||
  (pteLeaf e && level == 2 && ptePa e % 2 ^ 30 != 0) || (pteLeaf e && level == 3 && ptePa e % 2 ^ 21 != 0) ||
  (pteCc e && !(pteLeaf e && level == 3 && ptePin e && pteMt e == 0 && !pteHost e && directFrame ncc (ptePa e))) ||
  (pteLeaf e && !pteHost e && (paLoc ncc (ptePa e)).isNone)

/-- What a walk finds. -/
inductive Walk where
  | absent
  | malformed
  /-- A leaf, with the base and size of the page it maps. -/
  | leaf (pte base size : Nat)
deriving DecidableEq, Repr

/-- Sixteen entries of a level-4 table, aligned to 64 KiB, that map one page: each is valid, with C64 = 1 (R312). -/
def c64Group (s : State) (table va : Nat) : Bool :=
  (List.range 16).all (fun i =>
    let e := s.readPa (table + 8 * (va / 65536 % 32 * 16 + i)) 8
    pteValid e && pteC64 e)

/-- The leaf of a 64 KiB page. The engine may use any of its entries, each for the whole page: their choice is free, and the entry's
PA gives bits [51:16] (R312, log 17). -/
def c64Leaf (s : State) (table va : Nat) : Walk :=
  let e := s.readPa (table + 8 * (va / 65536 % 32 * 16 + s.free % 16)) 8
  if pteBad s.ncc 4 e then .malformed else .leaf (e - ptePa e % 65536) (va / 65536 * 65536) 65536

/-- Walk `k` levels from a table (R312); entries are read as DEVICE reads. -/
def walkFrom (s : State) (va : Nat) : Nat → Nat → Walk
  | 0, _ => .malformed
  | k + 1, table =>
    let page := 2 ^ (12 + 9 * k)
    let e := s.readPa (table + 8 * (va / page % 512)) 8
    if !pteValid e then .absent
    else if k = 0 ∧ c64Group s table va then c64Leaf s table va
    else if pteBad s.ncc (4 - k) e then .malformed
    else if pteLeaf e then .leaf e (va / page * page) page
    else walkFrom s va k (ptePa e)

/-- The walk of an address space; a space with no root has no page (log 17). -/
def State.walk (s : State) (asid va : Nat) : Walk :=
  match mget none s.roots asid with
  | some r => walkFrom s va 4 r
  | none => .absent

/-! ### TLBs (R313) -/

/-- Second-level TLB of a die, after the 128 copy engines' own. -/
def dieTlb (d : Nat) : Nat := 128 + d

def State.tlb (s : State) (e : Nat) : List TlbEnt := mget [] s.tlbs e

/-- An entry of a TLB that maps the address. -/
def tlbFind (l : List TlbEnt) (asid va : Nat) : Option TlbEnt :=
  l.find? (fun t => decide (t.asid = asid ∧ t.base ≤ va ∧ va < t.base + t.size))

/-- Put an entry into a TLB of `n` entries; the oldest leaves. -/
def State.tlbPut (s : State) (e n : Nat) (t : TlbEnt) : State :=
  if (s.tlb e).contains t then s else { s with tlbs := mset [] s.tlbs e ((t :: s.tlb e).take n) }

/-- No TLB holds an entry that a test names. -/
def State.dropTlbs (s : State) (hit : TlbEnt → Bool) : State :=
  let tl := s.tlbs.map (fun e => (e.1, e.2.filter (fun t => !(hit t))))
  { s with tlbs := tl.filter (fun e => !e.2.isEmpty) }

/-- A leaf for an address through engine `e` of die `d`: an entry a TLB holds, or the table as it stands; which of the
two is free while one is held (R313). -/
def State.leafOf (s : State) (e d asid va : Nat) : Walk × State :=
  let fresh (s : State) : Walk × State :=
    match s.walk asid va with
    | .leaf pte base size =>
      let t : TlbEnt := { asid := asid, base := base, size := size, pte := pte }
      (.leaf pte base size, ((if size = 65536 then s.draw else s).tlbPut e 256 t).tlbPut (dieTlb d) 16384 t)
    | w => (w, s)
  match (tlbFind (s.tlb e) asid va).or (tlbFind (s.tlb (dieTlb d)) asid va) with
  | some t => if s.free % 2 = 1 then (.leaf t.pte t.base t.size, s.draw) else fresh s.draw
  | none => fresh s

/-- Location of a byte under a leaf; none outside device DRAM (R329). A HOST page lies in host memory (R312). -/
def leafLoc (ncc pte base va : Nat) : Option Nat :=
  let pa := ptePa pte + (va - base)
  if pteHost pte then some (hostLoc pa) else paLoc ncc pa

/-! ### Memory-side address words (R302, R406) -/

/-- An address word, read. -/
inductive AddrWord where
  | bad
  | virt (va : Nat)
  | die (off : Nat)
  | cluster (off : Nat)
  | fabric (dev exp off : Nat)
deriving DecidableEq, Repr

/-- R302: a reserved SPACE or a bit its SPACE leaves unused makes the word bad. -/
def addrWord (w : BitVec 64) : AddrWord :=
  let n := w.toNat
  let a := n % 2 ^ 60
  match n / 2 ^ 60 with
  | 0 => if a < 2 ^ 48 then .virt a else .bad
  | 1 => if a < 2 ^ 28 then .die a else .bad
  | 2 => if a < 2 ^ 22 then .cluster a else .bad
  | 4 => .fabric (n / 2 ^ 51 % 512) (n / 2 ^ 43 % 256) (n % 2 ^ 43)
  | _ => .bad

/-- FABCFG (R403). -/
def State.fabEn (s : State) : Bool := s.fabcfg.getLsbD 19
def State.fabMax (s : State) : Nat := s.fabcfg.toNat / 2 ^ 10 % 512
def State.fabId (s : State) : Nat := s.fabcfg.toNat % 512

/-- A leaf maps one of the bytes `lo` to `hi` − 1 of a channel (R329): those of a direct page are in a row, as those of each granule
are; an interleaved page of 1 MiB or more holds whole rows of granules over all channels. -/
def leafHolds (ncc pte size ch lo hi : Nat) : Bool :=
  let pa := ptePa pte
  let meets (a n : Nat) : Bool := decide (a < dramLoc ch hi ∧ dramLoc ch lo < a + n)
  match paLoc ncc pa with
  | none => false
  | some a =>
    if directBase ≤ pa then meets a size
    else if size < 2 ^ 20 then (List.range (size / 4096)).any (fun i => (paLoc ncc (pa + 4096 * i)).any (fun b => meets b 4096))
    else
      let top := min (pa + size) (2 ^ 29 * (1024 - ncc))
      decide (pa / 2 ^ 20 * 4096 < hi ∧ lo < (top + 2 ^ 20 - 1) / 2 ^ 20 * 4096)

/-- A leaf maps bytes of a FILTER entry, valid or with its revocation pending: its rights are kept clear (R350, R351). -/
def State.closedPage (s : State) (pte size : Nat) : Bool :=
  !(pteHost pte) && s.caps.any (fun e => (e.2.valid || s.revokes.any (fun r => r.key == e.1)) && e.2.filter &&
    leafHolds s.ncc pte size (32 * (e.1 / 8192) + e.2.ch) (64 * e.2.base) (64 * e.2.base + 64 * e.2.len))

/-! ### The leaves of the page tables (R311, R312, R350) -/

/-- A leaf of a page table: the physical address of its entry, the entry, and the size of the page that it maps. -/
structure Leaf where
  at_  : Nat
  pte  : Nat
  size : Nat
deriving DecidableEq, Repr

/-- The leaves of a table, `k` levels down: those of entries that are valid and not malformed. Each of the sixteen entries of a 64 KiB page
maps the whole of it (R312). -/
def leavesFrom (s : State) : Nat → Nat → List Leaf
  | 0, _ => []
  | k + 1, table =>
    (List.range 512).flatMap (fun i =>
      let a := table + 8 * i
      let e := s.readPa a 8
      if !pteValid e || pteBad s.ncc (4 - k) e then []
      else if pteLeaf e then [⟨a, e, if k = 0 ∧ c64Group s table (4096 * i) then 65536 else 2 ^ (12 + 9 * k)⟩]
      else leavesFrom s k (ptePa e))

/-- The leaves of every address space, each entry once. -/
def State.leaves (s : State) : List Leaf := (s.roots.flatMap (fun e => (e.2.map (leavesFrom s 4)).getD [])).eraseDups

/-- First byte of the page that an entry maps, and the entry with that address (R312). -/
def pageStart (pte size : Nat) : Nat := ptePa pte / size * size
def Leaf.whole (l : Leaf) : Nat := l.pte - ptePa l.pte % l.size

/-- The page lies, in part or whole, in a range of physical addresses of host or device memory. -/
def Leaf.meets (l : Leaf) (host : Bool) (base size : Nat) : Bool :=
  pteHost l.pte == host && decide (pageStart l.pte l.size < base + size ∧ base < pageStart l.pte l.size + l.size)

/-- The largest page of an address space that holds the page a leaf maps: first byte and size. Pages lie at multiples of their size, so
each of two that meet holds the other or lies in it. -/
def State.blockOf (s : State) (pte size : Nat) : Nat × Nat :=
  (s.leaves.filter (fun l => l.meets (pteHost pte) (pageStart pte size) size)).foldl
    (fun b l => if b.2 < l.size then (pageStart l.pte l.size, l.size) else b) (pageStart pte size, size)

/-! ### Rights under a FILTER entry (R350, R351) -/

/-- An entry without its R and W rights. -/
def pteShut (e : Nat) : Nat := e - e / 2 % 4 * 2

/-- The leaf maps bytes of a FILTER entry. -/
def State.covers (s : State) (l : Leaf) : Bool := s.closedPage l.whole l.size

/-- The rights of a leaf are cleared. -/
def State.shutLeaf (s : State) (l : Leaf) : State :=
  { s.writePa l.at_ 8 (pteShut l.pte) with shut := mset 0 s.shut l.at_ l.pte }

/-- The command processor keeps R and W clear in every leaf that maps bytes of a FILTER entry (R350): it clears them as it creates the
entry, as an address space is bound, and where the host changes a table (DESIGN CHOICE for the times, log 57). -/
def State.keepShut (s : State) : State :=
  if s.caps.any (fun e => e.2.filter) then
    (s.leaves.filter (fun l => (pteR l.pte || pteW l.pte) && s.covers l)).foldl State.shutLeaf s
  else s

/-- It restores the rights of the leaves that no FILTER entry covers any more, where nothing has changed them since (R351). -/
def State.reopen (s : State) : State :=
  let still := (s.leaves.filter s.covers).map Leaf.at_
  s.shut.foldl (fun t e =>
    if still.contains e.1 then t
    else
      let u := { t with shut := mset 0 t.shut e.1 0 }
      if u.readPa e.1 8 = pteShut e.2 then u.writePa e.1 8 e.2 else u) s

/-! ### Signal words (R323) -/

/-- What an operation on a signal word needs of its page. -/
inductive SigUse where
  | add | store | wait
deriving DecidableEq, Repr

/-- Rights needed: R and W for ADD, W for STORE, R for SWAIT (R323); they are clear under a FILTER entry (R350). -/
def SigUse.allowed (u : SigUse) (e : Nat) : Bool :=
  match u with
  | .add => pteR e && pteW e
  | .store => pteW e
  | .wait => pteR e

/-- Location of a signal word for a kernel on a core; none where R302 or R323 refuses the word, an offset outside the
kernel's share included (log 18). -/
def State.signalHome (s : State) (kernel core : Nat) (use : SigUse) (w : BitVec 64) : Option Nat :=
  let k := s.kernel kernel
  match addrWord w with
  | .virt va =>
    if va % 8 ≠ 0 then none
    else
      match s.walk k.asid va with
      | .leaf e base size =>
        if ptePin e && !pteHost e && use.allowed e && !(s.closedPage e size) then leafLoc s.ncc e base va else none
      | _ => none
  | .die o => if o % 8 = 0 ∧ o + 8 ≤ k.dieLen then some (dieLoc (coreDie core) (k.dieBase (coreDie core) + o)) else none
  | .cluster o => if o % 8 = 0 ∧ o + 8 ≤ k.clLen then some (clLoc (coreCluster core) (k.clBase (coreCluster core) + o)) else none
  | _ => none

/-- The word at its home: the latest write of the system commit point at its place (R111, log 19). -/
def State.homeValue (s : State) (loc : Nat) : Nat := s.readSysRun loc 8

end Sys2Proof.Machine
end

