-- ==== Sys2Proof/Machine/Sync.lean ====
section
/-! DEFINITION. The Y slot: FENCE (R117), QADV (R198), TWAIT, TWANY, TFIND, TCLR (R192, R199 to R201), BAR (R296), SIGNAL
(R110, R323), SWAIT (R324), LAUNCH (R322), EXPOSE (R387), YIELD (R207), the steps in which their waits end, and EXIT and
TRAP of the X slot (R130, R140). -/

namespace Sys2Proof.Machine

/-! ### FENCE (R117) -/

/-- The last cycle in which a store of context `u` is performed, where one is still to come. -/
def State.lastStore (s : State) (u : Nat) : Option Nat :=
  (s.stores.filter (fun x => x.ctx == some u)).foldl (fun m x => some (max (m.getD 0) x.due)) none

/-- FENCE: at CTX and CORE it waits for stores only; wider ones begin in the cycle after the stores and take a time the
spec does not fix (R117). -/
def execFence (g : BitVec 3) (sc : Scope) (ord : Ord) (s : State) : Out :=
  slotDo g s (fun s =>
    match scopeLevel sc, s.lastStore s.cur with
    | none, none => s
    | none, some d => s.setMe { s.me with pend := .fence sc ord d }
    | some _, d => (s.setMe { s.me with pend := .fence sc ord (max s.cycle (d.getD 0) + 1 + s.free) }).draw)

/-- The next bundle issues no earlier than the next cycle. -/
def Ctx.resumeNext (c : Ctx) (now : Nat) : Ctx := { c with pend := .none, readyAt := max c.readyAt (now + 1) }

/-- SCMarker: a marker at the commit point of the scope (R117, R118). -/
def State.scMarker (s : State) (core : Nat) (sc : Scope) : State :=
  match scopeLevel sc with
  | some L => { s.appendOrder (domainOf core L) [⟨s.nextId, 0, 0, 0⟩] with nextId := s.nextId + 1 }
  | none => s

/-- Publish, marker and Acquire of a FENCE (R117). -/
def State.fenceActs (s : State) (u : Nat) (sc : Scope) (ord : Ord) : State :=
  let core := (s.ctx u).core
  let s1 := if ord = .acq then s else s.publishCtx u sc
  let s2 := if ord = .sc then s1.scMarker core sc else s1
  if ord = .rel then s2 else s2.acquireCtx u sc

/-- A FENCE may complete: its stores are performed, its time has come, and a Publish(SYS) has its remote writes delivered
(R117, R411). -/
def State.fenceReady (s : State) (u : Nat) (sc : Scope) (ord : Ord) (at_ : Nat) : Bool :=
  decide (at_ ≤ s.cycle) && (s.lastStore u).isNone && !(sc == .sys && ord != .acq && s.undelivered (s.ctx u).outbox)

/-- FENCE_COMPLETE of a context. -/
def execFenceComplete (u : Nat) (s : State) : Out :=
  match (s.ctx u).pend with
  | .fence sc ord at_ =>
    if s.fenceReady u sc ord at_ then
      let s1 := if (scopeLevel sc).isSome then s.fenceActs u sc ord else s
      let c := (s1.ctx u).resumeNext s1.cycle
      .next (s1.setCtx u { c with pre := c.pre.later s1.cycle })
    else .next s
  | _ => .next s

/-! ### QADV (R198) -/

/-- The count of a QADV. -/
def Ctx.qcount (c : Ctx) : QCnt → Nat
  | .imm k => k.toNat
  | .reg sb => (c.s sb).toNat

/-- QADV at one end of a handle: a handle of no slots takes cause 0x09 (R187), a bad count the queue trap (R189, R198);
otherwise the handle moves at the end of the cycle. -/
def State.qadvance (s : State) (q : BitVec 4) (tail : Bool) (k : Nat) : State :=
  let h := s.me.qh q.toNat
  let room := if tail then h.count - h.fill else h.fill
  if h.count = 0 then s.trap 0x01 0x09 0 0
  else if 256 < k ∨ room < k then s.trap 0x0E 0x03 0 0
  else if tail ∧ h.occ < h.fill + k then s.trap 0x0E 0x02 0 0
  else s.atEnd (.qadv q.toNat tail k)

/-- QADV.H. -/
def execQadvH (g : BitVec 3) (q : BitVec 4) (k : QCnt) (s : State) : Out :=
  slotDo g s (fun s => s.qadvance q false (s.me.qcount k))

/-- QADV.T. -/
def execQadvT (g : BitVec 3) (q : BitVec 4) (k : QCnt) (s : State) : Out :=
  slotDo g s (fun s => s.qadvance q true (s.me.qcount k))

/-! ### Tags (R190 to R192, R199 to R201) -/

/-- Tags of a mask that are idle. -/
def Ctx.idleIn (c : Ctx) (m : BitVec 64) : BitVec 64 := m &&& ~~~(c.tagPend ||| c.tagSet)

/-- Observe the set tags of a mask: each view advances to the final view of their commands (R107 step 7). -/
def Ctx.observe (c : Ctx) (m : BitVec 64) : Ctx :=
  { c with view := c.tagView.foldl (fun v e => if (m &&& c.tagSet).getLsbD e.1 then v.join e.2 else v) c.view }

/-- The condition of a TWAIT or TWANY (R199). -/
def Ctx.tagsMet (c : Ctx) (any : Bool) (m : BitVec 64) : Bool :=
  m == 0 || (if any then (m &&& c.tagSet) != 0 else (m &&& ~~~c.tagSet) == 0)

/-- TWAIT or TWANY at issue: a wait that cannot complete takes the queue trap, cause 0x04 (R192); a wait that is met
observes; any other blocks the context. -/
def State.tagWait (s : State) (any : Bool) (m : BitVec 64) : State :=
  let c := s.me
  let idle := c.idleIn m
  if (if any then m != 0 && idle == m else idle != 0) then s.trap 0x0E 0x04 0 0
  else if c.tagsMet any m then s.setMe (c.observe m)
  else s.setMe { c with pend := .twait any m }

/-- TWAIT. -/
def execTwait (g : BitVec 3) (sa : BitVec 6) (s : State) : Out := slotDo g s (fun s => s.tagWait false (s.me.s sa))

/-- TWANY. -/
def execTwany (g : BitVec 3) (sa : BitVec 6) (s : State) : Out := slotDo g s (fun s => s.tagWait true (s.me.s sa))

/-- A context is bound and not saved (R116, R217): its waits can end. -/
def State.active (s : State) (u : Nat) : Bool :=
  let c := s.ctx u
  decide (c.life = .running ∧ c.resumeAt ≤ s.cycle)

/-- TAG_WAIT_COMPLETE of a context. -/
def execTagWaitComplete (u : Nat) (s : State) : Out :=
  let c := s.ctx u
  match c.pend with
  | .twait any m => .next (if s.active u && c.tagsMet any m then s.setCtx u ((c.observe m).resumeNext s.cycle) else s)
  | _ => .next s

/-- Lowest set bit. -/
def lowBit (m : BitVec 64) : Option Nat := (List.range 64).find? (fun j => m.getLsbD j)

/-- TFIND (R200). -/
def execTfind (g : BitVec 3) (sd sa : BitVec 6) (s : State) : Out :=
  slotDo g s (fun s =>
    let c := s.me
    match lowBit (c.tagSet &&& c.s sa) with
    | some j =>
      (s.setMe (c.observe (BitVec.ofNat 64 (2 ^ j)))).deferS 1 sd
        ((mget 0 c.tagRec j &&& ~~~(255#64)) ||| BitVec.ofNat 64 j)
    | none => s.deferS 1 sd 64)

/-- Tags of a mask that are set become idle, their records zero (R201). -/
def Ctx.clearTags (c : Ctx) (m : BitVec 64) : Ctx :=
  { c with
    tagSet := c.tagSet &&& ~~~m
    tagRec := c.tagRec.filter (fun e => !((m &&& c.tagSet).getLsbD e.1))
    tagView := c.tagView.filter (fun e => !((m &&& c.tagSet).getLsbD e.1)) }

/-- TCLR (R201). -/
def execTclr (g : BitVec 3) (sa : BitVec 6) (s : State) : Out := slotDo g s (fun s => s.setMe (s.me.clearTags (s.me.s sa)))

/-! ### BAR (R296) -/

/-- BAR. -/
def execBar (g : BitVec 3) (sc : Scope) (id : BitVec 2) (s : State) : Out :=
  slotDo g s (fun s =>
    let s1 := if sc = .cluster then s.publishCtx s.cur .cluster else s
    s1.setMe { s1.me with pend := .bar sc id.toNat false })

/-- Context `d` is a participant of a barrier of context `c` (R296). -/
def barPeer (c d : Ctx) (sc : Scope) : Bool :=
  decide (d.kernel = c.kernel ∧ d.life ≠ .unbound) &&
    (if sc = .cluster then coreCluster d.core == coreCluster c.core else d.core == c.core)

/-- The participant has arrived: it waits at the same barrier, or it has exited. -/
def barArrived (d : Ctx) (sc : Scope) (id : Nat) : Bool := d.life == .exited || d.pend == .bar sc id false

/-- The barrier at which context `u` waits is complete. -/
def State.barDone (s : State) (u : Nat) : Bool :=
  let c := s.ctx u
  match c.pend with
  | .bar sc id false => (s.ctxs.map Prod.snd).all (fun d => !(barPeer c d sc) || barArrived d sc id)
  | _ => false

/-- One participant goes on: Acquire for CLUSTER now, or at resume where it is saved (R296). -/
def State.barGo (s : State) (u : Nat) (sc : Scope) (id : Nat) : State :=
  let c := s.ctx u
  if c.life = .running then
    let s1 := if sc = .cluster then s.acquireCtx u .cluster else s
    s1.setCtx u ((s1.ctx u).resumeNext s1.cycle)
  else s.setCtx u { c with pend := .bar sc id true }

/-- BAR_COMPLETE: the first complete barrier lets its participants go. -/
def execBarComplete (s : State) : Out :=
  match (s.ctxs.map Prod.fst).find? (fun u => s.barDone u) with
  | none => .next s
  | some u =>
    let c := s.ctx u
    match c.pend with
    | .bar sc id _ =>
      let peers := (s.ctxs.filter (fun e => barPeer c e.2 sc && e.2.pend == .bar sc id false)).map Prod.fst
      .next (peers.foldl (fun t v => t.barGo v sc id) s)
    | _ => .next s

/-! ### SIGNAL (R110, R323) -/

/-- SIGNAL: Publish at issue, then the update on its way to the word's home; a refused word is reported and marks the
kernel failed. -/
def State.signalOp (s : State) (add : Bool) (sc : Scope) (w v : BitVec 64) : State :=
  let s1 := s.publishCtx s.cur sc
  let c := s1.me
  match s1.signalHome c.kernel c.core (if add then .add else .store) w with
  | some loc =>
    let va := match addrWord w with | .virt a => some ((s1.kernel c.kernel).asid, a) | _ => none
    let x : Sig := { id := s1.nextId, ctx := s1.cur, loc := loc, add := add, val := v, due := s1.cycle + 1 + s1.free, va := va }
    { s1.draw with nextId := s1.nextId + 1, sigs := s1.sigs ++ [x] }
  | none =>
    let s2 := s1.setKernel c.kernel { s1.kernel c.kernel with failed := true }
    { s2 with reports := s2.reports ++ [.signal s2.cur w] }

/-- SIGNAL.ADD; the bundle waits for what its Publish must find delivered (R411). -/
def execSignalAdd (g : BitVec 3) (sc : Scope) (sa sb : BitVec 6) (s : State) : Out :=
  slotDo g s (fun s => if s.publishWaits sc then s.block else s.signalOp true sc (s.me.s sa) (s.me.s sb))

/-- SIGNAL.STORE. -/
def execSignalStore (g : BitVec 3) (sc : Scope) (sa sb : BitVec 6) (s : State) : Out :=
  slotDo g s (fun s => if s.publishWaits sc then s.block else s.signalOp false sc (s.me.s sa) (s.me.s sb))

/-- The word's value after an update (R323). -/
def Sig.apply (x : Sig) (old : Nat) : Nat := if x.add then (old + x.val.toNat) % 2 ^ 64 else x.val.toNat

/-- No earlier update of the same context goes to the same word (R323). -/
def State.sigFirst (s : State) (x : Sig) : Bool :=
  !(s.sigs.any (fun y => decide (y.id < x.id ∧ y.ctx = x.ctx ∧ y.loc = x.loc)))

/-- SIGNAL_UPDATE: the update is performed at the word's home (R110). -/
def execSignalUpdate (id : Nat) (s : State) : Out :=
  match s.sigs.find? (fun x => x.id == id) with
  | some x =>
    if s.sigFirst x then
      let s1 := s.writeSys x.loc 8 (x.apply (s.homeValue x.loc))
      .next { s1 with sigs := s1.sigs.filter (fun y => y.id != id) }
    else .next s
  | none => .next s

/-! ### SWAIT (R324) -/

/-- SWAIT. -/
def execSwait (g : BitVec 3) (sc : Scope) (sd sa sb : BitVec 6) (ticks : BitVec 26) (s : State) : Out :=
  slotDo g s (fun s =>
    let c := s.me
    match s.signalHome c.kernel c.core .wait (c.s sa) with
    | some _ =>
      (s.setMe { c with pend := .swait sc sd (c.s sa) (c.s sb) ticks.toNat s.scht (s.cycle + s.free) }).draw
    | none => s.deferS 1 sd 2)

/-- A result of a context's wait, written in the next cycle. -/
def State.waitResult (s : State) (u : Nat) (sd : BitVec 6) (v : BitVec 64) : State :=
  let r : Res := { ctx := u, due := s.cycle + 1, issued := s.cycle, slot := 7, val := .s sd v, flags := 0 }
  { s with inflight := s.inflight ++ [r] }

/-- The word of a waiting SWAIT has reached its value. -/
def State.swaitMet (s : State) (u : Nat) : Bool :=
  let c := s.ctx u
  match c.pend with
  | .swait _ _ w v _ _ at_ =>
    match s.signalHome c.kernel c.core .wait w with
    | some loc => decide (at_ ≤ s.cycle ∧ v.toNat ≤ s.homeValue loc)
    | none => false
  | _ => false

/-- SWAIT_COMPLETE: Acquire, then SD ← 0 in the next cycle. A word that its page no longer allows ends the wait as a
refused one does (R324, log 20). -/
def execSwaitComplete (u : Nat) (s : State) : Out :=
  let c := s.ctx u
  match c.pend with
  | .swait sc sd w _ _ _ at_ =>
    if !(s.active u) then .next s
    else if s.swaitMet u then
      let s1 := s.acquireCtx u sc
      .next ((s1.setCtx u ((s1.ctx u).resumeNext s1.cycle)).waitResult u sd 0)
    else if (s.signalHome c.kernel c.core .wait w).isNone ∧ at_ ≤ s.cycle then
      .next ((s.setCtx u (c.resumeNext s.cycle)).waitResult u sd 2)
    else .next s
  | _ => .next s

/-- The tick limit of a waiting SWAIT has passed (R324). -/
def State.swaitLate (s : State) (u : Nat) : Bool :=
  match (s.ctx u).pend with
  | .swait _ _ _ _ ticks start _ => decide (ticks ≠ 0 ∧ start + ticks ≤ s.scht)
  | _ => false

/-- SWAIT_TIMEOUT: SD ← 1 in the next cycle, without an acquire. -/
def execSwaitTimeout (u : Nat) (s : State) : Out :=
  match (s.ctx u).pend with
  | .swait _ sd _ _ _ _ _ =>
    .next (if s.active u && s.swaitLate u then (s.setCtx u ((s.ctx u).resumeNext s.cycle)).waitResult u sd 1 else s)
  | _ => .next s

/-! ### LAUNCH, EXPOSE, YIELD -/

/-- LAUNCH (R322). -/
def execLaunch (g : BitVec 3) (sd sa : BitVec 6) (s : State) : Out :=
  slotDo g s (fun s =>
    if s.publishWaits .sys then s.block else
    let s1 := s.publishCtx s.cur .sys
    let c := s1.me
    let k := s1.kernel c.kernel
    if k.launched < k.children then
      let n := k.launched + 1
      let s2 := s1.setKernel c.kernel { k with launched := n }
      let x : Child := { parent := c.kernel, num := n, word := c.s sa, since := s2.scht }
      ({ s2 with pool := s2.pool ++ [x] }).deferS 1 sd (BitVec.ofNat 64 n)
    else (s1.setKernel c.kernel { k with lovf := true }).deferS 1 sd 0)

/-- EXPOSE: bit 2 into OVF and bit 0 into NAN of the kernel's exposure register (R387). -/
def execExpose (g : BitVec 3) (sa : BitVec 6) (s : State) : Out :=
  slotDo g s (fun s =>
    let v := s.me.s sa
    match (s.kernel s.me.kernel).expo with
    | some x =>
      let e := mget {} s.expos x
      { s with expos := mset {} s.expos x { e with ovf := e.ovf || v.getLsbD 2, nan := e.nan || v.getLsbD 0 } }
    | none => s)

/-- YIELD (R207). -/
def execYield (g : BitVec 3) (s : State) : Out := slotDo g s (fun s => s.atEnd .yield)

/-! ### EXIT and TRAP (R130, R140) -/

/-- The context ends: results in flight after this cycle are discarded, the spoil stack is emptied, its stream entries are closed; a FENCE
of the same bundle still completes (R130, R295). -/
def State.endContext (s : State) (u : Nat) : State :=
  let s1 := s.streamsClose u
  let c := s1.ctx u
  let p : Pending := match c.pend with | .fence sc ord at_ => .fence sc ord at_ | _ => .none
  let sp := { c.sp with depth := 0, frames := 0, spill := 0, top := 0, pay := [] }
  let s2 := s1.setCtx u { c with
    life := .exited, pend := p, fq := [], loop := none, pre := .none, sheet := [], sp := sp, rfault := none }
  { s2 with inflight := s2.inflight.filter (fun r => r.ctx != u || decide (r.due ≤ s.cycle)) }

/-- EXIT (R140). -/
def execExit (g : BitVec 3) (code : XSrc) (s : State) : Out :=
  slotDo g s (fun s =>
    let c := s.me
    let k := s.kernel c.kernel
    (s.setKernel c.kernel { k with exit := k.exit ||| (c.xsrcZ code).setWidth 32 }).endContext s.cur)

/-- TRAP (R140). -/
def execTrap (g : BitVec 3) (code : XSrc) (s : State) : Out :=
  slotDo g s (fun s => s.softTrap ((s.me.xsrcZ code).toNat % 2 ^ 32))

end Sys2Proof.Machine
end

