-- ==== Sys2Proof/Machine/Record.lean ====
section
/-! DEFINITION. The state record of a context (R213, R215): its areas as a context is saved, what reaches them while it is saved
(R116, R274), and the context that they restore (R217). The places that R215 leaves open are those of log 10. -/

namespace Sys2Proof.Machine

/-! ### Words and fields -/

/-- `n` words of `w` bytes, the first lowest. -/
def packWords (w n : Nat) (f : Nat → Nat) : Nat := packLanes (8 * w) ((List.range n).map f)

/-- The `n` words of `w` bytes of a value. -/
def splitWords (w n x : Nat) : List Nat := (List.range n).map (fun i => x / 2 ^ (8 * w * i) % 2 ^ (8 * w))

/-- The table of a list of values by their places, those at the default left out. -/
def tableOf {α : Type} [DecidableEq α] (d : α) (l : List α) : Map α :=
  ((List.range l.length).zip l).filter (fun e => decide (e.2 ≠ d))

/-- Fields of given widths, the first lowest. -/
def packFields : List (Nat × Nat) → Nat
  | [] => 0
  | (w, v) :: l => v % 2 ^ w + 2 ^ w * packFields l

/-- The fields of given widths of a value. -/
def splitFields : List Nat → Nat → List Nat
  | [], _ => []
  | w :: l, x => x % 2 ^ w :: splitFields l (x / 2 ^ w)

/-- The `i`-th of a list of numbers. -/
def nth (l : List Nat) (i : Nat) : Nat := (l[i]?).getD 0

/-! ### Handles, latches, entries -/

/-- The two words of a handle (R186). -/
def QHandle.words (h : QHandle) : Nat :=
  h.base + h.bank * 2 ^ 12 + h.size * 2 ^ 16 + h.count * 2 ^ 28 + h.head * 2 ^ 37 + h.tail * 2 ^ 45 + h.fill * 2 ^ 53 +
    h.occ * 2 ^ 64

/-- The handle of two words. -/
def QHandle.ofWords (x : Nat) : QHandle :=
  let f := splitFields [12, 4, 12, 9, 8, 8, 9, 2, 9] x
  { base := nth f 0, bank := nth f 1, size := nth f 2, count := nth f 3, head := nth f 4, tail := nth f 5, fill := nth f 6
    occ := nth f 8 }

/-- A partial sum in 24 bytes: its kind, the exponent of a fraction, and its pattern or integer (log 10). -/
def PSum.code : PSum → Nat
  | .fp b => packFields [(2, 0), (8, 0), (182, b.toNat)]
  | .int z => packFields [(2, 1), (8, 0), (182, (BitVec.ofInt 182 z).toNat)]
  | .frac k d => packFields [(2, 2), (8, d), (182, (BitVec.ofInt 182 k).toNat)]

/-- The partial sum of 24 bytes. -/
def PSum.ofCode (x : Nat) : PSum :=
  let v := x / 2 ^ 10 % 2 ^ 182
  match x % 4 with
  | 0 => .fp (BitVec.ofNat 32 v)
  | 1 => .int (BitVec.ofNat 182 v).toInt
  | _ => .frac (BitVec.ofNat 182 v).toInt (x / 4 % 2 ^ 8)

/-- A latch in 256 bytes (R166): PROF, Q, N and the depth of STK, ACC, PASS, the top of STK, and a word for each lower entry,
which is an FP32 pattern (log 10). -/
def Latch.code (l : Latch) : Nat :=
  let top : PSum × Nat := (l.stk.head?).getD (.fp 0, 1)
  packFields [(4, l.prof), (4, l.q), (24, l.n), (8, l.stk.length), (24, Nat.log2 top.2), (192, l.acc.code), (192, l.pass.code),
    (192, top.1.code)] + 2 ^ 640 * packLanes 64 (l.stk.tail.map (fun e => e.1.pat.toNat + Nat.log2 e.2 * 2 ^ 32))

/-- The latch of 256 bytes. -/
def Latch.ofCode (x : Nat) : Latch :=
  let f := splitFields [4, 4, 24, 8, 24, 192, 192, 192] x
  let low (i : Nat) : PSum × Nat :=
    let w := x / 2 ^ (640 + 64 * i)
    (.fp (BitVec.ofNat 32 w), 2 ^ (w / 2 ^ 32 % 2 ^ 5))
  { prof := nth f 0, q := nth f 1, n := nth f 2, acc := PSum.ofCode (nth f 5), pass := PSum.ofCode (nth f 6)
    stk := if nth f 3 = 0 then [] else
      (PSum.ofCode (nth f 7), 2 ^ (nth f 4 % 2 ^ 5)) :: (List.range (min (nth f 3 - 1) 22)).map low }

/-- A tensor-table entry as 128 bytes: fields 0 to 15 in order, a word each (R143, R215; log 10). -/
def TEntry.words (e : TEntry) : Nat := packWords 8 16 (fun k => (e.read k).toNat)

/-- The entry of 128 bytes. LOC and SCALE are taken as they stand, because a KIND may be written after them (R143); another word
outside its field's range leaves the field at reset (log 10). -/
def TEntry.ofWords (x : Nat) : TEntry :=
  (List.range 16).foldl (fun e k =>
    let v : Word := BitVec.ofNat 64 (x / 2 ^ (64 * k))
    if k == 6 || k == 7 || tdwOk e k v then e.write k v else e) {}

/-- Key of the `i`-th shape word of the record: live, then shadow (R215; log 10). -/
def shapeAt (i : Nat) : Nat := shapeKey (i / 4 % 4) (i % 4) (decide (16 ≤ i))

/-- Shape register of a class as it stands in the record. -/
def Ctx.shapeWord (c : Ctx) (i : Nat) : Nat := (mget 0 c.shape (shapeAt i)).toNat

/-! ### Contact-sheet entries (R213) -/

/-- CLASS, INDEX and TY of a result. -/
def RVal.klass : RVal → Nat × Nat × Nat
  | .v n _ _ t => (0, n, t.code)
  | .s n _ => (1, n.toNat, 0)
  | .a n _ => (2, n.toNat, 0)
  | .m n _ _ => (3, n.toNat, 0)
  | .latch k _ => (4, k, 0)
  | .wid _ => (5, 12, 0)

/-- The value of a chunk sum in eight bytes: an exact integer, or an FP32 pattern. -/
def PSum.word : PSum → BitVec 64
  | .int z => BitVec.ofInt 64 z
  | s => s.pat.zeroExtend 64

/-- Lane-enable field and payload of a result; after the eight bytes of a chunk sum stands its 24-byte form (log 10). -/
def RVal.body : RVal → Nat × Nat
  | .v _ val mask t => (packLanes 1 ((List.range t.lanes).map (fun i => if laneAt t.width mask.toNat i = 0 then 0 else 1)), val.toNat)
  | .s _ val => (0, val.toNat)
  | .a _ val => (0, val.toNat)
  | .m _ val mask => (mask.toNat, val.toNat)
  | .latch _ S => (0, S.word.toNat + S.code * 2 ^ 64)
  | .wid val => (0, val.toNat)

/-- A contact-sheet entry as 656 bytes. -/
def SheetEntry.bytes (e : SheetEntry) : Nat :=
  let k := e.val.klass
  let b := e.val.body
  e.off * 2 ^ 60 + e.age * 2 ^ 56 + e.slot * 2 ^ 53 + k.1 * 2 ^ 50 + k.2.1 * 2 ^ 39 + k.2.2 * 2 ^ 35 + e.flags.toNat * 2 ^ 28 +
    b.1 * 2 ^ 128 + b.2 * 2 ^ 1152

/-- The result of an entry's class, index, type, lane enables and payload; none for a reserved class. -/
def RVal.ofParts (cls idx ty en pay : Nat) : Option RVal :=
  match cls with
  | 0 =>
    let t := (ETy.ofCode ty).getD .i4
    let mask := packLanes t.width ((List.range t.lanes).map (fun i => if en.testBit i then 2 ^ t.width - 1 else 0))
    some (.v idx (BitVec.ofNat 4096 pay) (BitVec.ofNat 4096 mask) t)
  | 1 => some (.s (BitVec.ofNat 6 idx) (BitVec.ofNat 64 pay))
  | 2 => some (.a (BitVec.ofNat 4 idx) (BitVec.ofNat 32 pay))
  | 3 => some (.m (BitVec.ofNat 4 idx) (BitVec.ofNat 1024 pay) (BitVec.ofNat 1024 en))
  | 4 => some (.latch (idx % 4) (PSum.ofCode (pay / 2 ^ 64 % 2 ^ 192)))
  | 5 => some (.wid (BitVec.ofNat 64 pay))
  | _ => none

/-- The entry of 656 bytes. -/
def SheetEntry.ofBytes (x : Nat) : Option SheetEntry :=
  (RVal.ofParts (x / 2 ^ 50 % 8) (x / 2 ^ 39 % 2048) (x / 2 ^ 35 % 16) (x / 2 ^ 128 % 2 ^ 1024) (x / 2 ^ 1152 % 2 ^ 4096)).map
    (fun v => { off := x / 2 ^ 60 % 16, age := x / 2 ^ 56 % 16, slot := x / 2 ^ 53 % 8, val := v, flags := BitVec.ofNat 7 (x / 2 ^ 28) })

/-! ### Tags, and the area at 0x3350 -/

/-- The states of the 64 tags, 2 bits each: 0 idle, 1 pending, 2 set (log 10). -/
def Ctx.tagStates (c : Ctx) : Nat :=
  packLanes 2 ((List.range 64).map (fun j => if c.tagSet.getLsbD j then 2 else if c.tagPend.getLsbD j then 1 else 0))

/-- The tags of a given state. -/
def tagsIn (st x : Nat) : BitVec 64 :=
  BitVec.ofNat 64 (packLanes 1 ((List.range 64).map (fun j => if x / 4 ^ j % 4 = st then 1 else 0)))

/-- Widths of the fields of a loop record: in force, ROT, stepped over, stages, bundles met, I, count, iteration, start, end. -/
def loopWidths : List Nat := [1, 1, 1, 8, 16, 80, 80, 80, 64, 64]

/-- The loop state (R127). -/
def Ctx.loopFields (c : Ctx) : List Nat :=
  match c.loop with
  | some l => [1, l.rot.toNat, l.skip.toNat, l.stg, l.met, l.total, l.cnt, l.iter, l.start, l.fin]
  | none => [0, 0, 0, 0, 0, 0, 0, 0, 0, 0]

/-- The loop record of its fields; its bundles are fetched again (R211). -/
def loopOf (f : List Nat) : Option LoopRec :=
  if nth f 0 = 1 then
    some { start := nth f 8, total := nth f 5, cnt := nth f 6, stg := nth f 3, rot := nth f 1 == 1, iter := nth f 7, met := nth f 4
           fin := nth f 9, skip := nth f 2 == 1, buf := [] }
  else none

/-- Remaining GAP, work position and range end, lent banks, PC of the next bundle. -/
def workWidths : List Nat := [64, 128, 128, 16, 64]
def Ctx.workFields (c : Ctx) : List Nat := [c.gapLeft, c.next, c.rangeHi, c.lent.toNat, c.pc]

/-- A scope as a number. -/
def scopeCode : Scope → Nat
  | .ctx => 0 | .core => 1 | .cluster => 2 | .die => 3 | .pkg => 4 | .sys => 5

def scopeOf : Nat → Scope
  | 0 => .ctx | 1 => .core | 2 => .cluster | 3 => .die | 4 => .pkg | _ => .sys

/-- A pending wait: its kind, TWANY, scope, destination, mask or word, value, tick limit, start tick. -/
def pendWidths : List Nat := [2, 1, 3, 6, 64, 64, 26, 64]
def Pending.fields : Pending → List Nat
  | .twait any m => [1, any.toNat, 0, 0, m.toNat, 0, 0, 0]
  | .swait sc sd w v ticks start _ => [2, 0, scopeCode sc, sd.toNat, w.toNat, v.toNat, ticks, start]
  | _ => [0, 0, 0, 0, 0, 0, 0, 0]

/-- The wait of its fields; a barrier's stays with the barrier (R296). -/
def Pending.ofFields (old : Pending) (f : List Nat) : Pending :=
  match old with
  | .bar .. => old
  | _ =>
    match nth f 0 with
    | 1 => .twait (nth f 1 == 1) (BitVec.ofNat 64 (nth f 4))
    | 2 => .swait (scopeOf (nth f 2)) (BitVec.ofNat 6 (nth f 3)) (BitVec.ofNat 64 (nth f 4)) (BitVec.ofNat 64 (nth f 5))
        (nth f 6) (nth f 7) 0
    | _ => .none

/-- The area at 0x3350 (log 10). -/
def areaWidths : List Nat := loopWidths ++ workWidths ++ pendWidths
def Ctx.areaFields (c : Ctx) : List Nat := c.loopFields ++ c.workFields ++ c.pend.fields

/-! ### The record -/

/-- Control registers of a context (R121). -/
def State.cregOf (s : State) (u k : Nat) : Nat :=
  ({ s with cur := u, iss := { s.iss with pc := (s.ctx u).pc } }.creg (BitVec.ofNat 4 k)).toNat

/-- The areas of the state record: offset, bytes, value. -/
def State.recordAreas (s : State) (u : Nat) : List (Nat × Nat × Nat) :=
  let c := s.ctx u
  [(0x00000, 512, packWords 8 64 (fun i => (c.s (BitVec.ofNat 6 i)).toNat)),
   (0x00200, 128, packWords 8 16 (fun i => (c.a (BitVec.ofNat 4 i)).toNat)),
   (0x00280, 2048, packWords 128 16 (fun i => (c.mask (BitVec.ofNat 4 i)).toNat)),
   (0x00A80, 256, packWords 16 16 (fun i => (c.qh i).words)),
   (0x00B80, 1024, packWords 256 4 (fun i => (c.latch i).code)),
   (0x00F80, 64, packWords 8 8 (fun i => (c.mpr i).toNat)),
   (0x00FC0, 256, packWords 8 32 (fun i => c.shapeWord i)),
   (0x010C0, 8192, packWords 128 64 (fun i => (c.te i).words)),
   (0x030C0, 128, packWords 8 16 (fun i => s.cregOf u i)),
   (0x03140, 16, c.tagStates),
   (0x03150, 512, packWords 8 64 (fun i => (mget 0 c.tagRec i).toNat)),
   (0x03350, 176, packFields (areaWidths.zip c.areaFields)),
   (0x03400, 65536, c.sp.top),
   (0x13400, 8, c.sheet.length),
   (0x13408, 656 * 192, packLanes (8 * 656) (c.sheet.map SheetEntry.bytes))]

/-- Bytes of the record of a context as the command processor reads them now. -/
def State.recordBytes (s : State) (u off n : Nat) : Nat := State.readPaLong (n / 4096 + 2) s (s.recordPa u + off) n

/-- The places of a tag: the tag states and the tag's record. -/
def Ctx.tagAreas (tag : Nat) (c : Ctx) : List (Nat × Nat × Nat) :=
  [(0x03140, 16, c.tagStates), (0x03150 + 8 * tag, 8, (mget 0 c.tagRec tag).toNat)]

/-- The places of an end-of-cycle write that a routine makes after its context's save: a bias, or MSTAT (R263, R283). -/
def EndWrite.areas (w : EndWrite) (c : Ctx) : List (Nat × Nat × Nat) :=
  match w with
  | .bias tid _ => [(0x010C0 + 128 * tid + 32, 8, ((c.te tid).read 4).toNat)]
  | .report .. | .fault .. => [(0x030C0 + 8 * 13, 8, c.mstat.toNat)]
  | _ => []

/-! ### Restoring (R217) -/

/-- The spoil stack from SPTOP, SPBASE, SPLIM and the bytes of its top (R221, R245). -/
def Spoil.restored (sptop spbase splim top : Nat) : Spoil :=
  let depth := sptop % 2 ^ 20
  let spill := sptop / 2 ^ 36
  { depth := depth, frames := sptop / 2 ^ 20 % 2 ^ 16, spill := spill, base := spbase / 2 ^ 9 % 2 ^ 9
    bank := spbase / 2 ^ 18 % 2 ^ 4, lim := splim / 2 ^ 9 % 2 ^ 10, top := top % 256 ^ (depth - spill) }

/-- The context with the registers, tables and waits of its record, given by offset and length; its inbound handles stay with the
cluster (R291). -/
def Ctx.restored (c : Ctx) (rd : Nat → Nat → Nat) : Ctx :=
  let cr := splitWords 8 16 (rd 0x030C0 128)
  let cw (k : Nat) : BitVec 64 := BitVec.ofNat 64 (nth cr k)
  let f := splitFields areaWidths (rd 0x03350 176)
  let st := rd 0x03140 16
  { c with
    sr := tableOf 0 (((splitWords 8 64 (rd 0x00000 512)).map (BitVec.ofNat 64)).set 0 0)
    ar := tableOf 0 ((splitWords 8 16 (rd 0x00200 128)).map (BitVec.ofNat 32))
    m := tableOf 0 (((splitWords 128 16 (rd 0x00280 2048)).map (BitVec.ofNat 1024)).set 0 0)
    q := tableOf {} (((splitWords 16 16 (rd 0x00A80 256)).map QHandle.ofWords).take 12 ++ (List.range 4).map (fun i => c.qh (12 + i)))
    pl := tableOf {} ((splitWords 256 4 (rd 0x00B80 1024)).map Latch.ofCode)
    mp := tableOf 0 ((splitWords 8 8 (rd 0x00F80 64)).map (BitVec.ofNat 64))
    shape := tableOf 0 ((List.range 32).map (fun k =>
      BitVec.ofNat 64 (nth (splitWords 8 32 (rd 0x00FC0 256)) (4 * (k / 8) + k / 2 % 4 + 16 * (k % 2)))))
    t := tableOf {} ((splitWords 128 64 (rd 0x010C0 8192)).map TEntry.ofWords)
    fpcr := (cw 1).setWidth 5, fpstat := (cw 2).setWidth 7, seed := cw 3, srctr := cw 4, stage := (cw 5).setWidth 8 &&& 0xFE#8
    vrot := nth cr 7 % 1024, wid := cw 12, mstat := cw 13
    sp := Spoil.restored (nth cr 9) (nth cr 10) (nth cr 11) (rd 0x03400 65536)
    tagPend := tagsIn 1 st, tagSet := tagsIn 2 st
    tagRec := tableOf 0 ((splitWords 8 64 (rd 0x03150 512)).map (BitVec.ofNat 64))
    loop := loopOf (f.take 10), gapLeft := nth f 10, next := nth f 11, rangeHi := nth f 12, lent := BitVec.ofNat 16 (nth f 13)
    pc := nth f 14, pend := c.pend.ofFields (f.drop 15)
    sheet := (splitWords 656 (min (rd 0x13400 8) 192) (rd 0x13408 (656 * 192))).filterMap SheetEntry.ofBytes }

/-- V registers as the record's vector area holds them (R214, R215). -/
def vectorBytes (v : Map (BitVec 4096)) : Nat := v.foldl (fun x e => x + e.2.toNat * 2 ^ (4096 * e.1)) 0

/-- The V registers of the vector area. -/
def vectorsOf (x : Nat) : Map (BitVec 4096) := tableOf 0 ((splitWords 512 2048 x).map (BitVec.ofNat 4096))

end Sys2Proof.Machine
end

