-- ==== Sys2Proof/Machine/Engine.lean ====
section
/-! DEFINITION. Engine commands: the issue of a C slot (R56, R107, R181, R190, R303, R304), the completion of a command
(R107 steps 5 and 6, R190, R191, R411), and its shared-place accesses (R103, R109, R410). -/

namespace Sys2Proof.Machine

/-- A command by its identifier. -/
def State.cmd? (s : State) (id : Nat) : Option Cmd := mget none s.cmds id

def State.setCmd (s : State) (c : Cmd) : State := { s with cmds := mset none s.cmds c.id (some c) }

/-- The commands in flight, in order of issue. -/
def State.cmdList (s : State) : List Cmd := s.cmds.filterMap (fun e => e.2)

/-- A routine that context `u` started is running. -/
def State.runsRoutine (s : State) (u : Nat) : Bool :=
  s.cores.any (fun e => match e.2.routine with | some r => r.ctx == u | none => false)

/-- A hardware context holds a context, or work of one that has exited (R130, R274). -/
def State.occupies (s : State) (u : Nat) : Bool :=
  let c := s.ctx u
  match c.life with
  | .unbound => false
  | .running => true
  | .frozen | .trapped => !c.released
  | .exited => s.runsRoutine u || s.cmdList.any (fun x => x.ctx == u)

/-- The command is still in its context's queue. -/
def Cmd.waiting (c : Cmd) : Bool := c.stage == .queued

/-- A collective stands in the queue of its die's collective engine; every other command in that of its cluster's copy
engine (R303, R341, R414). -/
def Job.isColl : Job → Bool
  | .coll _ => true
  | _ => false

/-- A near-memory or filter command (R341, R360). -/
def Job.isNm : Job → Bool
  | .nmcopy _ | .nmdot | .fsamp _ | .ftap | .ftick _ _ | .freset _ => true
  | _ => false

/-- The context's queue of that engine holds 16 commands (R303, R414). -/
def State.queueFull (s : State) (u : Nat) (coll : Bool) : Bool :=
  decide (16 ≤ (s.cmdList.filter (fun c => c.ctx == u && c.waiting && c.job.isColl == coll)).length)

/-- The commands after step 1 of R107: the tag is pending and its record zero (R190). -/
def Ctx.takeTag (c : Ctx) (tag : Nat) : Ctx :=
  let b : BitVec 64 := BitVec.ofNat 64 (2 ^ tag)
  { c with tagPend := c.tagPend ||| b, tagSet := c.tagSet &&& ~~~b, tagRec := merase c.tagRec tag
           tagView := merase c.tagView tag }

/-- S registers from SA on, `n` of them. -/
def Ctx.sRegs (c : Ctx) (sa : BitVec 6) (n : Nat) : List (BitVec 64) :=
  (List.range n).map (fun i => c.s (BitVec.ofNat 6 (sa.toNat + i)))

/-- A command enters its engine's queue (R107 steps 1 and 2). -/
def State.enqueue (s : State) (f : CF) (opc : Nat) (job : Job) (n : Nat) (bank off : Nat) : State :=
  let c := s.me.swapIf 2 f.sh.toNat f.sw
  let x : Cmd := {
    id := s.nextId, job := job, opc := opc, ctx := s.cur, kernel := c.kernel, asid := (s.kernel c.kernel).asid, core := c.core, hw := c.hw
    tag := f.tag.toNat, aq := f.aq, rl := f.rl, prof := s.iss.profile, words := c.sRegs f.sa n
    ch := c.shapeOf 2 f.sh.toNat, bank := bank, off := off, issued := s.cycle, tick := s.scht
    due := s.cycle + 1 + s.free, view := c.view }
  let s1 := (s.setMe (c.takeTag f.tag.toNat)).setCmd x
  { s1.draw with nextId := s1.nextId + 1 }

/-- A C-slot command with no scratchpad side: guard, pending tag, full queue (R48, R129, R190). -/
def cSlot (f : CF) (opc : Nat) (job : Job) (n : Nat) (s : State) : Out :=
  slotDo f.g s (fun s =>
    if s.me.tagPend.getLsbD f.tag.toNat || s.queueFull s.cur job.isColl then s.block
    else s.enqueue f opc job n 0 0)

/-- A C-slot command with a scratchpad side: the same with the waits of a queue-form operand and EffAddr, align 64 and
ORG 0 (R181, R187 to R189, R304). -/
def cSlotSpa (f : CF) (opc : Nat) (side : Side) (spa : Spa) (job : Job) (n : Nat) (s : State) : Out :=
  slotDo f.g s (fun s => s.withQueue side spa (fun unmet s =>
    if s.me.tagPend.getLsbD f.tag.toNat || s.queueFull s.cur job.isColl then s.block
    else if unmet then s.trap 0x0E 0x01 0 0
    else
      let p := effAddr s.me side spa 0 64
      (s.enqueue f opc job n p.1 p.2).spaInc spa))

/-! ### Fields of a command -/

/-- Word `i` of its operands. -/
def Cmd.word (c : Cmd) (i : Nat) : BitVec 64 := (c.words[i]?).getD 0

/-- Fields of the captured CH register (R305). -/
def Cmd.rows (c : Cmd) : Nat := c.ch.toNat / 2 ^ 52
def Cmd.rlen (c : Cmd) : Nat := c.ch.toNat / 2 ^ 39 % 2 ^ 13
def Cmd.mpitch (c : Cmd) : Nat := c.ch.toNat / 2 ^ 14 % 2 ^ 25
def Cmd.esz (c : Cmd) : Nat := c.ch.toNat / 2 ^ 12 % 4
def Cmd.spitch (c : Cmd) : Nat := c.ch.toNat % 2 ^ 12

/-! ### Completion -/

/-- A command ends with a status; what it has performed stays (R306, R338). -/
def Cmd.finish (c : Cmd) (status detail now : Nat) : Cmd :=
  { c with stage := .performed, status := status, detail := detail, due := now }

/-- Record of a tag (R191). -/
def tagRecord (status detail : Nat) : BitVec 64 := BitVec.ofNat 64 (detail % 2 ^ 48 * 2 ^ 16 + status % 256 * 2 ^ 8)

/-- The release scope, where it is CLUSTER or wider (R107 step 5). -/
def Cmd.release (c : Cmd) : Option Scope := c.rl.filter (fun sc => (scopeLevel sc).isSome)

/-- Step 5 of R107: Publish for the command, or its writes move to the end of its context's outbox; what a Publish leaves
pending moves there too (R410). -/
def State.releaseCmd (s : State) (c : Cmd) : Cmd × State :=
  let give (s : State) (l : List Wr) : State :=
    if l.isEmpty then s else s.setCtx c.ctx { s.ctx c.ctx with outbox := (s.ctx c.ctx).outbox ++ l }
  match c.release with
  | some sc =>
    let r := s.publish c.core sc c.view c.outbox
    ({ c with view := r.2.1, outbox := [] }, give r.1 r.2.2)
  | none => ({ c with outbox := [] }, give s c.outbox)

/-- Step 6: the engine writes the record and sets the tag in one cycle (R190), in the state record too where the context is
saved (R116); the command leaves, and its final view stays for grid completion (R114). -/
def State.setTag (s : State) (c : Cmd) : State :=
  let x := s.ctx c.ctx
  let b : BitVec 64 := BitVec.ofNat 64 (2 ^ c.tag)
  let x' := { x with
    tagPend := x.tagPend &&& ~~~b, tagSet := x.tagSet ||| b
    tagRec := mset 0 x.tagRec c.tag (tagRecord c.status c.detail), tagView := mset {} x.tagView c.tag c.view
    cmdView := x.cmdView.join c.view }
  { (s.setCtx c.ctx x').echo c.ctx (Ctx.tagAreas c.tag) with cmds := merase s.cmds c.id }

/-- The command may set its tag: every access is performed, and a Publish(SYS) has its remote writes delivered (R411). -/
def State.canComplete (s : State) (c : Cmd) : Bool :=
  c.stage == .performed && decide (c.due ≤ s.cycle) && !(c.release == some .sys && s.undelivered c.outbox)

/-- COMMAND_COMPLETION (R107 steps 5 and 6). -/
def execCommandCompletion (id : Nat) (s : State) : Out :=
  match s.cmd? id with
  | some c =>
    if s.canComplete c then
      let r := s.releaseCmd c
      .next (r.2.setTag r.1)
    else .next s
  | none => .next s

/-! ### Accesses to shared places -/

/-- Acquire of step 3 (R107). -/
def State.acquireCmd (s : State) (c : Cmd) : Cmd :=
  match c.aq with
  | some sc => { c with view := s.acquire c.core sc c.view }
  | none => c

/-- A run of bytes at one location: `n` bytes from `loc`, its memory type, the virtual address it was reached by. -/
structure Run where
  loc : Nat
  n   : Nat
  mt  : Nat := 0
  va  : Nat := 0
deriving DecidableEq, Repr

/-- A byte of another device's memory as a command reads it (R103, R411): its own pending write; else the latest write of this device
that its view covers, or a later one of another party, whose value is that party's (a free byte; `other` says which of the two); else a
free byte (log 21). -/
def State.remoteByte (s : State) (other : Bool) (v : View) (pend : List Wr) (a : Nat) : BitVec 8 :=
  match lastTo a pend, lastTo a ((s.order 131).take v.sys), other with
  | some w, _, _ => w.byteAt a
  | none, some w, false => w.byteAt a
  | _, _, _ => Config.freeByte (2 ^ 100 * s.freeCtr + a)

/-- `n` bytes of remote memory. -/
def State.remoteRun (s : State) (v : View) (pend : List Wr) (a : Nat) : Nat → Nat
  | 0 => 0
  | n + 1 => (s.remoteByte (s.free % 2 == 1) v pend a).toNat + 256 * s.remoteRun v pend (a + 1) n

/-- Physical address of a die's eviction buffer, where it is set. -/
def State.evictBase (s : State) (d : Nat) : Option Nat :=
  let v := mget 0 s.evbase d
  if v.getLsbD 63 then some (v.toNat / 2 ^ 28 % 2 ^ 24 * 2 ^ 28) else none

/-- A copy's write to places of a save slot that is in use goes to the die's eviction buffer too; `v` holds `n` bytes from offset
`o` of the die scratchpad, within one slot (R214). -/
def State.toBuffer (s : State) (d o n v : Nat) : State :=
  match s.evictBase d, mget none s.evicted (256 * d + o / 2 ^ 20) with
  | some pa, some _ => State.writePaLong 3 s (pa + o) n v
  | _, _ => s

/-- The same for a run, cut at the edge of a slot. -/
def State.mirror (s : State) (loc n v : Nat) : State :=
  if s.evicted.isEmpty || decide (loc < dieLoc 0 0) || decide (dieLoc 2 0 ≤ loc) then s
  else
    let d := (loc - dieLoc 0 0) / 2 ^ 28
    let o := (loc - dieLoc 0 0) % 2 ^ 28
    let m := min n (2 ^ 20 - o % 2 ^ 20)
    let s1 := s.toBuffer d o m (v % 256 ^ m)
    if m < n then s1.toBuffer d (o + m) (n - m) (v / 256 ^ m) else s1

/-- The device of a remote location. -/
def devOf (a : Nat) : Nat := (a - remoteLoc 0 0) / 2 ^ 64

/-- The plane of a command's transfers to a device (R405). -/
def Cmd.planeTo (c : Cmd) (dev : Nat) : Nat := ((c.routes.find? (fun r => r.1 == dev)).map Prod.snd).getD 0

/-- A location lies on another device (R410). -/
def isRemote (a : Nat) : Bool := decide (remoteLoc 0 0 ≤ a ∧ a < vregLoc 0 0)

/-- A read of a run by a command: DEVICE and STRONG at the system commit point, others by R103 (R109). -/
def State.readRunCmd (s : State) (c : Cmd) (r : Run) : Nat :=
  if isRemote r.loc then s.remoteRun c.view c.outbox r.loc r.n
  else if 2 ≤ r.mt then s.readSysRun r.loc r.n
  else s.readSharedRun c.core c.view c.outbox r.loc r.n

/-- A write of a run: dropped on a retired channel (R331); DEVICE and STRONG at once at the system commit point, others
into the engine outbox (R107, R109); a remote write enters its link queue too, with the job tag of its kernel's address space
(R407, R411). `bad` says the data carry a poison mark (R315). -/
def State.writeRunCmd (s : State) (c : Cmd) (r : Run) (v : Nat) (bad : Bool) : Cmd × State :=
  if s.deadAt r.loc then (c, s)
  else
    let s1 := if isRemote r.loc then s else if bad then s.taint r.loc r.n else s.clean r.loc r.n
    if 2 ≤ r.mt ∧ !(isRemote r.loc) then (c, s1.writeSys r.loc r.n v)
    else
      let w : Wr := ⟨s1.nextId, r.loc, r.n, v % 256 ^ r.n⟩
      let s2 := { s1 with nextId := s1.nextId + 1 }
      let c' := { c with outbox := c.outbox ++ [w] }
      if isRemote r.loc then
        let dev := devOf r.loc
        let key := 512 * c.planeTo dev + dev
        let e : LinkEnt := { cmd := c.id, wr := w, job := mget 0 s2.jobTags c.asid, due := s2.cycle + 1 + s2.free }
        (c', { s2.draw with links := mset [] s2.links key (mget [] s2.links key ++ [e]) })
      else (c', s2)

/-- A run read from a retired channel, or one that holds a poisoned unit, is poisoned (R315, R331, R399). -/
def State.runBad (s : State) (r : Run) : Bool :=
  s.deadAt r.loc || (!(isRemote r.loc) && s.poisoned r.loc r.n)

/-- `n` bytes of a bank that is lost with its bench: the spec gives no value (R299, log 41). -/
def lostBank (core bank off : Nat) : Nat → Nat
  | 0 => 0
  | n + 1 => (Config.lostByte (unitLoc core bank off)).toNat + 256 * lostBank core bank (off + 1) n

/-- Engine read of the scratchpad side: `n` bytes of a bank (R99). -/
def State.readPad (s : State) (core bank off n : Nat) : Nat :=
  if (s.bench (coreDie core) (coreBench core)).retired then lostBank core bank off n else readBank s.mem core bank off n

/-- The bytes that a command may find at an offset of a bank: that which stands there, and those that later stores have overwritten
(R99). -/
def State.padBytes (s : State) (c : Cmd) (bank off : Nat) : List Nat :=
  readBank s.mem c.core bank off 1 :: c.older.filterMap (fun o =>
    let i := (off + 2 ^ 18 - o.off % 2 ^ 18) % 2 ^ 18
    if o.bank = bank ∧ i < o.n then some (o.val / 256 ^ i % 256) else none)

/-- `n` bytes of a bank as a command reads them: each byte of a later store is seen or not, on its own (R99). -/
def State.cmdBytes (s : State) (c : Cmd) (bank off : Nat) : Nat → Nat
  | 0 => 0
  | n + 1 =>
    let o := off % 2 ^ 18
    let l := s.padBytes c bank o
    (l[Config.freeNat (2 ^ 100 * (s.freeCtr + 1) + unitLoc c.core bank o) % l.length]?).getD 0 + 256 * s.cmdBytes c bank (off + 1) n

/-- A command's read of the scratchpad side. -/
def State.readCmdPad (s : State) (c : Cmd) (bank off n : Nat) : Nat :=
  if c.older.isEmpty ∨ (s.bench (coreDie c.core) (coreBench c.core)).retired then s.readPad c.core bank off n else s.cmdBytes c bank off n

/-- Engine write of a bank, performed at once (R99), with the mark its data carry. -/
def State.writePad (s : State) (core bank off n v : Nat) (bad : Bool) : State :=
  let s1 := { s with mem := writeBank s.mem core bank off n v (256 ^ n - 1) }
  (List.range ((n + 63) / 64)).foldl (fun t i =>
    let a := unitLoc core bank (off + 64 * i)
    let m := min 64 (n - 64 * i)
    if bad then t.taint a m else t.clean a m) s1

/-! ### Marks that travel (R315, R399) -/

/-- `n` bytes from address `a` cut at 64-byte units: offset and length of each part; `fuel` bounds their number. -/
def cutUnits : Nat → Nat → Nat → Nat → List (Nat × Nat)
  | 0, _, _, _ => []
  | k + 1, a, o, n =>
    if n = 0 then []
    else
      let m := min n (64 - a % 64)
      (o, m) :: cutUnits k (a + m) (o + m) (n - m)

/-- The parts of a run that carry a mark, or are lost with their channel. -/
def State.badParts (s : State) (r : Run) : List (Nat × Nat) :=
  if s.deadAt r.loc then [(0, r.n)]
  else if isRemote r.loc || s.poison.isEmpty then []
  else (cutUnits (r.n / 64 + 2) r.loc 0 r.n).filter (fun p => s.unitBad (r.loc + p.1))

/-- The parts of `n` bytes of a bank that carry a mark. -/
def State.badPadParts (s : State) (core bank off n : Nat) : List (Nat × Nat) :=
  if s.poison.isEmpty then []
  else (cutUnits (n / 64 + 2) (off % 2 ^ 18) 0 n).filter (fun p => s.unitBad (unitLoc core bank (off + p.1)))

/-- Mark the places to which marked parts went. -/
def State.markParts (s : State) (place : Nat → Nat) (l : List (Nat × Nat)) : State :=
  l.foldl (fun t p => t.taint (place p.1) p.2) s

end Sys2Proof.Machine
end

