-- ==== Sys2Proof/Machine/Copy.lean ====
section
/-! DEFINITION. Copy commands (R302 to R316, R405 to R411): CPY, CPYT, CGATH, CPAIR, CMIG, their start at a copy engine,
their accesses, and migrations. A command makes its accesses one at a time, each of at most 512 bytes, in ascending order (log 8). -/

namespace Sys2Proof.Machine

/-! ### Issue -/

/-- CPY.LD (R307). -/
def execCpyLd (f : CF) (mc : Bool) (spa : Spa) (s : State) : Out := cSlotSpa f 0x00 .producer spa (.cpy true mc) 1 s

/-- CPY.ST (R307). -/
def execCpySt (f : CF) (spa : Spa) (s : State) : Out := cSlotSpa f 0x00 .consumer spa (.cpy false false) 1 s

/-- CPYT.LD: the entry is read at issue (R143, R308). -/
def execCpytLd (f : CF) (spa : Spa) (s : State) : Out :=
  cSlotSpa f 0x01 .producer spa (.cpyt true (s.me.te f.sa.toNat)) 0 s

/-- CPYT.ST (R308). -/
def execCpytSt (f : CF) (spa : Spa) (s : State) : Out :=
  cSlotSpa f 0x01 .consumer spa (.cpyt false (s.me.te f.sa.toNat)) 0 s

/-- CPAIR (R310). -/
def execCpair (f : CF) (spa : Spa) (s : State) : Out := cSlotSpa f 0x02 .consumer spa .cpair 2 s

/-- CGATH (R309). -/
def execCgath (f : CF) (ib : BitVec 4) (spa : Spa) (s : State) : Out :=
  cSlotSpa f 0x03 .producer spa (.cgath ib.toNat) 1 s

/-- CMIG (R311). -/
def execCmig (f : CF) (host : Bool) (dl : BitVec 26) (s : State) : Out := cSlot f 0x04 (.cmig host dl.toNat) 2 s

/-! ### Moves -/

/-- One transfer of a command: which of its address words it goes by, the memory-side address (an offset for DIE and CLUSTER),
its length, and the scratchpad side: an offset, or pieces of `piece` bytes at a pitch. The header of a CPYT.ST has none. -/
structure Move where
  word   : Nat := 0
  addr   : Nat
  n      : Nat
  off    : Nat := 0
  piece  : Nat := 0
  pitch  : Nat := 0
  header : Bool := false
deriving DecidableEq, Repr

/-- Scratchpad offset of byte `p` of a move, and the bytes in a row from there. -/
def Move.padAt (x : Move) (p : Nat) : Nat := (if x.piece = 0 then x.off + p else x.off + x.pitch * (p / x.piece) + p % x.piece) % 2 ^ 18
def Move.padRow (x : Move) (p : Nat) : Nat := min (2 ^ 18 - x.padAt p) (if x.piece = 0 then x.n - p else x.piece - p % x.piece)

/-- Why a command stops at an access (R306, R314). -/
inductive Stop where
  | absent (va : Nat)
  | rights (va : Nat)
  | malformed (va : Nat)
  | poison (va : Nat)
deriving DecidableEq, Repr

/-- STATUS of a stop. -/
def Stop.status : Stop → Nat
  | .absent _ | .malformed _ => 0x03
  | .rights _ => 0x02
  | .poison _ => 0x04

/-- KIND of its fault record (R314). -/
def Stop.kind : Stop → Nat
  | .absent _ => 1
  | .rights _ => 2
  | .malformed _ => 3
  | .poison _ => 4

def Stop.va : Stop → Nat
  | .absent v | .rights v | .malformed v | .poison v => v

/-- Page number VA[47:12] (R306). -/
def pageOf (va : Nat) : Nat := va / 4096 % 2 ^ 36

/-- Addresses cut at 4 KiB pages; `fuel` bounds their number. -/
def cutPages : Nat → Nat → Nat → List (Nat × Nat)
  | 0, _, _ => []
  | k + 1, va, n =>
    if n = 0 then []
    else
      let m := min n (4096 - va % 4096)
      (va % 2 ^ 48, m) :: cutPages k (va + m) (n - m)

/-- A page is on its way under a CMIG: it lies in the block of one that the command moves, whichever address space maps it (R311). -/
def State.inMotion (s : State) (pte size : Nat) : Bool :=
  s.cmdList.any (fun c => c.stage == .moving && c.pages.any (fun p =>
    match s.walk c.asid p with
    | .leaf e _ z => let b := s.blockOf e z; Leaf.meets ⟨0, pte, size⟩ (pteHost e) b.1 b.2
    | _ => false))

/-- One page's run, or why it stops. The spec does not say when the data of a HOST page are resident: they are or are not at each
translation (log 17). -/
def State.runOf (s : State) (eng : Nat) (c : Cmd) (write : Bool) (p : Nat × Nat) : Except Stop Run × State :=
  match s.leafOf eng (coreDie c.core) c.asid p.1 with
  | (.absent, t) => (.error (.absent p.1), t)
  | (.malformed, t) => (.error (.malformed p.1), t)
  | (.leaf e base size, t) =>
    if t.inMotion e size then (.error (.absent p.1), t)
    else if pteHost e ∧ t.free % 2 = 1 then (.error (.absent p.1), t.draw)
    else
      match leafLoc t.ncc e base p.1 with
      | none => (.error (.malformed p.1), t)
      | some loc =>
        if t.closedPage e size || !(if write then pteW e else pteR e) then (.error (.rights p.1), t)
        else (.ok { loc := loc, n := p.2, mt := pteMt e, va := p.1 }, if pteHost e then t.draw else t)

/-- The runs of a list of pages, up to the first that stops. -/
def State.runsOf (s : State) (eng : Nat) (c : Cmd) (write : Bool) : List (Nat × Nat) → Except Stop (List Run) × State
  | [] => (.ok [], s)
  | p :: l =>
    match s.runOf eng c write p with
    | (.error e, t) => (.error e, t)
    | (.ok r, t) =>
      match t.runsOf eng c write l with
      | (.ok rs, u) => (.ok (r :: rs), u)
      | (.error e, u) => (.error e, u)

/-- The memory side of a command: how an address of its moves becomes locations. -/
inductive MemSide where
  | virt
  /-- A share: first location and length. -/
  | share (lo len : Nat)
  /-- Another device's export: first location. -/
  | remote (lo : Nat)
deriving DecidableEq, Repr

/-- Runs of `n` bytes from an address. -/
def State.moveRuns (s : State) (eng : Nat) (c : Cmd) (write : Bool) (m : MemSide) (addr n : Nat) :
    Except Stop (List Run) × State :=
  match m with
  | .virt => s.runsOf eng c write (cutPages (n / 4096 + 2) addr n)
  | .share lo _ | .remote lo => (.ok (if n = 0 then [] else [{ loc := lo + addr, n := n, va := addr }]), s)

/-- Store a value to the runs of one move. -/
def State.storeRunsCmd (s : State) (c : Cmd) (bad : Bool) : List Run → Nat → Cmd × State
  | [], _ => (c, s)
  | r :: l, v =>
    let x := s.writeRunCmd c r (v % 256 ^ r.n) bad
    x.2.storeRunsCmd x.1 bad l (v / 256 ^ r.n)

/-! ### Fault records (R314) -/

/-- Word 0 of a fault record. -/
def faultWord0 (c : Cmd) (kind : Nat) (write : Bool) : Nat :=
  kind * 2 ^ 56 + c.opc * 2 ^ 48 + c.tag * 2 ^ 42 + c.hw * 2 ^ 40 + c.core * 2 ^ 31 + c.asid % 2048 * 2 ^ 20 +
    (if write then 2 ^ 19 else 0)

/-- Send a fault record to the host. -/
def State.sendFault (s : State) (c : Cmd) (kind va : Nat) (write : Bool) : State :=
  let d := coreDie c.core
  let n := mget 0 s.faultSeq d
  { s with reports := s.reports ++ [.fault (faultWord0 c kind write) va (n % 2 ^ 32)]
           faultSeq := mset 0 s.faultSeq d ((n + 1) % 2 ^ 32) }

/-! ### Starting a copy command -/

/-- A translation waits: the command stalls where it stands (R314). -/
def State.stall (s : State) (c : Cmd) (va : Nat) (write : Bool) : State :=
  (s.setCmd { c with stage := .stalled va write false, due := s.cycle + 1 + s.free }).draw

/-- A command ends: its last untimed steps take a free time (R107). -/
def State.endCmd (s : State) (c : Cmd) (status detail : Nat) : State :=
  (s.setCmd (c.finish status detail (s.cycle + 1 + s.free))).draw

/-- Detail of a stop: the page number, for virtual addresses. -/
def Stop.detail (e : Stop) (m : MemSide) : Nat := if m = .virt then pageOf e.va else 0

/-- The command may still make STRONG accesses, or has made one (R109). -/
def Cmd.mayBeStrong (c : Cmd) : Bool :=
  c.strong || (match c.job with
    | .cpy .. | .cpyt .. | .cgath _ | .cpair => c.stage != .performed
    | _ => false)

/-- An earlier command of the same context that accessed a STRONG page, or has accesses still to make, has not yet set its tag
(R109). -/
def State.strongBefore (s : State) (c : Cmd) : Bool :=
  s.cmdList.any (fun d => decide (d.id < c.id ∧ d.ctx = c.ctx) && d.mayBeStrong)

/-! ### The memory side -/

/-- The memory side of an address word for a copy command, and the address its moves count from. -/
def State.memSide (s : State) (c : Cmd) (w : BitVec 64) : Option (MemSide × Nat) :=
  let k := s.kernel c.kernel
  match addrWord w with
  | .bad => none
  | .virt va => some (.virt, va)
  | .die o => some (.share (dieLoc (coreDie c.core) (k.dieBase (coreDie c.core))) k.dieLen, o)
  | .cluster o => some (.share (clLoc (coreCluster c.core) (k.clBase (coreCluster c.core))) k.clLen, o)
  | .fabric dev exp o => some (.remote (remoteLoc dev (exp * 2 ^ 43)), o)

/-- A move leaves the kernel's share: STATUS 0x07 (R306). -/
def outsideShare (m : MemSide) (ms : List Move) : Bool :=
  match m with
  | .share _ len => ms.any (fun x => decide (len < x.addr + x.n))
  | _ => false

/-! ### The moves of each command -/

/-- Base address of an address word. -/
def wordBase (w : BitVec 64) : Nat :=
  match addrWord w with
  | .virt va => va
  | .die o | .cluster o | .fabric _ _ o => o
  | .bad => 0

/-- Row r of a plain copy: at ADDR + 64·MPITCH·i, for the i-th memory row, and at off + 64·SPITCH·r (R304, R307). -/
def rowMove (c : Cmd) (base i r : Nat) : Move :=
  { addr := base + 64 * c.mpitch * i, n := 64 * c.rlen, off := c.off + 64 * c.spitch * r }

/-- Columns C = 64·RLEN/e of a CPAIR. -/
def Cmd.cols (c : Cmd) : Nat := 64 * c.rlen / 2 ^ c.esz

/-- Transposed row j of a CPAIR: element (r, j) to T + 64·MPITCH·j + e·r (R310). -/
def transposedMove (c : Cmd) (base j : Nat) : Move :=
  { word := 1, addr := base + 64 * c.mpitch * j, n := 2 ^ c.esz * c.rows
    off := c.off + 2 ^ c.esz * j, piece := 2 ^ c.esz, pitch := 64 * c.spitch }

/-- Extent of dimension `d`; dimensions past the rank count as one. -/
def TEntry.extent (e : TEntry) (d : Nat) : Nat := if d < e.rank then (e.ext[d]?).getD 1 else 1

/-- Elements of the tensor. -/
def TEntry.count (e : TEntry) : Nat := e.extent 0 * e.extent 1 * e.extent 2 * e.extent 3

/-- Bytes of its scale array (R68); none without MX. -/
def TEntry.scaleBytes (e : TEntry) : Nat :=
  if e.mx then
    let ek := e.extent e.kd
    if ek = 0 then 0 else (ek + 31) / 32 * (e.count / ek)
  else 0

/-- Bytes of the elements, and of the whole scratchpad side. -/
def TEntry.denseBytes (e : TEntry) : Nat := e.count * e.fmt.width / 8
def TEntry.padBytes (e : TEntry) : Nat :=
  if e.mx then (e.denseBytes + 63) / 64 * 64 + e.scaleBytes else e.denseBytes

/-- Index of the first field for which the entry is refused with STATUS 0x05, if any (R143, R308, log 23). -/
def TEntry.refused (e : TEntry) : Option Nat :=
  if e.kind = 0 ∨ e.kind = 3 then some 5
  else if e.mx ∧ !e.fmt.isMx then some 3
  else if e.rank = 0 then some 1
  else if e.mx ∧ e.rank ≤ e.kd then some 2
  else if !(locOk e.kind e.loc) then some 6
  else if e.mx ∧ !(locOk e.kind e.scale) then some 7
  else if e.fmt.width = 4 then
    if (e.str[0]?).getD 0 ≠ 1 then some 12
    else if e.extent 0 % 2 = 1 then some 8
    else ((List.range e.rank).find? (fun d => d != 0 && ((e.str[d]?).getD 0) % 2 != 0)).map (fun d => 12 + d)
  else none

/-- Byte offset of element (i0, …, i3) from the elements' base. -/
def TEntry.offset (e : TEntry) (i : List Nat) : Int :=
  ((i.zip e.str).foldl (fun a p => a + (p.1 : Int) * p.2) 0) * e.fmt.width / 8

/-- An address: 48 bits for a virtual one; an offset below the base lies outside every share. -/
def wrapAddr (kind : Nat) (a : Int) : Nat :=
  if kind = 4 then (a % (2 ^ 48 : Nat)).toNat else if 0 ≤ a then a.toNat else 2 ^ 60

/-- Dimension 0 is dense: a line moves as one. -/
def TEntry.dense (e : TEntry) : Bool := (e.str[0]?).getD 0 == 1

/-- Elements of one move: a line where dimension 0 is dense, else one. -/
def TEntry.perMove (e : TEntry) : Nat := if e.dense then e.extent 0 else 1

/-- Moves of the elements. -/
def TEntry.moves (e : TEntry) : Nat := if e.count = 0 then 0 else e.count / e.perMove

/-- Indices (i0, i1, i2, i3) of an element number. -/
def TEntry.indices (e : TEntry) (k : Nat) : List Nat :=
  [k % e.extent 0, k / e.extent 0 % e.extent 1, k / e.extent 0 / e.extent 1 % e.extent 2, k / e.extent 0 / e.extent 1 / e.extent 2]

/-- The `i`-th move of the elements; the elements of kind 4 begin 64 bytes after LOC (R308). -/
def TEntry.moveAt (e : TEntry) (off i : Nat) : Move :=
  let k := i * e.perMove
  let base := e.loc.toNat + (if e.kind = 4 then 64 else 0)
  { addr := wrapAddr e.kind (base + e.offset (e.indices k)), n := e.perMove * e.fmt.width / 8, off := off + k * e.fmt.width / 8 }

/-- The move of the scales, at the next multiple of 64 of the scratchpad side (R68, R308). -/
def TEntry.scaleMove (e : TEntry) (off : Nat) : Move :=
  { addr := e.scale.toNat % 2 ^ 48, n := e.scaleBytes, off := off + (e.denseBytes + 63) / 64 * 64 }

/-- The move that writes the header and 56 zero bytes (R70, R308). -/
def TEntry.headerMove (e : TEntry) : Move := { addr := e.loc.toNat % 2 ^ 48, n := 64, header := true }

/-- A store writes a header first (R308). -/
def TEntry.hasHeader (e : TEntry) (ld : Bool) : Bool := !ld && e.kind == 4

/-- Moves of a command, in order: the rows; the plain and then the transposed rows of a CPAIR; the header, the elements and the
scales of a CPYT (R307 to R310; log 8). -/
def Cmd.moveCount (c : Cmd) : Nat :=
  match c.job with
  | .cpy .. | .cgath _ => if c.rlen = 0 then 0 else c.rows
  | .cpair => if c.rlen = 0 ∨ c.rows = 0 then 0 else c.rows + c.cols
  | .cpyt ld e => (if e.hasHeader ld then 1 else 0) + e.moves + (if e.scaleBytes = 0 then 0 else 1)
  | _ => 0

/-- Its `i`-th move. -/
def Cmd.moveAt (c : Cmd) (i : Nat) : Move :=
  match c.job with
  | .cgath _ => rowMove c (wordBase (c.word 0)) ((c.run.idx[i]?).getD 0) i
  | .cpair => if i < c.rows then rowMove c (wordBase (c.word 0)) i i else transposedMove c (wordBase (c.word 1)) (i - c.rows)
  | .cpyt ld e =>
    if e.hasHeader ld ∧ i = 0 then e.headerMove
    else
      let j := i - (if e.hasHeader ld then 1 else 0)
      if j < e.moves then e.moveAt c.off j else e.scaleMove c.off
  | _ => rowMove c (wordBase (c.word 0)) i i

def Cmd.allMoves (c : Cmd) : List Move := (List.range c.moveCount).map c.moveAt

/-- It writes memory. -/
def Cmd.stores (c : Cmd) : Bool :=
  match c.job with
  | .cpy ld _ | .cpyt ld _ => !ld
  | .cpair => true
  | _ => false

/-- Memory side of an entry's kind. -/
def State.entrySide (s : State) (c : Cmd) (kind : Nat) : MemSide :=
  let k := s.kernel c.kernel
  match kind with
  | 1 => .share (clLoc (coreCluster c.core) (k.clBase (coreCluster c.core))) k.clLen
  | 2 => .share (dieLoc (coreDie c.core) (k.dieBase (coreDie c.core))) k.dieLen
  | _ => .virt

/-- Memory side of a move. -/
def State.moveSide (s : State) (c : Cmd) (x : Move) : MemSide :=
  match c.job with
  | .cpyt _ e => s.entrySide c e.kind
  | _ => ((s.memSide c (c.word x.word)).map Prod.fst).getD .virt

/-- Some move of the command leaves its share. -/
def State.outside7 (s : State) (c : Cmd) : Bool := c.allMoves.any (fun x => outsideShare (s.moveSide c x) [x])

/-! ### One access -/

/-- The next access of a move: at most 512 bytes, in one page, in a row on the scratchpad side (R179, R304; log 8). -/
def Cmd.accessLen (c : Cmd) (m : MemSide) (x : Move) : Nat :=
  let a := x.addr + c.run.pos
  let k := min 512 (if x.header then x.n - c.run.pos else min (x.n - c.run.pos) (x.padRow c.run.pos))
  if m = .virt then min k (4096 - a % 4096) else k

/-- A context of the kernel is bound on a core (R307). -/
def State.boundOn (s : State) (kernel core : Nat) : Bool :=
  s.ctxs.any (fun e => decide (e.2.core = core ∧ e.2.kernel = kernel ∧ e.2.life ≠ .exited) && s.occupies e.1)

/-- Cores to which a load delivers: the issuing one, and with MC every core of the cluster that has a context of the
kernel bound (R307). -/
def State.loadCores (s : State) (c : Cmd) : List Nat :=
  match c.job with
  | .cpy true true =>
    ((List.range 4).map (clusterCore (coreCluster c.core))).filter (fun k => s.boundOn c.kernel k || k == c.core)
  | _ => [c.core]

/-- Banks of the next access of a command: core and bank. -/
def State.accessBanks (s : State) (c : Cmd) : List (Nat × Nat) :=
  match c.job with
  | .cgath ib => if c.run.idx.length < c.rows then [(c.core, ib)] else [(c.core, c.bank)]
  | .cpyt ld e => if e.hasHeader ld ∧ c.run.move = 0 then [] else [(c.core, c.bank)]
  | _ => (s.loadCores c).map (fun k => (k, c.bank))

/-- Every bank of the next access grants it in this cycle (R185), and the vertical bus has a slot of the command's bench for it, one
for a multicast too (R286, R303, R307). -/
def State.accessGranted (s : State) (c : Cmd) : Bool :=
  let l := s.accessBanks c
  l.all (fun b => s.bankFree b.1 b.2) && (l.isEmpty || s.busFree c.kernel c.core)

/-- The banks and the bus are used by the next access of a command. -/
def State.useAccess (s : State) (c : Cmd) : State :=
  let l := s.accessBanks c
  let s1 := l.foldl (fun t b => t.useEngine b.1 b.2) s
  if l.isEmpty then s1 else s1.useBus c.core

/-- The command may make its next access. -/
def State.accessDue (s : State) (c : Cmd) : Bool := c.stage == .running && decide (c.due ≤ s.cycle) && s.accessGranted c

/-- DETAIL of a CPAIR that ends early: whether the plain copy is complete and the rows of the other that are written (R310). -/
def pairDetail (plainDone : Bool) (rows page : Nat) : Nat :=
  (if plainDone then 2 ^ 47 else 0) + rows % 2 ^ 11 * 2 ^ 36 + page

/-- DETAIL of a command that ends early at a page. -/
def Cmd.stopDetail (c : Cmd) (page : Nat) : Nat :=
  match c.job with
  | .cpair => pairDetail (decide (c.rows ≤ c.run.move)) (if c.rows ≤ c.run.move then c.run.move - c.rows else c.run.move) page
  | _ => page

/-- The command after an access of `n` bytes of a move. -/
def Cmd.past (c : Cmd) (x : Move) (n : Nat) : Cmd :=
  { c with run := if c.run.pos + n < x.n then { c.run with pos := c.run.pos + n } else { c.run with move := c.run.move + 1, pos := 0 } }

/-- The command goes on with the bytes after an access, or is at its end. -/
def State.afterAccess (s : State) (c : Cmd) (x : Move) (n : Nat) : State :=
  let c1 := c.past x n
  if c1.moveCount ≤ c1.run.move then s.endCmd c1 0x00 0 else (s.setCmd { c1 with due := s.cycle + 1 + s.free }).draw

/-- A load's access is performed: the bytes and their marks reach every core (R99, R307, R315). -/
def State.loadAccess (s : State) (c : Cmd) (r : Run) (off : Nat) : State :=
  let v := s.readRunCmd c r
  (s.loadCores c).foldl (fun t k =>
    (t.writePad k c.bank off r.n v false).markParts (fun o => unitLoc k c.bank (off + o)) (s.badParts r)) s

/-- A store's access is performed (R107, R315). -/
def State.storeAccess (s : State) (c : Cmd) (x : Move) (r : Run) (off : Nat) : Cmd × State :=
  if x.header then
    match c.job with
    | .cpyt _ e => s.writeRunCmd c r (e.header / 256 ^ c.run.pos % 256 ^ r.n) false
    | _ => (c, s)
  else
    let v := s.readCmdPad c c.bank off r.n
    let y := (s.mirror r.loc r.n v).writeRunCmd c r v false
    (y.1, if isRemote r.loc then y.2 else y.2.markParts (fun o => r.loc + o) (s.badPadParts c.core c.bank off r.n))

/-- The access meets poisoned data, or a lost channel: it is performed, and the command ends with STATUS 0x04 (R306, R315, R331). -/
def State.accessBad (s : State) (c : Cmd) (x : Move) (r : Run) (off : Nat) : Bool :=
  if c.stores then s.deadAt r.loc || (!x.header && !(s.badPadParts c.core c.bank off r.n).isEmpty) else !(s.badParts r).isEmpty

/-- Perform an access whose run is known. -/
def State.perform (s : State) (c : Cmd) (x : Move) (m : MemSide) (r : Run) : State :=
  let off := x.padAt c.run.pos
  let s1 := s.useAccess c
  let y := if c.stores then s1.storeAccess c x r off else (c, s1.loadAccess c r off)
  let z := if isRemote r.loc ∧ !c.stores then y.2.draw else y.2
  if s.accessBad c x r off then
    (z.sendFault y.1 4 r.va c.stores).endCmd y.1 0x04 ((y.1.past x r.n).stopDetail ((Stop.poison r.va).detail m))
  else z.afterAccess y.1 x r.n

/-- The port of a plane carries an access to another device: the link is up, and its replay store has room (R404, R405). -/
def State.portOpen (s : State) (p n : Nat) : Bool :=
  let x : Port := mget {} s.ports p
  !x.retired && !x.retrain && (x.unacked == 0 || decide (x.unacked + (n + 111) / 112 ≤ 1024))

/-- Flits of an access that the port holds until they are acknowledged (R404). -/
def State.sendFlits (s : State) (p n : Nat) : State :=
  let x : Port := mget {} s.ports p
  { s with ports := mset {} s.ports p { x with unacked := min 1024 (x.unacked + (n + 111) / 112) } }

/-- What a link queue holds of a command leaves it: no route to its target is left, or the target does not answer. The writes stay
performed (R409, log 43). -/
def State.dropLinks (s : State) (id : Nat) : State :=
  let kept := s.links.map (fun l => (l.1, l.2.filter (fun e => e.cmd != id)))
  { s with links := kept.filter (fun l => !l.2.isEmpty) }

/-- A command that has started ends with a status of R409, unless it has ended before; what it has performed stays performed. -/
def State.endRemote (s : State) (id status dev : Nat) : State :=
  let s1 := s.dropLinks id
  match s1.cmd? id with
  | some c => if c.stage = .performed ∧ c.status ≠ 0 then s1 else s1.endCmd c status dev
  | none => s1

/-- A request goes out, with the job tag of an address space (R407). -/
def State.sendRequest (s : State) (wr : Bool) (loc n val job : Nat) : State :=
  { s with reports := s.reports ++ [.request wr (devOf loc) ((loc - remoteLoc 0 0) % 2 ^ 64) n val job] }

/-- An access to another device. Whether every route to the device has been lost is not this device's to know, unless all its own
ports are retired: the command ends with STATUS 0x0D, or the access is made (R405, R409; log 21). A read goes out through its port, with
its job tag (R407), and waits for it. -/
def State.remoteStep (s : State) (c : Cmd) (x : Move) (m : MemSide) (r : Run) : State :=
  let p := c.planeTo (devOf r.loc)
  if s.free % 2 = 1 then (s.draw.setCmd c).endRemote c.id 0x0D (devOf r.loc)
  else if c.stores then s.draw.perform c x m r
  else if s.portOpen p 16 then
    ((s.draw.sendFlits p 16).sendRequest false r.loc r.n 0 (mget 0 s.jobTags c.asid).toNat).perform c x m r
  else s.draw.setCmd { c with due := s.cycle + 1 }

/-- The next memory access of a command: translated now; it stalls, ends the command, waits for its STRONG page, or is performed
(R109, R306, R314). -/
def State.access (s : State) (eng : Nat) (c : Cmd) : State :=
  let x := c.moveAt c.run.move
  let m := s.moveSide c x
  match s.moveRuns eng c c.stores m (x.addr + c.run.pos) (c.accessLen m x) with
  | (.error (.absent va), t) => t.stall c va c.stores
  | (.error e, t) => (t.sendFault c e.kind e.va c.stores).endCmd c e.status (c.stopDetail (e.detail m))
  | (.ok [], t) => t.afterAccess c x (x.n - c.run.pos)
  | (.ok (r :: _), t) =>
    if r.mt = 3 ∧ t.strongBefore c then t.setCmd { c with due := t.cycle + 2 }
    else
      let c1 := { c with strong := c.strong || r.mt == 3 }
      if isRemote r.loc then t.remoteStep c1 x m r else t.perform c1 x m r

/-- End of the operand of an address word. -/
def Cmd.operandEnd (c : Cmd) (word : Nat) : Nat := (c.allMoves.filter (fun x => x.word == word)).foldl (fun m x => max m (x.addr + x.n)) 0

/-- The longest export ends before this byte. -/
def pastExports (hi : Nat) : Bool := decide (4096 * (2 ^ 28 - 1) < hi)

/-- The gathered rows of a CGATH leave the export of a fabric word: 0x0B where a byte lies past the longest one, else as the target
answers, which is not this device's to know (R409, log 21). -/
def State.rowsRefused (s : State) (c : Cmd) : Option (Nat × Nat) × State :=
  match addrWord (c.word 0) with
  | .fabric _ exp _ => (if pastExports (c.operandEnd 0) || s.free % 2 == 1 then some (0x0B, exp) else none, s.draw)
  | _ => (none, s)

/-- A CGATH reads the next of its indices; poisoned ones end it with STATUS 0x04, and once all are known its range is tested
(R306, R309, R315, R409). -/
def State.readIndices (s : State) (c : Cmd) (ib : Nat) : State :=
  let k := c.run.idx.length
  let off := (c.off + 4 * k) % 2 ^ 18
  let n := min (min 512 (4 * (c.rows - k))) (2 ^ 18 - off)
  let s1 := s.useAccess c
  let v := s.readCmdPad c ib off n
  let c1 := { c with run := { c.run with idx := c.run.idx ++ (List.range (n / 4)).map (fun i => laneAt 32 v i) } }
  if s.bankPoisoned c.core ib off n then s1.endCmd c 0x04 0
  else if c1.run.idx.length < c1.rows then (s1.setCmd { c1 with due := s.cycle + 1 + s.free }).draw
  else if s1.outside7 c1 then s1.endCmd c1 0x07 0
  else
    match s1.rowsRefused c1 with
    | (some r, t) => t.endCmd c1 r.1 r.2
    | (none, t) => (t.setCmd { c1 with due := t.cycle + 1 + t.free }).draw

/-- A command that has started makes its next access. -/
def State.runCmd (s : State) (eng : Nat) (c : Cmd) : State :=
  match c.job with
  | .cgath ib => if c.run.idx.length < c.rows then s.readIndices c ib else s.access eng c
  | _ => s.access eng c

/-! ### Starting a copy command -/

/-- Planes still live at this device (R405). -/
def State.livePlanes (s : State) : List Nat := (List.range 32).filter (fun p => !(mget {} s.ports p).retired)

/-- What is decided for a fabric word before the first access (R409): a refused word; no live plane; and what the target and its
ports answer, which is not this device's to know (log 21). A byte past the longest export is never accepted. `hi` is the end of
the operand, where it is known. -/
def State.fabricCheck (s : State) (w : BitVec 64) (hi : Option Nat) : Option (Nat × Nat) × State :=
  match addrWord w with
  | .fabric dev exp _ =>
    if !s.fabEn || decide (s.fabMax < dev) || dev == s.fabId then (some (0x09, 0), s)
    else if s.livePlanes.isEmpty then (some (0x0C, dev), s)
    else
      match s.free % 4 with
      | 0 => (if hi.any pastExports then some (0x0B, exp) else none, s.draw)
      | 1 => (some (0x0A, exp), s.draw)
      | 2 => (if hi.isSome then some (0x0B, exp) else none, s.draw)
      | _ => (some (0x0C, dev), s.draw)
  | _ => (none, s)

/-- The plane a command uses to a device, one of those live: at both ends, as far as this device knows (R405). -/
def State.takePlane (s : State) (c : Cmd) (w : BitVec 64) : Cmd × State :=
  match addrWord w with
  | .fabric dev _ _ =>
    let l := s.livePlanes
    if c.routes.any (fun r => r.1 == dev) then (c, s)
    else ({ c with routes := c.routes ++ [(dev, (l[s.free % l.length]?).getD 0)] }, s.draw)
  | _ => (c, s)

/-- A word's fabric checks and its plane. -/
def State.fabricStart (s : State) (c : Cmd) (word : Nat) (hi : Option Nat) : Except (Nat × Nat) Cmd × State :=
  match s.fabricCheck (c.word word) hi with
  | (some r, t) => (.error r, t)
  | (none, t) =>
    let q := t.takePlane c (c.word word)
    (.ok q.1, q.2)

/-- The command has started: its accesses follow. -/
def State.launchCmd (s : State) (c : Cmd) : State :=
  (s.setCmd { c with stage := .running, due := s.cycle + 1 + s.free }).draw

/-- The operand is known at the start, but for the rows of a CGATH (R309). -/
def Cmd.knownEnd (c : Cmd) (word : Nat) : Option Nat :=
  match c.job with
  | .cgath _ => none
  | _ => some (c.operandEnd word)

/-- The fabric's checks for each address word, then the command runs. -/
def State.startWords (s : State) (c : Cmd) : List Nat → State
  | [] => s.launchCmd c
  | w :: l =>
    match s.fabricStart c w (c.knownEnd w) with
    | (.error r, t) => t.endCmd c r.1 r.2
    | (.ok c1, t) => t.startWords c1 l

/-- A base that R302 refuses, or that is no multiple of 64 (R306). -/
def badBase (w : BitVec 64) : Bool := addrWord w == .bad || wordBase w % 64 != 0

/-- A limit of CPAIR is exceeded (R310). -/
def pairBad (c : Cmd) : Bool :=
  c.esz == 3 || decide (1024 < c.rows) || decide (1024 < c.cols) || decide (64 * c.mpitch < 2 ^ c.esz * c.rows)

/-- CPY, CGATH and CPAIR: statuses 0x01, 0x06, the empty range, 0x07 and those of the fabric, in order (R306, R409). The range of
a CGATH is known once its indices are. -/
def State.startRows (s : State) (c : Cmd) (words : List Nat) (shapeBad : Bool) : State :=
  if words.any (fun i => badBase (c.word i)) then s.endCmd c 0x01 0
  else if shapeBad then s.endCmd c 0x06 0
  else if c.rows = 0 ∨ c.rlen = 0 then s.endCmd c 0x00 0
  else
    match c.job with
    | .cgath _ => s.startWords c words
    | _ => if s.outside7 c then s.endCmd c 0x07 0 else s.startWords c words

/-- CPYT: statuses 0x01, 0x05, 0x06, 0x07 in order (R306, R308). A kind-4 LOC or SCALE of 2^48 or more takes 0x01 (DESIGN CHOICE, log
56). -/
def State.startCpyt (s : State) (c : Cmd) (e : TEntry) : State :=
  let odd (v : BitVec 64) : Bool := v.toNat % 64 != 0 || (e.kind == 4 && decide (2 ^ 48 ≤ v.toNat))
  if e.kind ≠ 0 ∧ e.kind ≠ 3 ∧ (odd e.loc ∨ (e.mx ∧ odd e.scale)) then s.endCmd c 0x01 0
  else
    match e.refused with
    | some f => s.endCmd c 0x05 f
    | none =>
      if 262144 < e.padBytes then s.endCmd c 0x06 0
      else if c.moveCount = 0 then s.endCmd c 0x00 0
      else if s.outside7 c then s.endCmd c 0x07 0
      else s.launchCmd c

/-! ### CMIG (R311, R316) -/

/-- Leaves of a range with their bases and sizes, from `va`, until one is missing; `fuel` bounds their number. -/
def State.rangeLeaves (s : State) (asid : Nat) : Nat → Nat → Nat → List (Nat × Nat × Nat) × Option Nat
  | 0, _, _ => ([], none)
  | k + 1, va, hi =>
    if hi ≤ va then ([], none)
    else
      match s.walk asid va with
      | .leaf e base size =>
        let r := s.rangeLeaves asid k (base + size) hi
        ((e, base, size) :: r.1, r.2)
      | _ => ([], some va)

/-- A page never moves: its own leaf, or another of the block that would move with it, is pinned (R311, R312). -/
def State.pagePinned (s : State) (pte size : Nat) : Bool :=
  let b := s.blockOf pte size
  ptePin pte || s.leaves.any (fun l => l.meets (pteHost pte) b.1 b.2 && ptePin l.pte)

/-- A page that cannot be moved since no valid entry maps it: its fault record, and STATUS 0x03 with its number (R306, R311, R314). -/
def State.pageUnmapped (s : State) (c : Cmd) (va : Nat) : State :=
  (s.sendFault c (if s.walk c.asid va = .malformed then 3 else 1) va false).endCmd c 0x03 (pageOf va)

/-- CMIG at its start: pages already at the target count as arrived, pinned ones never move, an unmapped page ends the
command with STATUS 0x03 (R311). A range that passes 2^48 takes 0x01 (DESIGN CHOICE, log 56). -/
def State.startCmig (s : State) (c : Cmd) (host : Bool) : State :=
  let len := (c.word 1).toNat
  match addrWord (c.word 0) with
  | .virt va =>
    if va % 4096 ≠ 0 ∨ 2 ^ 48 < va + len then s.endCmd c 0x01 0
    else if len % 4096 ≠ 0 ∨ 2 ^ 40 < len then s.endCmd c 0x06 0
    else
      let r := s.rangeLeaves c.asid (len / 4096 + 1) va (va + len)
      match r.2 with
      | some bad => s.pageUnmapped c bad
      | none =>
        let away := r.1.filter (fun x => pteHost x.1 != host)
        let c1 := { c with
          pages := (away.filter (fun x => !(s.pagePinned x.1 x.2.2))).map (fun x => x.2.1)
          pinned := away.any (fun x => s.pagePinned x.1 x.2.2) }
        if c1.pages.isEmpty then s.endCmd c1 (if c1.pinned then 0x08 else 0x00) 0
        else (s.setCmd { c1 with stage := .moving, due := s.cycle + 1 + s.free }).draw
  | _ => s.endCmd c 0x01 0

/-- Exchange two 4 KiB granules of locations. -/
def swapLoc (a b x : Nat) : Nat :=
  if a ≤ x ∧ x < a + 4096 then b + (x - a) else if b ≤ x ∧ x < b + 4096 then a + (x - b) else x

/-- Rename the places of a write list; a write that straddles a granule's edge does not arise, since runs are cut at 4 KiB
pages and granules. -/
def swapWrites (a b : Nat) (l : List Wr) : List Wr := l.map (fun w => if w.isMarker then w else { w with loc := swapLoc a b w.loc })

/-- Move the bytes of one granule: every component that names its places names the new ones (R311). -/
def State.swapGranule (s : State) (a b : Nat) : State :=
  let m := s.mem.foldl (fun acc e => mset 0 acc (swapLoc a b e.1) e.2) []
  let cmds := s.cmds.map (fun e => (e.1, e.2.map (fun c => { c with outbox := swapWrites a b c.outbox })))
  let ctxs := s.ctxs.map (fun e => (e.1, { e.2 with outbox := swapWrites a b e.2.outbox }))
  let poison := s.poison.map (fun p => swapLoc a b (64 * p) / 64)
  { s with mem := m, orders := s.orders.map (fun e => (e.1, swapWrites a b e.2)), cmds := cmds, ctxs := ctxs, poison := poison }

/-- Location of a physical address of device or host memory. -/
def State.physLoc (s : State) (host : Bool) (pa : Nat) : Option Nat := if host then some (hostLoc pa) else paLoc s.ncc pa

/-- Nothing is written at a granule of locations, or is on its way there. -/
def State.untouched (s : State) (a : Nat) : Bool :=
  let hit (l : List Wr) : Bool := l.any (fun w => decide (w.n ≠ 0 ∧ a < w.loc + w.n ∧ w.loc < a + 4096))
  !(s.mem.any (fun e => decide (a ≤ e.1 ∧ e.1 < a + 4096))) && !(s.orders.any (fun e => hit e.2)) &&
    !(s.cmdList.any (fun c => hit c.outbox)) && !(s.ctxs.any (fun e => hit e.2.outbox)) && !(hit (s.inbound.map Inbound.wr)) &&
    !(s.poisoned a 4096)

/-- A range of physical addresses: in host memory or the device's, first byte, length. -/
abbrev PhysRange := Bool × Nat × Nat

/-- The tables and pages of an address space, `k` levels from a table. -/
def tableFrames (s : State) : Nat → Nat → List PhysRange
  | 0, _ => []
  | k + 1, table =>
    (false, table, 4096) :: (List.range 512).flatMap (fun i =>
      let e := s.readPa (table + 8 * i) 8
      if !pteValid e then []
      else if pteLeaf e then [(pteHost e, ptePa e, 2 ^ (12 + 9 * k))]
      else tableFrames s k (ptePa e))

/-- The place of a ring register's ring or record area: 2^19 slots of 64 bytes at most (R379). -/
def ringFrames (r : BitVec 64) : PhysRange := (r.getLsbD 63, r.toNat / 2 ^ 6 % 2 ^ 46 * 64, 2 ^ 25)

/-- Physical ranges that something names: pages and tables of address spaces, save and trap areas, rings, eviction buffers and
exports (log 22). -/
def State.namedRanges (s : State) : List PhysRange :=
  s.roots.flatMap (fun e => (e.2.map (tableFrames s 4)).getD []) ++
  (s.kernels.filter (fun e => e.2.alive)).flatMap (fun e =>
    let n := e.2.cores.length * e.2.ctxN
    [(false, e.2.saveArea, 1280 * 1024 * n), (false, e.2.trapArea, 32 * n)]) ++
  s.hqs.flatMap (fun e => [ringFrames e.2.ring, ringFrames e.2.comp]) ++
  [0, 1].filterMap (fun d => (s.evictBase d).map (fun a => (false, a, 2 ^ 28))) ++
  (s.exports.filter (fun e => e.2.1.getLsbD 63)).map (fun e => (false, e.2.2.toNat, 4096 * (e.2.1.toNat % 2 ^ 28)))

/-- A page of the target that a migration may take: nothing names it, and nothing is written in it (R311, log 22). -/
def State.pageFree (s : State) (named : List PhysRange) (host : Bool) (size pa : Nat) : Bool :=
  !(named.any (fun r => r.1 == host && decide (pa < r.2.1 + r.2.2 ∧ r.2.1 < pa + size))) &&
    (List.range (size / 4096)).all (fun i =>
      (s.physLoc host (pa + 4096 * i)).any (fun a => s.untouched a && !(decide (size < 2 ^ 20) && s.deadAt a)))

/-- The first of `k` pages from number `i` on, modulo `n`, that passes a test. -/
def findPage (p : Nat → Bool) (n : Nat) : Nat → Nat → Option Nat
  | 0, _ => none
  | k + 1, i => if p (i % n) then some (i % n) else findPage p n k (i + 1)

/-- A page address of the target of a migration: the command processor's choice among the free ones (R311, log 22). -/
def State.newPage (s : State) (host : Bool) (size : Nat) : Option Nat :=
  let n := (if host then 2 ^ 52 else 2 ^ 29 * (1024 - s.ncc)) / size
  let named := s.namedRanges
  (findPage (fun i => s.pageFree named host size (i * size)) n n (s.free % n)).map (fun i => i * size)

/-- Move one granule; what a retired channel held is lost, and its place at the new page is marked (R311, R331). -/
def State.moveGranule (s : State) (a b : Nat) : State :=
  let s1 := s.swapGranule a b
  if s.deadAt a then ((s1.writeSys b 4096 (s1.lostRun a 4096)).taint b 4096).draw else s1

/-- The entry of a page of a block after the block has gone from `old` to `new`. -/
def movedPte (host : Bool) (old new e : Nat) : Nat :=
  e - ptePa e - (if pteHost e then 2 ^ 59 else 0) + (ptePa e + new - old) + (if host then 2 ^ 59 else 0)

/-- Move a page, with the block that it lies in (DESIGN CHOICE, log 22), to `new`, granule by granule, and rewrite every entry that maps a
part of it, whichever address space it belongs to; no TLB keeps an old one (R311, R312). -/
def State.movePage (s : State) (pte size : Nat) (host : Bool) (new : Nat) : State :=
  let b := s.blockOf pte size
  let old := pteHost pte
  let mine := s.leaves.filter (fun l => l.meets old b.1 b.2)
  let s1 := (List.range (b.2 / 4096)).foldl (fun t i =>
    match t.physLoc old (b.1 + 4096 * i), t.physLoc host (new + 4096 * i) with
    | some x, some y => t.moveGranule x y
    | _, _ => t) s.draw
  let s2 := mine.foldl (fun t l => t.writePa l.at_ 8 (movedPte host b.1 new l.pte)) s1
  s2.dropTlbs (fun t => Leaf.meets ⟨0, t.pte, t.size⟩ old b.1 b.2)

/-- Part of the block of a page lies on a retired channel, where it is or where it goes (R331). -/
def State.pageLost (s : State) (pte size : Nat) (host : Bool) (new : Nat) : Bool :=
  let b := s.blockOf pte size
  (List.range (b.2 / 4096)).any (fun i =>
    (s.physLoc (pteHost pte) (b.1 + 4096 * i)).any s.deadAt || (s.physLoc host (new + 4096 * i)).any s.deadAt)

/-- A page that arrives after its deadline is a slip (R316). -/
def State.slipPage (s : State) (c : Cmd) (dl page : Nat) : State :=
  let d := coreDie c.core
  let e := (c.asid, pageOf page, s.scht - c.tick - dl)
  { s with slip := mset 0 s.slip d ((mget 0 s.slip d + 1) % 2 ^ 64)
           slipRing := mset [] s.slipRing d ((e :: mget [] s.slipRing d).take 256) }

/-- A page of a CMIG is done with: the last one ends the command (R311, R316, R331). -/
def State.pageDone (s : State) (c : Cmd) (page : Nat) : State :=
  let c1 := { c with pages := c.pages.filter (fun p => p != page) }
  if c1.pages.isEmpty then
    match c1.gone with
    | some p => s.endCmd c1 0x04 (pageOf p)
    | none => s.endCmd c1 (if c1.pinned then 0x08 else 0x00) (min c1.late (2 ^ 32 - 1))
  else (s.setCmd { c1 with due := s.cycle + 1 + s.free }).draw

/-- A page goes to the target: to a free page, once there is one. One that is there by now has arrived, one that is pinned by now stays,
and one that no valid entry maps by now ends the command with STATUS 0x03 (R311). -/
def State.migratePage (s : State) (c : Cmd) (page : Nat) (host : Bool) (dl : Nat) : State :=
  match s.walk c.asid page with
  | .leaf pte _ size =>
    if pteHost pte = host then s.pageDone c page
    else if s.pagePinned pte size then s.pageDone { c with pinned := true } page
    else
    match s.newPage host (s.blockOf pte size).2 with
    | some new =>
      let s1 := s.movePage pte size host new
      let late := decide (dl ≠ 0 ∧ c.tick + dl < s.scht)
      let c1 := { (s1.cmd? c.id).getD c with
        late := c.late + (if late then 1 else 0)
        gone := c.gone.or (if s.pageLost pte size host new then some page else none) }
      (if late then s1.slipPage c dl page else s1).pageDone c1 page
    | none => (s.setCmd { c with due := s.cycle + 1 + s.free }).draw
  | _ => s.pageUnmapped c page

/-- CMIG_PAGE_ARRIVAL: a page of a migration is at the target (R311). -/
def execCmigPageArrival (id page : Nat) (s : State) : Out :=
  match s.cmd? id with
  | some c =>
    match c.job with
    | .cmig host dl => .next (if c.stage == .moving && c.pages.contains page then s.migratePage c page host dl else s)
    | _ => .next s
  | none => .next s

/-! ### The engine (R303) -/

/-- Channel of a near-memory command's unit, by the entry of its first word (R341). -/
def State.unitOf (s : State) (c : Cmd) : Nat :=
  let h := (c.word 0).toNat / 2 ^ 32
  32 * (h / 2 ^ 29) + (mget {} s.caps (h / 2 ^ 29 * 8192 + h / 2 ^ 16 % 8192)).ch

/-- Commands that stand in a unit's queue (R341). -/
def State.unitQueue (s : State) (ch : Nat) : List Cmd :=
  s.cmdList.filter (fun d => match d.stage with | .atUnit k _ => k == ch | _ => false)

/-- Commands and deliveries that stand in it (R341, R368). -/
def State.unitLoad (s : State) (ch : Nat) : Nat :=
  (s.unitQueue ch).length + (s.cmdList.filter (fun c => c.ring.arr.any (fun p => p.1 == ch))).length

/-- The unit's queue of 64, and what is on its way to it, leaves no room (R341). -/
def State.unitFull (s : State) (ch : Nat) : Bool :=
  decide (64 ≤ s.unitLoad ch + (s.cmdList.filter (fun d => d.stage == .sent && s.unitOf d == ch)).length)

/-- A command at the head of its queue may start. -/
def State.headReady (s : State) (c : Cmd) : Bool :=
  decide (c.due ≤ s.cycle) && !(c.job.isNm && s.unitFull (s.unitOf c))

/-- Heads of the queues of a cluster's copy engine: for each context the oldest command that has not started. -/
def State.copyHeads (s : State) (k : Nat) : List Cmd :=
  s.cmdList.filter (fun c => c.waiting && !c.job.isColl && coreCluster c.core == k &&
    !(s.cmdList.any (fun d => d.waiting && !d.job.isColl && d.ctx == c.ctx && decide (d.id < c.id))))

/-- Place of a command's queue in the round-robin order (R303). -/
def Cmd.lane (c : Cmd) : Nat := 4 * coreBench c.core + c.hw

/-- The next after `last` in round-robin order. -/
def nextRobin (key : Cmd → Nat) (last : Option Nat) (l : List Cmd) : Option Cmd :=
  let sorted := sortBy (fun a b => decide (key a ≤ key b)) l
  match last with
  | none => sorted.head?
  | some n => (sorted.find? (fun c => decide (n < key c))).or sorted.head?

/-- The command that a cluster's copy engine starts next, at most one a bc (R303); bc edges are the even cycles (R7; DESIGN CHOICE,
log 3). -/
def State.copyNext (s : State) (k : Nat) : Option Cmd :=
  if s.cycle % 2 = 0 ∧ mget 0 s.ceNext k ≤ s.cycle then
    nextRobin Cmd.lane (match mget 0 s.ceLast k with | 0 => none | n + 1 => some n) ((s.copyHeads k).filter s.headReady)
  else none

/-- Start a command: a near-memory command goes to its base die (R341), any other runs, its Acquire before every access (R107 step 3,
R306 to R311). -/
def State.startCmd (s : State) (c : Cmd) : State :=
  match c.job with
  | .cpy .. => s.startRows (s.acquireCmd c) [0] (decide (4096 < c.rlen))
  | .cgath ib => s.startRows (s.acquireCmd c) [0] (decide (4096 < c.rlen) || ib == c.bank)
  | .cpair => s.startRows (s.acquireCmd c) [0, 1] (pairBad c)
  | .cpyt _ e => s.startCpyt (s.acquireCmd c) e
  | .cmig host _ => s.startCmig (s.acquireCmd c) host
  | _ => (s.setCmd { c with stage := .sent, due := s.cycle + 1 + s.free }).draw

/-- The command of a cluster's copy engine that makes an access next. -/
def State.accessNext (s : State) (k : Nat) : Option Cmd := s.cmdList.find? (fun c => coreCluster c.core == k && s.accessDue c)

/-- COPY_COMMAND_START of a cluster's engine (R303), and the accesses of the commands it has started: one, with its checks, at a
time (R107, R179). -/
def execCopyCommandStart (k : Nat) (s : State) : Out :=
  match s.copyNext k with
  | some c =>
    let s1 := { s with ceNext := mset 0 s.ceNext k (s.cycle + 2), ceLast := mset 0 s.ceLast k (c.lane + 1) }
    .next (s1.startCmd c)
  | none =>
    match s.accessNext k with
    | some c => .next (s.runCmd k c)
    | none => .next s

end Sys2Proof.Machine
end

