-- ==== Sys2Proof/Machine/NearMem.lean ====
section
/-! DEFINITION. Near-memory commands (R334 to R347): capability words, the checks of R338, NMCOPY and NMDOT. A command makes the
accesses of its scratchpad side one at a time, each of at most 512 bytes, and performs its steps at the memory in one step of the model
(log 8). -/

namespace Sys2Proof.Machine

/-! ### Issue -/

/-- NMCOPY (R343). -/
def execNmcopy (f : CF) (dpitch : BitVec 25) (s : State) : Out := cSlot f 0x10 (.nmcopy dpitch.toNat) 2 s

/-- NMDOT (R345). -/
def execNmdot (f : CF) (spa : Spa) (s : State) : Out := cSlotSpa f 0x11 .consumer spa .nmdot 2 s

/-! ### Capability words (R334, R335) -/

def capHandle (w : BitVec 64) : Nat := w.toNat / 2 ^ 32
def capOff (w : BitVec 64) : Nat := w.toNat % 2 ^ 32
def handleStack (h : Nat) : Nat := h / 2 ^ 29 % 8
def handleIndex (h : Nat) : Nat := h / 2 ^ 16 % 8192
def handleGen (h : Nat) : Nat := h % 2 ^ 16

/-- Key of the entry a handle names. -/
def handleKey (h : Nat) : Nat := 8192 * handleStack h + handleIndex h

def State.cap (s : State) (key : Nat) : Cap := mget {} s.caps key

def State.setCap (s : State) (key : Nat) (e : Cap) : State := { s with caps := mset {} s.caps key e }

/-- The entry of a capability word. -/
def State.capOf (s : State) (w : BitVec 64) : Cap := s.cap (handleKey (capHandle w))

/-- Global channel of a word's entry (R327). -/
def State.capChan (s : State) (w : BitVec 64) : Nat := 32 * handleStack (capHandle w) + (s.capOf w).ch

/-- Location of a byte at an offset from an entry's base. -/
def State.capLoc (s : State) (w : BitVec 64) (off : Nat) : Nat := dramLoc (s.capChan w) (64 * (s.capOf w).base + off)

/-! ### Checks (R338) -/

/-- DETAIL, bits [63:16] of the record: the operand in record bits [18:16], an offset in [63:32]. -/
def opDetail (operand off : Nat) : Nat := operand + off % 2 ^ 32 * 2 ^ 16

/-- A failed check: STATUS and DETAIL. -/
abbrev Failed := Nat × Nat

/-- 0x10: the entry is not valid under the handle. -/
def State.staleCap (s : State) (w : BitVec 64) : Bool :=
  !(s.capOf w).valid || (s.capOf w).gen != handleGen (capHandle w)

/-- What a command needs of an entry: KIND FILTER or PLAIN, and a right. -/
structure Need where
  filter : Bool
  right  : Cap → Bool

/-- First operand of a list for which a test fails, as its index. -/
def firstOp (words : List (BitVec 64 × Nat)) (bad : BitVec 64 → Bool) : Option Nat :=
  (words.find? (fun p => bad p.1)).map Prod.snd

/-- Checks 0x10 to 0x14, table-order major, operand minor. -/
def State.capChecks (s : State) (asid : Nat) (need : Need) (words : List (BitVec 64 × Nat)) : Option Failed :=
  let fails (st : Nat) (bad : BitVec 64 → Bool) : Option Failed := (firstOp words bad).map (fun i => (st, opDetail i 0))
  (fails 0x10 s.staleCap).or <|
  (fails 0x11 (fun w => s.deadChs.contains (s.capChan w))).or <|
  (fails 0x12 (fun w => (s.capOf w).owner != asid)).or <|
  (fails 0x13 (fun w => (s.capOf w).filter != need.filter)).or <|
  (fails 0x14 (fun w => !(need.right (s.capOf w))))

/-- Lowest byte of an operand, given as its pieces in ascending order, that lies at or above a limit. -/
def firstAbove (lim : Nat) (rows : List (Nat × Nat)) : Option Nat :=
  (rows.find? (fun r => decide (0 < r.2 ∧ lim < r.1 + r.2))).map (fun r => max r.1 lim)

/-- End of the frame that holds an operand's lowest byte, as an offset from the entry's base (R339). -/
def frameEnd (e : Cap) (rows : List (Nat × Nat)) : Nat :=
  match rows.find? (fun r => decide (0 < r.2)) with
  | some r => ((64 * e.base + r.1) / 2 ^ 21 + 1) * 2 ^ 21 - 64 * e.base
  | none => 0

/-- Checks 0x19 and 0x1A of operands, each a word, its index and its pieces (R339). -/
def State.boundChecks (s : State) (ops : List (BitVec 64 × Nat × List (Nat × Nat))) : Option Failed :=
  let fails (st : Nat) (lim : BitVec 64 → List (Nat × Nat) → Nat) : Option Failed :=
    ops.findSome? (fun o => (firstAbove (lim o.1 o.2.2) o.2.2).map (fun a => (st, opDetail o.2.1 a)))
  (fails 0x19 (fun w _ => 64 * (s.capOf w).len)).or (fails 0x1A (fun w rows => frameEnd (s.capOf w) rows))

/-! ### NMCOPY (R343) -/

/-- Rows of an operand: offset and bytes. -/
def nmRows (c : Cmd) (off pitch : Nat) : List (Nat × Nat) :=
  if c.rlen = 0 then [] else (List.range c.rows).map (fun r => (off + 64 * pitch * r, 64 * c.rlen))

/-- Two operands of one channel share a byte. -/
def rowsMeet (a b : List (Nat × Nat)) : Bool :=
  a.any (fun x => b.any (fun y => decide (x.1 < y.1 + y.2 ∧ y.1 < x.1 + x.2)))

/-- Rows as places of the channel. -/
def State.placed (s : State) (w : BitVec 64) (rows : List (Nat × Nat)) : List (Nat × Nat) :=
  rows.map (fun r => (s.capLoc w r.1, r.2))

/-- The checks of an NMCOPY, in order. -/
def State.nmcopyChecks (s : State) (c : Cmd) (dpitch : Nat) : Option Failed :=
  let src := c.word 0
  let dst := c.word 1
  let away := handleStack (capHandle dst) != handleStack (capHandle src)
  let words := if away then [(src, 0)] else [(src, 0), (dst, 1)]
  let a := nmRows c (capOff src) c.mpitch
  let b := nmRows c (capOff dst) dpitch
  let empty := a.isEmpty
  let unaligned := firstOp [(src, 0), (dst, 1)] (fun w => capOff w % 64 != 0)
  (s.capChecks c.asid ⟨false, Cap.copy⟩ words).or <|
  (if empty then none else unaligned.map (fun i => ((0x15, opDetail i 0) : Failed))).or <|
  (if away || s.capChan src != s.capChan dst then some (0x17, opDetail 1 0) else none).or <|
  (if rowsMeet (s.placed src a) (s.placed dst b) then some (0x18, opDetail 1 0) else none).or <|
  s.boundChecks [(src, 0, a), (dst, 1, b)]

/-- Copy rows of 64-byte units in ascending order, each with its mark; the first poisoned source unit's offset. -/
def State.nmcopyUnits (s : State) (src dst : BitVec 64) : Cmd → List (Nat × Nat) → Option Nat → Cmd × Option Nat × State
  | c, [], bad => (c, bad, s)
  | c, (a, b) :: l, bad =>
    let from_ : Run := { loc := s.capLoc src a, n := 64, va := a }
    let dest : Run := { loc := s.capLoc dst b, n := 64, va := b }
    let isBad := s.runBad from_
    let r := s.writeRunCmd c dest (s.readRunCmd c from_) isBad
    r.2.nmcopyUnits src dst r.1 l (bad.or (if isBad then some a else none))

/-- NMCOPY at its unit. -/
def State.startNmcopy (s : State) (c : Cmd) (dpitch : Nat) : State :=
  match s.nmcopyChecks c dpitch with
  | some f => s.endCmd c f.1 f.2
  | none =>
    let src := c.word 0
    let dst := c.word 1
    let units := (List.range c.rows).flatMap (fun r => (List.range c.rlen).map (fun u =>
      (capOff src + 64 * c.mpitch * r + 64 * u, capOff dst + 64 * dpitch * r + 64 * u)))
    let x := s.nmcopyUnits src dst c units none
    match x.2.1 with
    | some off => x.2.2.endCmd x.1 0x1B (opDetail 0 off)
    | none => x.2.2.endCmd x.1 0x00 0

/-! ### NMDOT (R344 to R346) -/

/-- Fields of the parameter word (R344). -/
def dotK (p : Nat) : Nat := p % 2 ^ 20
def dotTy (p : Nat) : Option ETy :=
  (ETy.ofCode (p / 2 ^ 20 % 16)).filter (fun t => decide (t.code ∈ [2, 3, 4, 5, 9, 10, 11, 12, 13]))
def dotAcc (p : Nat) : Bool := p.testBit 24
def dotBank (p : Nat) : Nat := p / 2 ^ 25 % 16
def dotOff (p : Nat) : Nat := p / 2 ^ 29 % 2 ^ 18

/-- Element type of an NMDOT whose parameter word passes. -/
def Cmd.dotTy (c : Cmd) : ETy := (Machine.dotTy (c.word 1).toNat).getD .i8

/-- Bytes of the query and of a row. -/
def Cmd.dotBytes (c : Cmd) : Nat := dotK (c.word 1).toNat * c.dotTy.width / 8

/-- The parameter word, or the query it describes, is refused. -/
def Cmd.dotBad (c : Cmd) : Bool :=
  let p := (c.word 1).toNat
  decide (2 ^ 47 ≤ p) || (Machine.dotTy p).isNone || dotOff p % 64 != 0 || decide (262144 < c.dotBytes)

/-- Rows of the row operand. -/
def Cmd.dotRows (c : Cmd) : List (Nat × Nat) :=
  if c.dotBytes = 0 then []
  else (List.range c.rows).map (fun r => (capOff (c.word 0) + 64 * c.mpitch * r, c.dotBytes))

/-- The checks of an NMDOT, in order. -/
def State.nmdotChecks (s : State) (c : Cmd) : Option Failed :=
  let w := c.word 0
  (s.capChecks c.asid ⟨false, Cap.dot⟩ [(w, 0)]).or <|
  (if capOff w % 64 ≠ 0 then some (0x15, opDetail 0 0) else none).or <|
  (if c.dotBad then some (0x15, opDetail 1 0) else none).or <|
  (if profInt c.prof then some (0x16, opDetail 0 0) else none).or <|
  s.boundChecks [(w, 0, c.dotRows)]

/-- Exact products of two lane strings. -/
def nmDotProducts (t : ETy) (k a b : Nat) : List Ext :=
  (List.range k).map (fun i => dotMul t.isInt (valOf t (laneAt t.width a i)) (valOf t (laneAt t.width b i)))

/-- Accumulator input of row `r`, where the word asks for one: its FP32 word among the bytes read, which follow the query. -/
def Cmd.dotAccum (c : Cmd) (r : Nat) : PSum :=
  if dotAcc (c.word 1).toNat then .fp (BitVec.ofNat 32 (laneAt 32 (c.nm.data / 256 ^ c.dotBytes) r)) else .fp 0

/-- Result of one row, with the query and the accumulators that have been read (R345). -/
def State.dotRow (s : State) (c : Cmd) (r : Nat) (row : Nat × Nat) : BitVec 32 :=
  let a := s.readRunCmd c { loc := s.capLoc (c.word 0) row.1, n := row.2 }
  let q := c.nm.data % 256 ^ c.dotBytes
  (reduce 0 c.prof 4 (c.dotAccum r) (chunkSums c.prof (nmDotProducts c.dotTy (dotK (c.word 1).toNat) q a))).1.pat

/-- Offset of the first poisoned unit of a row operand. -/
def State.rowsBad (s : State) (w : BitVec 64) (rows : List (Nat × Nat)) : Option Nat :=
  rows.findSome? (fun r => (s.firstBad (s.capLoc w r.1) r.2).map (fun a => a - s.capLoc w 0))

/-- Record bits 17 and 18 (R345). -/
def dotDetail (l : List (BitVec 32)) : Nat :=
  (if l.any (fun v => isNaN .fp32 v.toNat) then 2 else 0) +
  (if l.any (fun v => v.toNat % 2 ^ 31 == 0x7F800000) then 4 else 0)

/-- The bytes to write are known: their accesses follow, and then the end with a status. -/
def State.deliverNm (s : State) (c : Cmd) (out len : Nat) (marks : List Nat) (e : Failed) : State :=
  if len = 0 then s.endCmd c e.1 e.2
  else
    (s.setCmd { c with
      nm := { c.nm with phase := .deliver, out := out, len := len, marks := marks }
      status := e.1, detail := e.2, due := s.cycle + 1 + s.free }).draw

/-- NMDOT computes once its query and accumulators are read; poisoned rows, a poisoned query or accumulator give STATUS 0x1B and no
result. -/
def State.doNmdot (s : State) (c : Cmd) : State :=
  match s.rowsBad (c.word 0) c.dotRows with
  | some off => s.endCmd c 0x1B (opDetail 0 off)
  | none =>
    if c.nm.bad then s.endCmd c 0x1B 0
    else
      let rows := if c.dotBytes = 0 then (List.range c.rows).map (fun _ => (0, 0)) else c.dotRows
      let res := rows.zipIdx.map (fun x => s.dotRow c x.2 x.1)
      s.deliverNm c (packLanes 32 (res.map BitVec.toNat)) (4 * res.length) [] (0x00, dotDetail res)

end Sys2Proof.Machine
end

