-- ==== Sys2Proof/Machine/Filter.lean ====
section
/-! DEFINITION. Filter regions (R348 to R372): cells, samples, steps, taps, the commands FSAMP, FTAP, FTICK and FRESET, and
the arrival and start of a command at a near-memory unit (R341, R368). -/

namespace Sys2Proof.Machine

/-! ### Issue -/

/-- FSAMP (R362). -/
def execFsamp (f : CF) (ty : ETy) (spa : Spa) (s : State) : Out := cSlotSpa f 0x20 .consumer spa (.fsamp ty) 2 s

/-- FTAP (R363). -/
def execFtap (f : CF) (spa : Spa) (s : State) : Out := cSlotSpa f 0x21 .producer spa .ftap 2 s

/-- FTICK of one region; the word holds n − 1 (R364). -/
def execFtick (f : CF) (n1 : BitVec 12) (s : State) : Out := cSlot f 0x22 (.ftick 1 (n1.toNat + 1)) 1 s

/-- FTICK.G of a group of gn regions (R364). -/
def execFtickG (f : CF) (gn1 : BitVec 3) (n1 : BitVec 12) (s : State) : Out :=
  cSlot f 0x22 (.ftick (gn1.toNat + 1) (n1.toNat + 1)) (gn1.toNat + 1) s

/-- FRESET (R365). -/
def execFreset (f : CF) (s : State) : Out := cSlot f 0x23 (.freset false) 2 s

/-- FRESET.IN (R365). -/
def execFresetIn (f : CF) (s : State) : Out := cSlot f 0x23 (.freset true) 2 s

/-! ### Cell arithmetic (R352 to R356) -/

/-- Modes of a state rounding (R349): RNE or RZ, no flush. -/
def Cap.modes (e : Cap) : Modes := { rneModes with mode := if e.rz then .rz else .rne }

/-- Value of a stored state word. -/
def Cap.decode (e : Cap) (w : Nat) : Ext := if e.fx then shiftExt e.es (extInt (intOf .i32 w)) else valOf .fp32 w

/-- An exact value rounded to an integer: none for a NaN. -/
def roundToInt (c : Modes) : Ext → Option (Option Bool × Int)
  | .nan => none
  | .inf n => some (some n, 0)
  | .num n m e =>
    let k := (onGrid c 0 n m e 0).1
    some (none, if n then -(k : Int) else k)

/-- The nearer end of a range, and whether the value lay outside. -/
def clampInt (lo hi : Int) (x : Option Bool × Int) : Int × Bool :=
  match x.1 with
  | some true => (lo, true)
  | some false => (hi, true)
  | none => if x.2 < lo then (lo, true) else if hi < x.2 then (hi, true) else (x.2, false)

/-- StateRound (R355): the stored word and whether SOV is set. -/
def Cap.stateRound (e : Cap) (v : Ext) : Nat × Bool :=
  if e.fx then
    match roundToInt e.modes (shiftExt (-e.es) v) with
    | none => (0, true)
    | some x =>
      let q := clampInt (-(2 ^ 31)) (2 ^ 31 - 1) x
      (wrapTo .i32 q.1, q.2)
  else
    let r := (roundFloat e.modes false .fp32 0 v).1
    match v with
    | .num _ m x => (r, beyondMax .fp32 m x || r % 2 ^ 31 == 0x7F800000)
    | _ => (r, true)

/-- Sum of products, each of a coefficient pattern, a value and a sign (R24, R66, R83). -/
def coefSum : Ext → List (Nat × Ext × Bool) → Ext
  | acc, [] => acc
  | acc, (k, x, neg) :: l =>
    let p := (mulExt (valOf .fp32 k) x).1
    coefSum (addExt false acc (if neg then negExt p else p)).1 l

/-- Step (R355). -/
def Cap.stepCell (e : Cap) (c : Cell) (xin : Ext) : Cell :=
  let x := e.stateRound xin
  let first := (mulExt (valOf .fp32 e.cb0) (e.decode x.1)).1
  let v := coefSum first [(e.cb1, e.decode c.x0, false), (e.cb2, e.decode c.x1, false),
    (e.ca1, e.decode c.y0, true), (e.ca2, e.decode c.y1, true)]
  let y := e.stateRound v
  { c with x1 := c.x0, x0 := x.1, y1 := c.y0, y0 := y.1, sov := c.sov || x.2 || y.2 }

/-- `g` zero-input steps. -/
def Cap.idle (e : Cap) : Nat → Cell → Cell
  | 0, c => c
  | g + 1, c => e.idle g (e.stepCell c (.num false 0 0))

/-- The value ACC·2^EIN. -/
def Cap.input (e : Cap) (acc : Int) : Ext := shiftExt e.ein (extInt acc)

/-- CatchUp (R356). -/
def Cap.catchUp (e : Cap) (c : Cell) : Cell :=
  let g := (e.t + 2 ^ 32 - c.stamp) % 2 ^ 32
  if g = 0 then c else { e.idle (g - 1) (e.stepCell c (e.input c.acc)) with acc := 0, stamp := e.t }

/-- Transform of a sample (R353). -/
def Cap.transform (e : Cap) (x : Ext) : Ext :=
  match e.xf, x with
  | 1, x => (mulExt x x).1
  | 2, .inf _ => .inf false
  | 2, .num _ m k => .num false m k
  | _, x => x

/-- Sample (R353); its flags are ORed into the cell's. -/
def Cap.addSample (e : Cap) (c : Cell) (x : Ext) : Cell :=
  match roundToInt rneModes (shiftExt (-e.ein) (e.transform x)) with
  | none => { c with nan := true }
  | some z =>
    let n := clampInt (-(2 ^ 55)) (2 ^ 55 - 1) z
    let a := clampInt (-(2 ^ 71)) (2 ^ 71 - 1) (none, c.acc + n.1)
    { c with acc := a.1, clp := c.clp || n.2, aov := c.aov || a.2 }

/-- A cell with its sticky flags clear. -/
def Cell.unflagged (c : Cell) : Cell := { c with sov := false, aov := false, nan := false, clp := false }

/-- A cell whose sticky flags are those of `d` as well. -/
def Cell.withFlags (c d : Cell) : Cell :=
  { c with sov := c.sov || d.sov, aov := c.aov || d.aov, nan := c.nan || d.nan, clp := c.clp || d.clp }

/-- FLAGS bits [3:0]. -/
def Cell.flagBits (c : Cell) : Nat :=
  (if c.clp then 1 else 0) + (if c.nan then 2 else 0) + (if c.aov then 4 else 0) + (if c.sov then 8 else 0)

/-- The 32 bytes of a cell (R352). -/
def Cell.bytes (c : Cell) : Nat :=
  let a := (c.acc % (2 ^ 72 : Nat)).toNat
  c.y0 + c.y1 * 2 ^ 32 + c.x0 * 2 ^ 64 + c.x1 * 2 ^ 96 + a % 2 ^ 64 * 2 ^ 128 + c.stamp * 2 ^ 192 +
    (c.flagBits + a / 2 ^ 64 * 2 ^ 24) * 2 ^ 224

/-! ### Cells of the machine -/

/-- The cell at a location. -/
def State.cell (s : State) (loc : Nat) : Cell := mget {} s.cells (loc / 32)

def State.setCell (s : State) (loc : Nat) (c : Cell) : State := { s with cells := mset {} s.cells (loc / 32) c }

/-- Locations of the cells of an entry (R348). -/
def regionCells (key : Nat) (e : Cap) : List Nat :=
  (List.range (2 * e.len)).map (fun k => dramLoc (32 * (key / 8192) + e.ch) (64 * e.base + 32 * k))

/-- Catch a region's cells up to T (R351, R357); poisoned cells stay as they are (R360). -/
def State.sweep (s : State) (key : Nat) : State :=
  let e := s.cap key
  (regionCells key e).foldl (fun t a => if t.unitBad a then t else t.setCell a (e.catchUp (t.cell a))) s

/-- The catching up of some cell sets SOV. -/
def State.sweepSov (s : State) (key : Nat) : Bool :=
  let e := s.cap key
  (regionCells key e).any (fun a => !(s.unitBad a) && (e.catchUp (s.cell a).unflagged).sov)

/-! ### The commands -/

/-- Parameter word (R361). -/
def parN (p : Nat) : Nat := p % 2 ^ 17
def parMask (p : Nat) : Nat := p / 2 ^ 17 % 32

/-- Bytes of each tap of a cell, Y0, Y1, X0, X1 and ACC (R359). -/
def Cap.tapBytes (e : Cap) : List Nat :=
  match e.tfmt with
  | 0 => [4, 4, 4, 4, 4]
  | 3 => [4, 4, 4, 4, 12]
  | _ => [2, 2, 2, 2, 2]

/-- Element type of a tap. -/
def Cap.tapTy (e : Cap) : ETy :=
  match e.tfmt with
  | 1 => .bf16
  | 2 => .fp16
  | _ => .fp32

/-- A state word as a tap. -/
def Cap.tapWord (e : Cap) (w : Nat) : Nat :=
  if e.tfmt = 3 ∨ (e.tfmt = 0 ∧ !e.fx) then w else (roundFloat rneModes false e.tapTy 0 (e.decode w)).1

/-- ACC as a tap. -/
def Cap.tapAcc (e : Cap) (a : Int) : Nat :=
  if e.tfmt = 3 then (a % (2 ^ 96 : Nat)).toNat else (roundFloat rneModes false e.tapTy 0 (e.input a)).1

/-- Values of the five taps. -/
def Cap.taps (e : Cap) (c : Cell) : List Nat :=
  [e.tapWord c.y0, e.tapWord c.y1, e.tapWord c.x0, e.tapWord c.x1, e.tapAcc c.acc]

/-- The selected elements of a list of five. -/
def selected (mask : Nat) (l : List Nat) : List Nat :=
  (l.zipIdx.filter (fun x => mask.testBit x.2)).map Prod.fst

/-- z: bytes of a cell's taps. -/
def Cap.tapSize (e : Cap) (mask : Nat) : Nat := (selected mask e.tapBytes).sum

/-- The bytes of a cell's taps, lowest first. -/
def Cap.tapValue (e : Cap) (mask : Nat) (c : Cell) : Nat :=
  ((selected mask e.tapBytes).zip (selected mask (e.taps c))).foldr (fun x v => x.2 + 256 ^ x.1 * v) 0

/-- Right a filter command needs. -/
def Job.right : Job → Cap → Bool
  | .fsamp _ => fun e => e.sample
  | .ftap => fun e => e.tap
  | _ => fun e => e.tick

/-- Bytes of the scratchpad side. -/
def State.filterPad (s : State) (c : Cmd) : Nat :=
  let p := (c.word 1).toNat
  match c.job with
  | .fsamp ty => parN p * ty.width / 8
  | .ftap => parN p * (s.capOf (c.word 0)).tapSize (parMask p)
  | _ => 0

/-- The parameter word is refused (R360, R361). -/
def State.parBad (s : State) (c : Cmd) : Bool :=
  let p := (c.word 1).toNat
  decide (2 ^ 22 ≤ p) || (c.job != .ftap && parMask p != 0) || decide (65536 < parN p) || decide (262144 < s.filterPad c)

/-- The words of a command that name regions, with their index. -/
def Cmd.regionWords (c : Cmd) : List (BitVec 64 × Nat) :=
  match c.job with
  | .ftick gn _ => (List.range gn).map (fun i => (c.word i, i))
  | _ => [(c.word 0, 0)]

/-- First word of a group that names an entry an earlier word names. -/
def twiceNamed (l : List (BitVec 64 × Nat)) : Option Nat :=
  (l.find? (fun x => l.any (fun y => decide (y.2 < x.2) && handleKey (capHandle y.1) == handleKey (capHandle x.1)))).map Prod.snd

/-- The checks of a filter command, in order (R338, R360); one of no cells passes every check (R361). -/
def State.filterChecks (s : State) (c : Cmd) : Option Failed :=
  let ws := c.regionWords
  let isTick := match c.job with | .ftick _ _ => true | _ => false
  let n := if isTick then 0 else parN (c.word 1).toNat
  if !isTick && n == 0 then none
  else (s.capChecks c.asid ⟨true, c.job.right⟩ ws).or <|
  ((firstOp ws (fun w => if isTick then capOff w != 0 else capOff w % 32 != 0)).map (fun i => ((0x20, opDetail i 0) : Failed))).or <|
  (if !isTick && s.parBad c then some (0x21, opDetail 1 0) else none).or <|
  ((twiceNamed ws).map (fun i => ((0x22, opDetail i 0) : Failed))).or <|
  s.boundChecks [(c.word 0, 0, [(capOff (c.word 0), 32 * n)])]

/-- Locations of a command's cells. -/
def State.filterCells (s : State) (c : Cmd) : List Nat :=
  (List.range (parN (c.word 1).toNat)).map (fun i => s.capLoc (c.word 0) (capOff (c.word 0) + 32 * i))

/-- STATUS and DETAIL of a filter command: a poisoned cell gives 0x1B with the first one's offset (R360). -/
def State.filterEnd (s : State) (c : Cmd) (detail : Nat) : Failed :=
  match ((s.filterCells c).zipIdx.find? (fun x => s.unitBad x.1)).map Prod.snd with
  | some i => (0x1B, opDetail 0 (capOff (c.word 0) + 32 * i))
  | none => (0x00, detail)

/-- End of a filter command that writes no scratchpad. -/
def State.endFilter (s : State) (c : Cmd) (detail : Nat) : State :=
  let e := s.filterEnd c detail
  s.endCmd c e.1 e.2

/-- FSAMP once its lanes are read (R362): catch up and add lane i to cell i; a flag record of what the command did. -/
def State.doFsamp (s : State) (c : Cmd) (ty : ETy) : State :=
  let e := s.capOf (c.word 0)
  if c.nm.bad then s.endCmd c 0x1B 0
  else
    let r := (s.filterCells c).zipIdx.foldl (fun (acc : State × Cell) x =>
      if acc.1.unitBad x.1 then acc
      else
        let c1 := e.catchUp (acc.1.cell x.1)
        let c2 := e.addSample c1.unflagged (valOf ty (laneAt ty.width c.nm.data x.2))
        (acc.1.setCell x.1 (c2.withFlags c1), acc.2.withFlags c2)) (s, {})
    let d := (if r.2.clp then 1 else 0) + (if r.2.nan then 2 else 0) + (if r.2.aov then 4 else 0)
    r.1.endFilter c d

/-- Bytes of a command's taps of one cell. -/
def State.tapLen (s : State) (c : Cmd) : Nat := (s.capOf (c.word 0)).tapSize (parMask (c.word 1).toNat)

/-- Mark the taps of poisoned cells among `m` bytes from byte `p` of the scratchpad side (R315, R360). -/
def State.taintTaps (s : State) (c : Cmd) (p m : Nat) : State :=
  let z := s.tapLen c
  (c.nm.marks.filter (fun i => decide (i * z < p + m ∧ p < i * z + z))).foldl (fun t i =>
    let lo := max p (i * z)
    let hi := min (p + m) (i * z + z)
    (t.taint (unitLoc c.core c.bank (c.off + lo)) 1).taint (unitLoc c.core c.bank (c.off + hi - 1)) 1) s

/-- FTAP's step (R363): the cells are caught up and their taps read; the writes follow. -/
def State.doFtap (s : State) (c : Cmd) : State :=
  let e := s.capOf (c.word 0)
  let z := s.tapLen c
  let cells := s.filterCells c
  let s1 := cells.foldl (fun t a => if t.unitBad a then t else t.setCell a (e.catchUp (t.cell a))) s
  let v := packLanes (8 * z) (cells.map (fun a => e.tapValue (parMask (c.word 1).toNat) (s1.cell a)))
  let fl := cells.foldl (fun f a => f ||| (s1.cell a).flagBits) 0
  s1.deliverNm c v (cells.length * z) ((cells.zipIdx.filter (fun x => s1.unitBad x.1)).map Prod.snd) (s1.filterEnd c (fl * 2))

/-- FRESET (R365). -/
def State.doFreset (s : State) (c : Cmd) (inOnly : Bool) : State :=
  let e := s.capOf (c.word 0)
  let s1 := (s.filterCells c).foldl (fun t a =>
    if t.unitBad a then t
    else if inOnly then t.setCell a { e.catchUp (t.cell a) with acc := 0 }
    else t.setCell a { stamp := e.t }) s
  s1.endFilter c 0

/-! ### Ticks (R364, R372) -/

/-- Tick of one region by n: the sweep where R357 calls for one, then T; and DETAIL bits 16 and 17. -/
def State.tickRegion (s : State) (key n : Nat) : State × Nat :=
  let e := s.cap key
  if 4096 < (e.t + 2 ^ 32 - e.lows) % 2 ^ 32 + n then
    let sov := s.sweepSov key
    ((s.sweep key).setCap key { e with lows := e.t, t := (e.t + n) % 2 ^ 32 }, if sov then 3 else 1)
  else (s.setCap key { e with t := (e.t + n) % 2 ^ 32 }, 0)

/-- A region's first poisoned cell, which a sweep cannot catch up. -/
def State.sweepBad (s : State) (key n : Nat) : Option Nat :=
  let e := s.cap key
  if 4096 < (e.t + 2 ^ 32 - e.lows) % 2 ^ 32 + n then
    ((regionCells key e).zipIdx.find? (fun x => s.unitBad x.1)).map (fun x => 32 * x.2)
  else none

/-- Tick the region of word `i`; STATUS and DETAIL accumulate in the command. -/
def State.tickWord (s : State) (c : Cmd) (n i : Nat) : Cmd × State :=
  let key := handleKey (capHandle (c.word i))
  let r := s.tickRegion key n
  match s.sweepBad key n with
  | some off => ((if c.status = 0 then { c with status := 0x1B, detail := opDetail i off } else c), r.1)
  | none => ((if c.status = 0 then { c with detail := c.detail ||| r.2 } else c), r.1)

/-- Tick a list of words in order. -/
def State.tickWords (s : State) (n : Nat) : Cmd → List Nat → Cmd × State
  | c, [] => (c, s)
  | c, i :: l =>
    let r := s.tickWord c n i
    r.2.tickWords n r.1 l

/-- What is left of a group goes on to the next region's unit, or the command ends (R372). -/
def State.tickOn (s : State) (c : Cmd) (left : List Nat) : State :=
  if left.isEmpty then s.endCmd c c.status c.detail
  else (s.setCmd { c with stage := .sent, left := left, due := s.cycle + 1 + s.free }).draw

/-- The words that the first region's unit ticks in one step: all of them where every region lies in its channel, else the first; and
the rest (R372). -/
def State.leadWords (s : State) (c : Cmd) (ch : Nat) (l : List Nat) : List Nat × List Nat :=
  if l.all (fun i => s.capChan (c.word i) == ch) then (l, []) else l.splitAt 1

/-- FTICK and FTICK.G at the first region's unit. -/
def State.doFtick (s : State) (c : Cmd) (ch gn n : Nat) : State :=
  let p := s.leadWords c ch (List.range gn)
  let r := s.tickWords n { c with status := 0, detail := 0 } p.1
  r.2.tickOn r.1 p.2

/-! ### The scratchpad side (R179, R185, R345, R362, R363) -/

/-- Bytes that a command reads of the scratchpad side: the query and the accumulators of an NMDOT, the lanes of an FSAMP. -/
def Cmd.gatherLen (c : Cmd) : Nat :=
  match c.job with
  | .nmdot => if c.rows = 0 then 0 else c.dotBytes + (if dotAcc (c.word 1).toNat then 4 * c.rows else 0)
  | .fsamp ty => parN (c.word 1).toNat * ty.width / 8
  | _ => 0

/-- Bank and offset of byte `p` of them, and the bytes in a row from there. -/
def Cmd.gatherAt (c : Cmd) (p : Nat) : Nat × Nat × Nat :=
  let w := (c.word 1).toNat
  if c.job = .nmdot ∧ c.dotBytes ≤ p then (dotBank w, dotOff w + (p - c.dotBytes), c.gatherLen - p)
  else (c.bank, c.off + p, (if c.job = .nmdot then c.dotBytes else c.gatherLen) - p)

/-- Bank and offset of byte `p` of what it writes: NMDOT's results, FTAP's taps. -/
def Cmd.deliverAt (c : Cmd) (p : Nat) : Nat × Nat :=
  let w := (c.word 1).toNat
  if c.job = .nmdot then (dotBank w, dotOff w + p) else (c.bank, c.off + p)

/-- The bank of the access that it makes next, where it makes one. -/
def Cmd.padBank (c : Cmd) : Option Nat :=
  match c.nm.phase with
  | .fresh => none
  | .gather => some (c.gatherAt c.nm.got).1
  | .deliver => some (c.deliverAt c.nm.put).1

/-- It grants an engine access in this cycle (R185). -/
def State.padGranted (s : State) (c : Cmd) : Bool := c.padBank.all (s.bankFree c.core)

/-- Its steps at the memory, once the scratchpad side is read. -/
def State.atMemory (s : State) (c : Cmd) : State :=
  match c.job with
  | .nmdot => s.doNmdot c
  | .fsamp ty => s.doFsamp c ty
  | .ftap => s.doFtap c
  | _ => s

/-- The checks have passed: the reads of the scratchpad side follow, or the steps at the memory where there are none. -/
def State.gatherNm (s : State) (c : Cmd) : State :=
  if c.gatherLen = 0 then s.atMemory c
  else (s.setCmd { c with nm := { c.nm with phase := .gather }, due := s.cycle + 1 + s.free }).draw

/-- One read: at most 512 bytes (R179). -/
def State.padReadStep (s : State) (c : Cmd) : State :=
  let a := c.gatherAt c.nm.got
  let m := min 512 a.2.2
  let v := s.readCmdPad c a.1 (a.2.1 % 2 ^ 18) m
  let c1 := { c with nm := { c.nm with
    data := c.nm.data + 256 ^ c.nm.got * v, got := c.nm.got + m
    bad := c.nm.bad || s.bankPoisoned c.core a.1 (a.2.1 % 2 ^ 18) m } }
  let t := s.useEngine c.core a.1
  if c1.gatherLen ≤ c1.nm.got then t.draw.atMemory c1 else (t.setCmd { c1 with due := s.cycle + 1 + s.free }).draw

/-- One write: at most 512 bytes; the last ends the command. -/
def State.padWriteStep (s : State) (c : Cmd) : State :=
  let a := c.deliverAt c.nm.put
  let m := min 512 (c.nm.len - c.nm.put)
  let t := ((s.useEngine c.core a.1).writePad c.core a.1 (a.2 % 2 ^ 18) m (c.nm.out / 256 ^ c.nm.put % 256 ^ m) false).taintTaps c c.nm.put m
  let c1 := { c with nm := { c.nm with put := c.nm.put + m } }
  if c1.nm.len ≤ c1.nm.put then t.endCmd c1 c1.status c1.detail else (t.setCmd { c1 with due := s.cycle + 1 + s.free }).draw

/-- A filter command at its unit. -/
def State.startFilter (s : State) (c : Cmd) (ch : Nat) : State :=
  match s.filterChecks c with
  | some f => s.endCmd c f.1 f.2
  | none =>
    match c.job with
    | .ftick gn n => s.doFtick c ch gn n
    | .freset inOnly => s.doFreset c inOnly
    | _ => s.gatherNm c

/-- NMDOT at its unit. -/
def State.startNmdot (s : State) (c : Cmd) : State :=
  match s.nmdotChecks c with
  | some f => s.endCmd c f.1 f.2
  | none => s.gatherNm c

/-! ### Arrival and start at a unit (R341, R368) -/

/-- An earlier command of the same context is still on its way to a base die. -/
def State.arrivesLater (s : State) (c : Cmd) : Bool :=
  s.cmdList.any (fun d => decide (d.id < c.id ∧ d.ctx = c.ctx) && d.stage == .sent && d.left.isEmpty)

/-- Unit that a command on its way will reach: that of its first word, or of the next word of a group. -/
def State.nextUnit (s : State) (c : Cmd) : Nat := s.capChan (c.word ((c.left.head?).getD 0))

/-- Put a command at the end of a unit's queue. -/
def State.arriveAt (s : State) (c : Cmd) (ch : Nat) : State :=
  let s1 := s.setCmd { c with stage := .atUnit ch s.nextId, due := s.cycle + 1 + s.free }
  { s1.draw with nextId := s.nextId + 1 }

/-- NM_COMMAND_ARRIVAL: the base die checks 0x10 and 0x11 and passes the command to its unit's queue of 64 (R341); a
forwarded tick joins its region's unit (R372). -/
def execNmCommandArrival (id : Nat) (s : State) : Out :=
  match s.cmd? id with
  | some c =>
    if c.stage != .sent || decide (s.cycle < c.due) then .next s
    else if !c.left.isEmpty then .next (s.arriveAt c (s.nextUnit c))
    else if s.arrivesLater c then .next s
    else if s.staleCap (c.word 0) then .next (s.endCmd c 0x10 (opDetail 0 0))
    else if s.deadChs.contains (s.capChan (c.word 0)) then .next (s.endCmd c 0x11 (opDetail 0 0))
    else if 64 ≤ s.unitLoad (s.capChan (c.word 0)) then .next s
    else .next (s.arriveAt c (s.capChan (c.word 0)))
  | none => .next s

/-- Place of a command in its unit's arrival order. -/
def Cmd.arrival (c : Cmd) : Nat :=
  match c.stage with
  | .atUnit _ arr => arr
  | _ => 0

/-- The oldest arrival at a unit (R368). -/
def State.unitHead (s : State) (ch : Nat) : Option Cmd :=
  match s.unitQueue ch with
  | [] => none
  | c :: l => some (l.foldl (fun a b => if b.arrival < a.arrival then b else a) c)

/-- No delivery of a collective has arrived at the unit before (R368). -/
def State.noDelivery (s : State) (ch arr : Nat) : Bool :=
  !(s.cmdList.any (fun c => c.ring.arr.any (fun p => decide (p.1 = ch ∧ p.2 < arr))))

/-- A command is the oldest that has arrived at its unit (R368). -/
def State.isHead (s : State) (ch : Nat) (c : Cmd) : Bool := ((s.unitHead ch).map Cmd.id) == some c.id && s.noDelivery ch c.arrival

/-- A command that its unit takes: it has started, and its Acquire comes before the checks (R107 step 3, R341); one that is under way
makes its next access. -/
def State.runAtUnit (s : State) (c : Cmd) (ch : Nat) : State :=
  match c.nm.phase, c.job with
  | .gather, _ => s.padReadStep c
  | .deliver, _ => s.padWriteStep c
  | .fresh, .nmcopy dp => s.startNmcopy (s.acquireCmd c) dp
  | .fresh, .nmdot => s.startNmdot (s.acquireCmd c)
  | .fresh, _ => s.startFilter (s.acquireCmd c) ch

/-- NM_COMMAND_START at the unit of a channel: the oldest arrival starts, unless it is a forwarded tick, or makes its next access of the
scratchpad side; the unit takes no other before it is done (R341, R368). -/
def execNmCommandStart (ch : Nat) (s : State) : Out :=
  match s.unitHead ch with
  | some c => .next (if c.left.isEmpty && s.isHead ch c && decide (c.due ≤ s.cycle) && s.padGranted c then s.runAtUnit c ch else s)
  | none => .next s

/-- FORWARDED_TICK: the oldest arrival at its unit, one region's tick of a group (R372). -/
def execForwardedTick (id : Nat) (s : State) : Out :=
  match s.cmd? id with
  | some c =>
    match c.stage, c.job, c.left with
    | .atUnit ch _, .ftick _ n, i :: l =>
      if s.isHead ch c && decide (c.due ≤ s.cycle) then
        let r := s.tickWord c n i
        .next (r.2.tickOn r.1 l)
      else .next s
    | _, _, _ => .next s
  | none => .next s

end Sys2Proof.Machine
end

