-- ==== Sys2Proof/Machine/Coll.lean ====
section
/-! DEFINITION. The collective engine (R414 to R422): COLL, its start and checks, the ready wait, the handshake, the ring
steps, deliveries into filter regions, and its failures. What members on other devices send arrives as the argument of a step;
members on this device pass tokens, segments and aborts themselves (log 24). -/

namespace Sys2Proof.Machine

/-- COLL.RS (R414). -/
def execCollRs (f : CF) (spa : Spa) (s : State) : Out := cSlotSpa f 0x28 .consumer spa (.coll 0) 1 s

/-- COLL.AG. -/
def execCollAg (f : CF) (spa : Spa) (s : State) : Out := cSlotSpa f 0x28 .consumer spa (.coll 1) 1 s

/-- COLL.AR. -/
def execCollAr (f : CF) (spa : Spa) (s : State) : Out := cSlotSpa f 0x28 .consumer spa (.coll 2) 1 s

/-! ### The descriptor (R416) -/

def RingSt.word (r : RingSt) (i : Nat) : Nat := (r.desc[i]?).getD 0
def RingSt.ex (r : RingSt) : Int := (BitVec.ofNat 8 (r.word 0 / 2 ^ 38)).toInt
def RingSt.filter (r : RingSt) : Bool := (r.word 0).testBit 37
def RingSt.exact (r : RingSt) : Bool := (r.word 0).testBit 36
def RingSt.tyCode (r : RingSt) : Nat := r.word 0 / 2 ^ 32 % 16
def RingSt.ty (r : RingSt) : ETy := (ETy.ofCode r.tyCode).getD .i32
def RingSt.count (r : RingSt) : Nat := r.word 0 % 2 ^ 32
def RingSt.nextId (r : RingSt) : Nat := r.word 1 / 2 ^ 28 % 512
def RingSt.nextDie (r : RingSt) : Nat := r.word 1 / 2 ^ 37 % 2
def RingSt.prevDie (r : RingSt) : Nat := r.word 1 / 2 ^ 27 % 2
def RingSt.prevId (r : RingSt) : Nat := r.word 1 / 2 ^ 18 % 512
def RingSt.rank (r : RingSt) : Nat := r.word 1 / 2 ^ 9 % 512
def RingSt.n (r : RingSt) : Nat := r.word 1 % 512
def RingSt.rval (r : RingSt) : Nat := r.word 3
def RingSt.timeout (r : RingSt) : Nat := r.word 4 / 2 ^ 32 % 2 ^ 26
def RingSt.key (r : RingSt) : Nat := r.word 4 % 2 ^ 32
def RingSt.fcap (r : RingSt) : BitVec 64 := BitVec.ofNat 64 (r.word 5)

/-- A reserved bit of the descriptor is set. -/
def RingSt.reservedBad (r : RingSt) : Bool :=
  decide (2 ^ 46 ≤ r.word 0) || decide (2 ^ 38 ≤ r.word 1) || decide (2 ^ 58 ≤ r.word 4) ||
  (!r.filter && r.word 5 != 0) || r.word 6 != 0 || r.word 7 != 0

/-- First element of segment `j`, and of its successor (R418). -/
def RingSt.segLo (r : RingSt) (j : Nat) : Nat := min (256 * (j * ((r.count + 255) / 256) / r.n)) r.count
def RingSt.segHi (r : RingSt) (j : Nat) : Nat := r.segLo (j + 1)

/-- Segment `r − 1 − k` of rank r, mod N. -/
def RingSt.segBack (r : RingSt) (k : Nat) : Nat := (r.rank + 2 * r.n - 1 - k) % r.n

/-- Operation of a command: 0 RS, 1 AG, 2 AR. -/
def Cmd.collOp (c : Cmd) : Nat :=
  match c.job with
  | .coll op => op
  | _ => 0

/-- A collective of a die that is active. -/
def Cmd.collActive (c : Cmd) (d : Nat) : Bool :=
  c.job.isColl && coreDie c.core == d &&
    (match c.stage with | .ring | .stalled _ _ _ => true | _ => false)

/-! ### Neighbours (R416, R418) -/

/-- PREV and NEXT are members of this device. -/
def State.prevHere (s : State) (c : Cmd) : Bool := c.ring.prevId == s.fabId
def State.nextHere (s : State) (c : Cmd) : Bool := c.ring.nextId == s.fabId

/-- Two members of this device are neighbours: each names the other's die, and `c` is the next rank of the ring of either (log 24). -/
def State.precedes (s : State) (d c : Cmd) : Bool :=
  s.nextHere d && s.prevHere c && coreDie d.core == c.ring.prevDie && coreDie c.core == d.ring.nextDie &&
    ((d.ring.rank + 1) % d.ring.n == c.ring.rank || d.ring.rank == (c.ring.rank + c.ring.n - 1) % c.ring.n)

/-- The active neighbours of one KEY. -/
def State.ringPrev (s : State) (c : Cmd) : Option Cmd :=
  s.cmdList.find? (fun d => d.collActive c.ring.prevDie && s.precedes d c && d.ring.key == c.ring.key)
def State.ringNext (s : State) (c : Cmd) : Option Cmd :=
  s.cmdList.find? (fun d => d.collActive c.ring.nextDie && s.precedes c d && d.ring.key == c.ring.key)

/-- What goes to NEXT may go now: NEXT is on this device, or the port of the command's plane is open (R404, R405). -/
def State.ringOpen (s : State) (c : Cmd) (n : Nat) : Bool := s.nextHere c || s.portOpen (c.planeTo c.ring.nextId) n

/-- `n` bytes go to NEXT: another device's take flits of the port (R404). -/
def State.ringFlits (s : State) (c : Cmd) (n : Nat) : State :=
  if s.nextHere c then s else s.sendFlits (c.planeTo c.ring.nextId) n

/-! ### Ends (R422) -/

/-- DETAIL of a success: record bits 16 to 18 (R419). -/
def RingSt.flags (r : RingSt) : Nat := (if r.nan then 1 else 0) + (if r.inf then 2 else 0) + (if r.clamp then 4 else 0)

/-- Key of a member's die, KEY and rank among the starts, and how many of them there have been. -/
def startKey (die key rank : Nat) : Nat := (2 ^ 32 * die + key) * 2 ^ 9 + rank
def State.starts (s : State) (die key rank : Nat) : Nat := mget 0 s.ringStarts (startKey die key rank)

/-- An abort goes to NEXT, unless it is back where it comes from: to a member of this device, at once, or when it starts, unless it has
started and ended before; to another device, where a plane is live (R422, log 24). -/
def State.passAbort (s : State) (c : Cmd) (origin : Nat) : State :=
  let rank := (c.ring.rank + 1) % c.ring.n
  if !(s.nextHere c) then
    if s.fabEn && !s.livePlanes.isEmpty then { s with reports := s.reports ++ [.ringAbort c.ring.key] } else s
  else if origin = rank + 1 then s
  else
    match s.ringNext c with
    | some d => s.setCmd { d with ring := { d.ring with abort := some origin } }
    | none =>
      if s.starts c.ring.nextDie c.ring.key rank < c.ring.gen then
        { s with ringAborts := s.ringAborts ++ [⟨c.ring.nextDie, c.ring.key, rank, c.ring.gen, origin⟩] }
      else s

/-- A member ends early, with the ring steps made in record bits [41:32]. -/
def State.endColl (s : State) (c : Cmd) (status detail : Nat) : State := s.endCmd c status (detail + c.ring.made % 1024 * 2 ^ 16)

/-- A member fails: its status; `told` says that it sends the abort. -/
def State.failColl (s : State) (c : Cmd) (status : Nat) (told : Bool) (detail : Nat := 0) : State :=
  (if told then s.passAbort c (c.ring.rank + 1) else s).endColl c status detail

/-- The collective is over once no delivery is left. -/
def State.collDone (s : State) (c : Cmd) : State :=
  if c.ring.phase = .finished ∧ c.ring.deliver.isEmpty then s.endCmd c 0x00 c.ring.flags
  else (s.setCmd { c with due := s.cycle + 1 + s.free }).draw

/-! ### Start (R414, R416, R417) -/

/-- Heads of the queues of a die's collective engine, their descriptors' banks free (R185). -/
def State.collHeads (s : State) (d : Nat) : List Cmd :=
  s.cmdList.filter (fun c => c.waiting && c.job.isColl && coreDie c.core == d && decide (c.due ≤ s.cycle) && s.bankFree c.core c.bank &&
    !(s.cmdList.any (fun e => e.waiting && e.job.isColl && e.ctx == c.ctx && decide (e.id < c.id))))

/-- Place of a queue in the round-robin order of core, then context. -/
def Cmd.collLane (c : Cmd) : Nat := 4 * c.core + c.hw

/-- The command a die's engine starts next: at most eight are active. -/
def State.collNext (s : State) (d : Nat) : Option Cmd :=
  if (s.cmdList.filter (fun c => c.collActive d)).length < 8 then
    nextRobin Cmd.collLane (match mget 0 s.collLast d with | 0 => none | n + 1 => some n) (s.collHeads d)
  else none

/-- Mode, profile and type agree (R419). -/
def collTypeOk (r : RingSt) (prof : Nat) : Bool :=
  if profInt prof then !r.exact && r.tyCode == 6 else r.tyCode == 11 || r.tyCode == 12 || r.tyCode == 13

/-- Cells that a collective delivers to: those of segment r, or of every element (R420). -/
def collCells (c : Cmd) : Nat :=
  let r := c.ring
  if c.collOp = 0 then r.segHi r.rank - r.segLo r.rank else r.count

/-- Step 4: the checks on FCAP. -/
def State.fcapChecks (s : State) (c : Cmd) : Option Failed :=
  let w := c.ring.fcap
  (s.capChecks c.asid ⟨true, fun e => e.sample⟩ [(w, 0)]).or <|
  (if capOff w % 32 ≠ 0 then some (0x20, opDetail 0 0) else none).or <|
  s.boundChecks [(w, 0, [(capOff w, 32 * collCells c)])]

/-- The bucket: memory side and first address (R417). -/
def State.bucket (s : State) (c : Cmd) : Option (MemSide × Nat) :=
  match addrWord (c.word 0) with
  | .virt _ | .die _ => s.memSide c (c.word 0)
  | _ => none

/-- Bytes of the bucket's elements lie outside the kernel's share (R306). -/
def State.bucketOut (s : State) (c : Cmd) : Bool :=
  match s.bucket c with
  | some (.share _ len, o) => decide (len < o + c.ring.count * c.ring.ty.width / 8)
  | _ => false

/-- Step 2 of R417. -/
def State.descBad (s : State) (c : Cmd) : Bool :=
  let r := c.ring
  r.reservedBad || decide (r.n < 2) || decide (r.n ≤ r.rank) || decide (s.fabMax < r.prevId) || decide (s.fabMax < r.nextId) ||
    (r.rval != 0 && (s.signalHome c.kernel c.core .wait (BitVec.ofNat 64 (r.word 2))).isNone)

/-- Steps 1 to 4 of R417, and the range of a bucket of SPACE DIE (R306): STATUS and DETAIL of the first that fails. -/
def State.collChecks (s : State) (c : Cmd) : Option Failed :=
  if (s.bucket c).isNone then some (0x01, 0)
  else if s.descBad c then some (0x28, 0)
  else if !(collTypeOk c.ring c.prof) || (c.ring.filter && c.collOp == 1) then some (0x29, 0)
  else (if c.ring.filter then s.fcapChecks c else none).or (if s.bucketOut c then some (0x07, 0) else none)

/-- Words of a little-endian number. -/
def wordsOf (v : Nat) (n : Nat) : List Nat := (List.range n).map (fun i => v / 2 ^ (64 * i) % 2 ^ 64)

/-- A neighbour is on another device, and no route to it is left (R422). -/
def State.ringCut (s : State) (c : Cmd) : Bool :=
  !(s.prevHere c && s.nextHere c) && (!s.fabEn || s.livePlanes.isEmpty)

/-- An abort that awaits the start of this member is taken up (R422). -/
def State.heldAbort (s : State) (c : Cmd) : Option HeldAbort :=
  s.ringAborts.find? (fun a => decide (a.die = coreDie c.core ∧ a.key = c.ring.key ∧ a.rank = c.ring.rank ∧ a.gen ≤ c.ring.gen))

/-- A collective has started: its plane to another device is chosen (R405), and an abort that has come is noted. -/
def State.startColl (s : State) (c : Cmd) (origin : Option Nat) : State :=
  let l := s.livePlanes
  let routes := if s.nextHere c then [] else [(c.ring.nextId, (l[s.free % l.length]?).getD 0)]
  (s.setCmd { c with stage := .ring, routes := routes, due := s.cycle + 1 + s.free, ring := { c.ring with abort := origin } }).draw

/-- The member of a command that starts: its descriptor, and which start of its KEY and rank it is. -/
def State.newRing (s : State) (c : Cmd) : RingSt :=
  let r : RingSt := { desc := wordsOf (s.readCmdPad c c.bank c.off 64) 8, tick0 := s.scht }
  { r with gen := s.starts (coreDie c.core) r.key r.rank + 1 }

/-- The start of a collective is counted, and an abort that awaits it is taken. -/
def State.takeStart (s : State) (c : Cmd) (a : Option HeldAbort) : State :=
  { s with
    ringAborts := s.ringAborts.filter (fun x => some x != a)
    ringStarts := mset 0 s.ringStarts (startKey (coreDie c.core) c.ring.key c.ring.rank) c.ring.gen }

/-- COLL_START of a die's engine: the descriptor is read and checks 1 to 4 are made (R416, R417). -/
def execCollStart (d : Nat) (s : State) : Out :=
  match s.collNext d with
  | some c =>
    let c1 := { c with ring := s.newRing c }
    let s0 := { s.useEngine c.core c.bank with collLast := mset 0 s.collLast d (c.collLane + 1) }
    if s.bankPoisoned c.core c.bank c.off 64 then .next (s0.failColl c1 0x04 false)
    else
      let held := s.heldAbort c1
      let s1 := s0.takeStart c1 held
      match s.collChecks c1 with
      | some f => .next (s1.failColl c1 f.1 true f.2)
      | none =>
        .next (if s.ringCut c1 then s1.failColl c1 0x2C true
          else s1.startColl c1 ((held.map HeldAbort.origin).or c.ring.abort))
  | none => .next s

/-- A collective in a phase whose next step may be taken. -/
def State.inPhase (s : State) (id : Nat) (p : RingPhase → Bool) : Option Cmd :=
  (s.cmd? id).filter (fun c => c.stage == .ring && p c.ring.phase && decide (c.due ≤ s.cycle))

/-- The ready word has reached RVAL, or none is awaited (R421). -/
def State.collIsReady (s : State) (c : Cmd) : Bool :=
  c.ring.rval == 0 ||
    (match s.signalHome c.kernel c.core .wait (BitVec.ofNat 64 (c.ring.word 2)) with
     | some loc => decide (c.ring.rval ≤ s.homeValue loc)
     | none => false)

/-- COLL_READY: the ready word is read, then the acquire; the token of the handshake goes to NEXT (R417, R421). -/
def execCollReady (id : Nat) (s : State) : Out :=
  match s.inPhase id (fun p => p == .ready) with
  | some c =>
    if s.collIsReady c && s.ringOpen c 32 then
      let c1 := s.acquireCmd c
      .next (((s.setCmd { c1 with ring := { c1.ring with phase := .handshake }, due := s.cycle + 1 + s.free }).ringFlits c1 32).draw)
    else .next s
  | none => .next s

/-! ### The handshake (R417 step 6) -/

/-- Token of a member. -/
def Cmd.token (c : Cmd) : RingToken :=
  let r := c.ring
  { op := c.collOp, count := r.count, ty := r.tyCode, exact := r.exact, ex := r.word 0 / 2 ^ 38 % 2 ^ 8, n := r.n, prof := c.prof, key := r.key }

/-- The member is past its handshake. -/
def Cmd.agreed (c : Cmd) : Bool :=
  match c.ring.phase with
  | .ready | .handshake => false
  | _ => true

/-- The token has come all the way: from member `d` back through the members of this device with an equal token, to one that has
agreed or to the member `id` itself; `fuel` bounds their number. -/
def State.circled (s : State) (id : Nat) : Nat → Cmd → Bool
  | 0, _ => false
  | k + 1, d =>
    d.agreed ||
      (match s.ringPrev d with
       | some e => e.ring.phase != .ready && e.token == d.token && (e.id == id || s.circled id k e)
       | none => false)

/-- A neighbour before the member waits in its handshake, and the token that it sends has another KEY, which no member takes. -/
def State.strayToken (s : State) (c : Cmd) : Bool :=
  s.cmdList.any (fun d => d.collActive c.ring.prevDie && s.precedes d c && d.ring.key != c.ring.key && d.ring.phase == .handshake && (s.ringNext d).isNone)

/-- What the handshake of a member whose PREV is on this device finds: still on its way, a difference, or agreement. Whether a token of
another KEY is that of its ring, or that of a ring whose next member has not started, is free (R417, R422; log 24). -/
def State.tokenHere (s : State) (c : Cmd) : Option Bool :=
  match s.ringPrev c with
  | some d =>
    if d.ring.phase = .ready then none
    else if d.token ≠ c.token then some false
    else if s.circled c.id (c.ring.n + 1) d then some true
    else none
  | none => if s.strayToken c && s.free % 2 == 1 then some false else none

/-- RING_HANDSHAKE: the token, which PREV on another device brings as an argument, has circled the ring (R417 step 6). -/
def execRingHandshake (id : Nat) (tok : RingToken) (s : State) : Out :=
  match s.inPhase id (fun p => p == .handshake) with
  | some c =>
    match (if s.prevHere c then s.tokenHere c else some (tok == c.token)) with
    | some true =>
      let p : RingPhase := if c.collOp = 1 then .gather else .scatter
      .next (s.setCmd { c with ring := { c.ring with phase := p, step := 0 }, due := s.cycle })
    | some false => .next (s.failColl c 0x2A true)
    | none => .next s
  | none => .next s

/-! ### Arithmetic (R419) -/

/-- A bucket element as a contribution, and whether it was clamped. -/
def RingSt.contribution (r : RingSt) (prof b : Nat) : BitVec 65 × Bool :=
  if profInt prof then (BitVec.ofNat 65 b, false)
  else if !r.exact then (BitVec.ofNat 65 (if r.ty = .fp32 then b else (convert rneModes r.ty .fp32 false 0 b).1), false)
  else
    match roundToInt rneModes (shiftExt (-r.ex) (valOf r.ty b)) with
    | some (none, z) =>
      let q := clampInt (-(2 ^ 54 - 1)) (2 ^ 54 - 1) (none, z)
      ((BitVec.ofInt 64 q.1).setWidth 65, q.2)
    | _ => (BitVec.ofNat 65 (2 ^ 64), false)

/-- Partial plus contribution, and whether it was clamped. -/
def RingSt.combine (r : RingSt) (prof : Nat) (x y : BitVec 65) : BitVec 65 × Bool :=
  if r.exact then (((x.setWidth 64 + y.setWidth 64).setWidth 65) ||| ((x ||| y) &&& BitVec.ofNat 65 (2 ^ 64)), false)
  else
    let p := addP 0 prof (accOf prof (x.setWidth 32)) (accOf prof (y.setWidth 32))
    (p.1.pat.setWidth 65, p.2.sat)

/-- The exact value of a partial. -/
def RingSt.exactVal (r : RingSt) (prof : Nat) (x : BitVec 65) : Ext :=
  if r.exact then (if x.getLsbD 64 then .nan else shiftExt r.ex (extInt (x.setWidth 64).toInt))
  else if profInt prof then extInt (x.setWidth 32).toInt
  else valOf .fp32 (x.toNat % 2 ^ 32)

/-- RoundTo(v, TY, RNE) of a total (R420). -/
def RingSt.rounded (r : RingSt) (prof : Nat) (x : BitVec 65) : BitVec 65 :=
  if profInt prof ∨ (!r.exact ∧ r.ty = .fp32) then BitVec.ofNat 65 (x.toNat % 2 ^ 32)
  else BitVec.ofNat 65 (roundFloat rneModes false r.ty 0 (r.exactVal prof x)).1

/-- Exact value of a final value as it goes around the ring: rounded for a bucket, a partial for a region. -/
def RingSt.finalVal (r : RingSt) (prof : Nat) (x : BitVec 65) : Ext :=
  if r.filter then r.exactVal prof x else valOf r.ty (x.toNat % 2 ^ r.ty.width)

/-- Note NaN and infinite results (R419). -/
def RingSt.note (r : RingSt) (prof : Nat) (l : List (BitVec 65)) : RingSt :=
  let vs := l.map (r.finalVal prof)
  { r with nan := r.nan || vs.any (fun v => v == .nan), inf := r.inf || vs.any (fun v => v == .inf true || v == .inf false) }

/-! ### The bucket (R417) -/

/-- What becomes of an access to bucket elements [lo, hi): it waits for a page, ends the command, or goes on. -/
inductive Access where
  | over (s : State)
  | runs (c : Cmd) (s : State) (rs : List Run)

/-- Translate an access. -/
def State.bucketAccess (s : State) (c : Cmd) (write : Bool) (lo hi : Nat) : Access :=
  match s.bucket c with
  | none => .over (s.failColl c 0x01 true)
  | some (m, base) =>
    let w := c.ring.ty.width / 8
    if hi ≤ lo then .runs c s []
    else
      match s.moveRuns (coreCluster c.core) c write m (base + lo * w) ((hi - lo) * w) with
      | (.error (.absent va), t) => .over (t.stall c va write)
      | (.error e, t) => .over ((t.sendFault c e.kind e.va write).failColl c e.status true)
      | (.ok rs, t) =>
        let strong := rs.any (fun r => r.mt == 3)
        if strong && s.strongBefore c then .over (s.setCmd { c with due := s.cycle + 2 })
        else .runs { c with strong := c.strong || strong } t rs

/-- The contributions of a segment, read. -/
def readElems (w : Nat) (v lo hi : Nat) : List Nat := (List.range (hi - lo)).map (fun i => laneAt w v i)

/-- Read elements; poisoned data end the command (R315). -/
def State.bucketRead (s : State) (c : Cmd) (lo hi : Nat) (k : Cmd → List Nat → State → State) : State :=
  match s.bucketAccess c false lo hi with
  | .over t => t
  | .runs c1 t rs =>
    match rs.find? t.runBad with
    | some r => (t.sendFault c 4 r.va false).failColl c 0x04 true
    | none =>
      let v := rs.foldr (fun r v => t.readRunCmd c1 r + 256 ^ r.n * v) 0
      k c1 (readElems c.ring.ty.width v lo hi) t

/-- Write elements. -/
def State.bucketWrite (s : State) (c : Cmd) (lo hi : Nat) (l : List (BitVec 65)) (k : Cmd → State → State) : State :=
  match s.bucketAccess c true lo hi with
  | .over t => t
  | .runs c1 t rs =>
    match rs.find? (fun r => t.deadAt r.loc) with
    | some r => (t.sendFault c 4 r.va true).failColl c 0x04 true
    | none =>
      let x := t.storeRunsCmd c1 false rs (packLanes c.ring.ty.width (l.map BitVec.toNat))
      k x.1 x.2

/-! ### Ring steps (R418, R420) -/

/-- A step made: its segment is taken from those that have come. -/
def RingSt.made1 (r : RingSt) : RingSt := { r with step := r.step + 1, made := r.made + 1, sent := false, inq := r.inq.drop 1 }

/-- Values received for a segment. -/
def takeVals (recv : List (BitVec 65)) (lo hi : Nat) : List (BitVec 65) :=
  (List.range (hi - lo)).map (fun i => (recv[i]?).getD 0)

/-- A segment's final values go into the bucket, or to the region's deliveries. -/
def State.placeSeg (s : State) (c : Cmd) (j : Nat) (l : List (BitVec 65)) (k : Cmd → State → State) : State :=
  let r := c.ring
  let lo := r.segLo j
  let hi := r.segHi j
  if r.filter then
    let b := if c.collOp = 0 then lo else 0
    k { c with ring := { r with deliver := if hi ≤ lo then r.deliver else r.deliver ++ [(lo - b, l)] } } s
  else s.bucketWrite c lo hi l k

/-- After a ring step: the next phase, or the end. -/
def State.afterStep (s : State) (c : Cmd) : State :=
  let r := c.ring
  if r.step + 1 < r.n then s.collDone c
  else if r.phase = .scatter ∧ c.collOp = 2 then s.collDone { c with ring := { r with phase := .gather, step := 0 } }
  else s.collDone { c with ring := { r with phase := .finished } }

/-- Reduce-scatter: this rank has received segment (r − 2 − s) and adds its own contribution. -/
def State.scatterStep (s : State) (c : Cmd) (recv : List (BitVec 65)) : State :=
  let j := c.ring.segBack (c.ring.step + 1)
  let lo := c.ring.segLo j
  let hi := c.ring.segHi j
  s.bucketRead c lo hi (fun c1 own t =>
    let r := c1.ring
    let cs := own.map (r.contribution c.prof)
    let sums := ((takeVals recv lo hi).zip cs).map (fun p => r.combine c.prof p.1 p.2.1)
    let vals := sums.map Prod.fst
    let clamp := r.clamp || cs.any (fun x => x.2) || sums.any (fun x => x.2)
    if r.step + 2 < r.n then t.afterStep { c1 with ring := { r.made1 with vals := vals, clamp := clamp } }
    else
      let fin := if r.filter then vals else vals.map (r.rounded c.prof)
      t.placeSeg c1 j fin (fun c2 u =>
        let r2 := c2.ring.note c.prof fin
        u.afterStep { c2 with ring := { r2.made1 with vals := fin, clamp := clamp } }))

/-- All-gather: this rank has received segment (r − 1 − s). -/
def State.gatherStep (s : State) (c : Cmd) (recv : List (BitVec 65)) : State :=
  let j := c.ring.segBack c.ring.step
  let l := takeVals recv (c.ring.segLo j) (c.ring.segHi j)
  s.placeSeg c j l (fun c1 u =>
    let r := if c.collOp = 2 then c1.ring.note c.prof l else c1.ring
    u.afterStep { c1 with ring := { r.made1 with vals := l } })

/-- The segment that has come first is received; with none, the member waits. -/
def State.ringReceive (s : State) (c : Cmd) : State :=
  match c.ring.inq with
  | [] => s.setCmd c
  | l :: _ => if c.ring.phase = .scatter then s.scatterStep c l else s.gatherStep c l

/-- Bytes of a value on its way: 8 in EXACT mode, else 4. -/
def RingSt.valBytes (r : RingSt) : Nat := if r.exact then 8 else 4

/-- The segment that a rank sends in its step: (r − 1 − s) in the reduce-scatter, (r − s) in the all-gather. -/
def RingSt.sendSeg (r : RingSt) : Nat := if r.phase = .scatter then r.segBack r.step else r.segBack (r.step + r.n - 1)

/-- Values go to NEXT: to its engine on this device, or out of the port. -/
def State.ringSend (s : State) (c : Cmd) (l : List (BitVec 65)) : State :=
  match s.ringNext c with
  | some d => s.setCmd { d with ring := { d.ring with inq := d.ring.inq ++ [l] } }
  | none => s.ringFlits c (c.ring.valBytes * l.length)

/-- One pass of a ring step: the rank's segment goes to NEXT, its own contribution or its bucket's bits at the first step and then
what it received last; and a segment that has come from PREV is received. -/
def State.ringPass (s : State) (c : Cmd) : State :=
  let r := c.ring
  let j := r.sendSeg
  let go (c : Cmd) (t : State) (l : List (BitVec 65)) : State :=
    (t.ringSend c l).ringReceive { c with ring := { c.ring with sent := true, out := l } }
  if r.sent then s.ringReceive c
  else if !(s.ringOpen c (r.valBytes * (r.segHi j - r.segLo j))) then s.setCmd { c with due := s.cycle + 1 }
  else if r.step = 0 ∧ r.phase = .scatter then
    s.bucketRead c (r.segLo j) (r.segHi j) (fun c1 own t =>
      let cs := own.map (r.contribution c.prof)
      go { c1 with ring := { c1.ring with clamp := c1.ring.clamp || cs.any (fun x => x.2) } } t (cs.map Prod.fst))
  else if r.step = 0 ∧ c.collOp = 1 then
    s.bucketRead c (r.segLo j) (r.segHi j) (fun c1 own t => go c1 t (own.map (BitVec.ofNat 65)))
  else go c s r.vals

/-- Its ring steps are in progress. -/
def Cmd.inRing (c : Cmd) : Bool :=
  c.collActive (coreDie c.core) && (c.ring.phase == .scatter || c.ring.phase == .gather)

/-- RING_STEP: a step of the phase, with the segment that comes from PREV on another device, if one does (R418). -/
def execRingStep (id : Nat) (recv : Option (List (BitVec 65))) (s : State) : Out :=
  match s.cmd? id with
  | some c =>
    if c.inRing then
      let come := if s.prevHere c then [] else recv.toList
      let c1 := { c with ring := { c.ring with inq := c.ring.inq ++ come } }
      .next (if c.stage == .ring && decide (c.due ≤ s.cycle) then s.ringPass c1 else s.setCmd c1)
    else .next s
  | none => .next s

/-! ### Deliveries (R368, R420) -/

/-- Every command and every delivery that arrived at the unit before has been performed (R368). -/
def State.deliveryFirst (s : State) (ch arr : Nat) : Bool := (s.unitQueue ch).all (fun c => decide (arr < c.arrival)) && s.noDelivery ch arr

/-- A delivery comes to its unit, and takes its place in arrival order (R368). -/
def State.deliveryArrives (s : State) (c : Cmd) (ch : Nat) : State :=
  let s1 := s.setCmd { c with ring := { c.ring with arr := some (ch, s.nextId) }, due := s.cycle + 1 + s.free }
  { s1.draw with nextId := s.nextId + 1 }

/-- One delivery: consecutive steps at the region's ordering point (R420). A poisoned cell is left as it is, and the member fails with
STATUS 0x1B once every other cell is done (R360, R422; log 24). -/
def State.deliver (s : State) (c : Cmd) (cell : Nat) (l : List (BitVec 65)) (rest : List (Nat × List (BitVec 65))) : State :=
  let w := c.ring.fcap
  let e := s.capOf w
  let loc (i : Nat) : Nat := s.capLoc w (capOff w + 32 * (cell + i))
  let s1 := l.zipIdx.foldl (fun t x =>
    if t.unitBad (loc x.2) then t
    else
      let c1 := e.catchUp (t.cell (loc x.2))
      t.setCell (loc x.2) ((e.addSample c1.unflagged (c.ring.exactVal c.prof x.1)).withFlags c1)) s
  let c1 := { c with ring := { c.ring with deliver := rest, arr := none } }
  if (List.range l.length).any (fun i => s.unitBad (loc i)) then s1.failColl c1 0x1B true else s1.collDone c1

/-- What the head delivery of a collective may do next: arrive at its unit, which has room, or be performed there. -/
def State.deliveryDue (s : State) (c : Cmd) : Bool :=
  c.stage == .ring && decide (c.due ≤ s.cycle) && !c.ring.deliver.isEmpty &&
    (match c.ring.arr with
     | none => decide (s.unitLoad (s.capChan c.ring.fcap) < 64)
     | some (ch, a) => s.deliveryFirst ch a)

/-- COLL_DELIVERY: the head delivery arrives at its unit, or is performed there in its turn (R368, R420). -/
def execCollDelivery (id : Nat) (s : State) : Out :=
  match s.inPhase id (fun _ => true) with
  | some c =>
    if s.deliveryDue c then
      match c.ring.arr, c.ring.deliver with
      | some _, (cell, l) :: rest => .next (s.deliver c cell l rest)
      | _, _ => .next (s.deliveryArrives c (s.capChan c.ring.fcap))
    else .next s
  | none => .next s

/-! ### Failures from outside and timeouts (R417, R422) -/

/-- RING_ABORT: another member's abort arrives, and goes on to NEXT; one that has not started takes it at its start (R422). -/
def execRingAbort (id : Nat) (s : State) : Out :=
  match s.cmd? id with
  | some c =>
    .next (if c.collActive (coreDie c.core) then (s.passAbort c (c.ring.abort.getD 0)).endColl c 0x2D 0
      else if c.waiting && c.job.isColl then s.setCmd { c with ring := { c.ring with abort := some 0 } }
      else s)
  | none => .next s

/-- The TIMEOUT of a collective in its ready wait or its handshake has passed. -/
def State.collLate (s : State) (c : Cmd) : Bool :=
  c.stage == .ring && (c.ring.phase == .ready || c.ring.phase == .handshake) &&
    decide (c.ring.timeout ≠ 0 ∧ c.ring.tick0 + c.ring.timeout ≤ s.scht)

/-- COLL_TIMEOUT. -/
def execCollTimeout (id : Nat) (s : State) : Out :=
  match s.cmd? id with
  | some c => .next (if s.collLate c then s.failColl c 0x2B true else s)
  | none => .next s

/-- A collective whose PREV or NEXT is another device ends with STATUS 0x2C when no plane is left (R422). -/
def State.loseRing (s : State) (c : Cmd) : State :=
  if c.collActive (coreDie c.core) && (c.ring.prevId != s.fabId || c.ring.nextId != s.fabId) then s.failColl c 0x2C true
  else s

/-! ### Answers to a page fault (R314) -/

/-- PAGE_FAULT: a stalled command's record goes to the host (R314). -/
def execPageFault (id : Nat) (s : State) : Out :=
  match s.cmd? id with
  | some c =>
    match c.stage with
    | .stalled va w false =>
      .next (((s.sendFault c 1 va w).setCmd { c with stage := .stalled va w true, due := s.cycle + 1 + s.free }).draw)
    | _ => .next s
  | none => .next s

/-- FAULT_RETRY: the command processor answers RETRY and the command goes on with a new walk (R314). -/
def execFaultRetry (id : Nat) (s : State) : Out :=
  match s.cmd? id with
  | some c =>
    match c.stage with
    | .stalled _ _ true =>
      .next (if c.job.isColl then s.setCmd { c with stage := .ring, due := s.cycle }
        else s.setCmd { c with stage := .running, due := s.cycle })
    | _ => .next s
  | none => .next s

/-- FAULT_FAIL: the command ends with STATUS 0x03 (R314). -/
def execFaultFail (id : Nat) (s : State) : Out :=
  match s.cmd? id with
  | some c =>
    match c.stage with
    | .stalled va _ true => .next (if c.job.isColl then s.failColl c 0x03 true else s.endCmd c 0x03 (c.stopDetail (pageOf va)))
    | _ => .next s
  | none => .next s

end Sys2Proof.Machine
end

