-- ==== Sys2Proof/Machine/Special.lean ====
section
/-! DEFINITION. The special functions of R84, R85. Reciprocal and roots are exact: a quotient or root to `specBits`
bits with a last bit that says whether anything follows. The transcendental functions are summed as series in fixed
point of `fixBits` fraction bits; their values at FP32 arguments other than the exact cases are irrational, so the last
bit given is always 1 (log 14). -/

namespace Sys2Proof.Machine

/-- Bits of a quotient or root before the sticky bit. -/
def specBits : Nat := 256

/-- Fraction bits of the series. -/
def fixBits : Nat := 480

def fixOne : Nat := 2 ^ fixBits

/-- ⌊√n⌋ from bit `k` down, on top of `r`. -/
def isqrtFrom (n : Nat) : Nat → Nat → Nat
  | 0, r => r
  | k + 1, r => isqrtFrom n k (if (r + 2 ^ k) * (r + 2 ^ k) ≤ n then r + 2 ^ k else r)

/-- ⌊√n⌋. -/
def isqrt (n : Nat) : Nat := isqrtFrom n (Nat.log2 n / 2 + 1) 0

/-- A quotient n/d scaled by 2^−k, with a sticky last bit. -/
def ratio (neg : Bool) (n d : Nat) (e : Int) : Ext :=
  .num neg (2 * (n / d) + (if n % d = 0 then 0 else 1)) (e - 1)

/-- 1/(m·2^e). -/
def recipNum (neg : Bool) (m : Nat) (e : Int) : Ext :=
  ratio neg (2 ^ (specBits + Nat.log2 m)) m (-(specBits + Nat.log2 m : Nat) - e)

/-- An even exponent and its significand. -/
def evenExp (m : Nat) (e : Int) : Nat × Int := if e % 2 = 0 then (m, e) else (2 * m, e - 1)

/-- √(m·2^e). -/
def sqrtNum (m : Nat) (e : Int) : Ext :=
  let p := evenExp m e
  let n := p.1 * 2 ^ (2 * specBits)
  let r := isqrt n
  .num false (2 * r + (if r * r = n then 0 else 1)) (p.2 / 2 - specBits - 1)

/-- 1/√(m·2^e). -/
def rsqrtNum (m : Nat) (e : Int) : Ext :=
  let p := evenExp m e
  let k := 2 * (specBits + Nat.log2 p.1)
  let r := isqrt (2 ^ k / p.1)
  .num false (2 * r + (if r * r * p.1 = 2 ^ k then 0 else 1)) (-(p.2 / 2) - (k / 2 : Nat) - 1)

/-- Σ z^(2k+1)/(2k+1) in fixed point: atanh z. `t` is z^(2k+1), `z2` is z². -/
def atanhSeries (z2 : Nat) : Nat → Nat → Nat → Nat
  | 0, _, _ => 0
  | f + 1, t, k => t / (2 * k + 1) + atanhSeries z2 f (t * z2 / fixOne) (k + 1)

/-- atanh of n/d. -/
def atanhFix (n d : Nat) : Nat :=
  let z := n * fixOne / d
  atanhSeries (z * z / fixOne) 200 z 0

/-- ln 2 = 2·atanh(1/3). -/
def ln2Fix : Nat := 2 * atanhFix 1 3

/-- Σ (−1)^k z^(2k+1)/(2k+1): atan z. -/
def atanSeries (z2 : Nat) : Nat → Nat → Nat → Bool → Int
  | 0, _, _, _ => 0
  | f + 1, t, k, neg =>
    (if neg then -((t / (2 * k + 1) : Nat) : Int) else (t / (2 * k + 1) : Nat)) +
      atanSeries z2 f (t * z2 / fixOne) (k + 1) (!neg)

def atanRecip (d : Nat) : Int :=
  let z := fixOne / d
  atanSeries (z * z / fixOne) 250 z 0 false

/-- π by Machin's formula. -/
def piFix : Nat := (4 * (4 * atanRecip 5 - atanRecip 239)).toNat

/-- e^x for 0 ≤ x < 1 in fixed point: `t` is x^k/k!. -/
def expSeries (x : Nat) : Nat → Nat → Nat → Nat
  | 0, _, _ => 0
  | f + 1, t, k => t + expSeries x f (t * x / fixOne / (k + 1)) (k + 1)

/-- 2^f for a fraction f in fixed point, in [1, 2). -/
def exp2Frac (f : Nat) : Nat := expSeries (f * ln2Fix / fixOne) 120 fixOne 0

/-- A positive irrational value near v·2^(e), v in fixed point: the last bit is sticky. -/
def irrational (neg : Bool) (v : Nat) (e : Int) : Ext := .num neg (2 * v + 1) (e - fixBits - 1)

/-- 2^(±m·2^e), m ≠ 0. -/
def exp2Num (neg : Bool) (m : Nat) (e : Int) : Ext :=
  if 10 ≤ topExp m e then .num false 1 (if neg then -2000 else 2000)
  else if 0 ≤ e then .num false 1 (if neg then -(m * 2 ^ e.toNat : Nat) else (m * 2 ^ e.toNat : Nat))
  else
    let k := (-e).toNat
    let z : Int := if neg then -(m : Int) else m
    let n := z / (2 ^ k : Nat)
    let f := (z % (2 ^ k : Nat)).toNat
    if f = 0 then .num false 1 n else irrational false (exp2Frac (f * fixOne / 2 ^ k)) n

/-- log2 (m·2^e), m ≠ 0. -/
def log2Num (m : Nat) (e : Int) : Ext :=
  let n := topExp m e
  let p := 2 ^ Nat.log2 m
  if m = p then .num (decide (n < 0)) n.natAbs 0
  else
    let l := 2 * atanhFix (m - p) (m + p) * fixOne / ln2Fix
    let z : Int := n * fixOne + l
    irrational (decide (z < 0)) z.natAbs 0

/-- The exact value m·2^e in fixed point, rounded down. -/
def toFix (m : Nat) (e : Int) : Nat :=
  let k := e + fixBits
  if 0 ≤ k then m * 2 ^ k.toNat else m / 2 ^ (-k).toNat

/-- tanh (±m·2^e), m ≠ 0: below 2^−60 the value is just under the argument; above, (1 − q)/(1 + q) with
q = 2^(−2x/ln 2). -/
def tanhNum (neg : Bool) (m : Nat) (e : Int) : Ext :=
  if topExp m e < -60 then .num neg (m * 2 ^ 100 - 1) (e - 100)
  else if 8 ≤ topExp m e then .num neg (2 ^ 100 - 1) (-100)
  else
    let y := 2 * toFix m e * fixOne / ln2Fix
    let n := y / fixOne
    let f := y % fixOne
    let q := if f = 0 then fixOne / 2 ^ n else exp2Frac (fixOne - f) / 2 ^ (n + 1)
    irrational neg (Nat.min ((fixOne - q) * fixOne / (fixOne + q)) (fixOne - 1)) 0

/-- Σ (−1)^k x^(2k+1)/(k!(2k+1)): `t` is x^(2k+1)/k!. -/
def erfSeries (x2 : Nat) : Nat → Nat → Nat → Bool → Int
  | 0, _, _, _ => 0
  | f + 1, t, k, neg =>
    (if neg then -((t / (2 * k + 1) : Nat) : Int) else (t / (2 * k + 1) : Nat)) +
      erfSeries x2 f (t * x2 / fixOne / (k + 1)) (k + 1) (!neg)

/-- 2/√π in fixed point. -/
def twoOverRootPi : Nat := 2 * fixOne * fixOne / isqrt (piFix * fixOne)

/-- erf (±m·2^e), m ≠ 0. -/
def erfNum (neg : Bool) (m : Nat) (e : Int) : Ext :=
  if topExp m e < -60 then irrational neg (m * twoOverRootPi) e
  else if 3 ≤ topExp m e then .num neg (2 ^ 100 - 1) (-100)
  else
    let x := toFix m e
    let s := erfSeries (x * x / fixOne) 420 x 0 false
    irrational neg (Nat.min (s.toNat * twoOverRootPi / fixOne) (fixOne - 1)) 0

/-- The seven special functions. -/
inductive SpecFn where
  | rcp | rsq | sqrt | exp2 | log2 | tanh | erf
deriving DecidableEq, Repr

/-- F(a) with the special inputs of R85: the exact value and NV or DZ. A NaN gives NaN and no flag here. -/
def specVal (fn : SpecFn) (a : Ext) : Ext × Flags :=
  match a with
  | .nan => (.nan, 0)
  | .inf n =>
    match fn with
    | .rcp => (.num n 0 0, 0)
    | .rsq => if n then (.nan, fNV) else (.num false 0 0, 0)
    | .sqrt => if n then (.nan, fNV) else (.inf false, 0)
    | .exp2 => if n then (.num false 0 0, 0) else (.inf false, 0)
    | .log2 => if n then (.nan, fNV) else (.inf false, 0)
    | .tanh | .erf => (.num n 1 0, 0)
  | .num n m e =>
    if m = 0 then
      match fn with
      | .rcp | .rsq => (.inf n, fDZ)
      | .sqrt | .tanh | .erf => (.num n 0 0, 0)
      | .exp2 => (.num false 1 0, 0)
      | .log2 => (.inf true, fDZ)
    else
      match fn with
      | .rcp => (recipNum n m e, 0)
      | .rsq => if n then (.nan, fNV) else (rsqrtNum m e, 0)
      | .sqrt => if n then (.nan, fNV) else (sqrtNum m e, 0)
      | .exp2 => (exp2Num n m e, 0)
      | .log2 => if n then (.nan, fNV) else (log2Num m e, 0)
      | .tanh => (tanhNum n m e, 0)
      | .erf => (erfNum n m e, 0)

/-- One lane of a special function: flush, evaluate, round once (R84, R158). -/
def specLane (c : Modes) (fn : SpecFn) (i b : Nat) : Nat × Flags :=
  let r := readVal c .fp32 b
  let v := specVal fn r.1
  let q := roundTo c .fp32 i v.1
  (q.1, r.2 ||| v.2 ||| q.2)

end Sys2Proof.Machine
end

