-- ==== Sys2Proof/Machine/VecConv.lean ====
section
/-! DEFINITION. Conversions: VCVT (R160), VWIDEN and VUNPK (R161), VNARROW (R162), VQMX (R163) and VDQMX (R164), over
Convert of R159. -/

namespace Sys2Proof

/-- Source type of a conversion, OPX[3:0]. -/
def VF.src (f : VF) : ETy := f.st.getD .fp32

/-- OPX[4], SAT of a conversion. -/
def VF.satC (f : VF) : Bool := f.opx.getLsbD 4

end Sys2Proof

namespace Sys2Proof.Machine

/-- VCVT: lanes 0 to min(n(st), n(dt)) − 1 in place (R160). -/
def execVcvt (f : VF) (s : State) : Out :=
  vSlot f ([f.opd.toNat] ++ f.regA) s (fun s =>
    let st := f.src
    let md := s.modes f.ro
    let m := s.me.mask f.msk
    let a := (s.srcA f).toNat
    let c := min st.lanes f.ty.lanes
    (s.deferV 3 f.opd.toNat f.ty (laneResults f.ty.lanes (fun i => decide (i < c) && laneOn m i)
      (fun i => convert md st f.ty f.satC i (laneAt st.width a i)))).srTick f.ro)

/-- Modes of an exact widening: no rounding mode is taken, FZI applies, FZO does not (R161). -/
def State.widenModes (s : State) : Modes := { s.modes 0 with mode := .rne, fzo := false }

/-- Lane results of register q of a widened group: source lane r·j + q goes to lane j (R147, R161). -/
def widenLanes (md : Modes) (st dt : ETy) (m : MReg) (a r q : Nat) : List LaneRes :=
  laneResults dt.lanes (fun j => laneOn m (r * j + q)) (fun j => convert md st dt false j (laneAt st.width a (r * j + q)))

/-- Write registers d, d + 1, … of a group (R147). -/
def State.deferGroup (s : State) (lat d : Nat) (t : ETy) : List (List LaneRes) → State
  | [] => s
  | l :: rest => (s.deferV lat d t l).deferGroup lat (d + 1) t rest

/-- VWIDEN (R161). -/
def execVwiden (f : VF) (s : State) : Out :=
  let r := f.ty.width / f.src.width
  vSlot f (regGroup f.opd r ++ f.regA) s (fun s =>
    let m := s.me.mask f.msk
    let a := (s.srcA f).toNat
    s.deferGroup 3 f.opd.toNat f.ty ((List.range r).map (widenLanes s.widenModes f.src f.ty m a r)))

/-- VUNPK: lane h·n(dt) + j to lane j (R148, R161). -/
def execVunpk (f : VF) (s : State) : Out :=
  vSlot f ([f.opd.toNat] ++ f.regA) s (fun s =>
    let h := f.opx.toNat / 16 % 4
    let m := s.me.mask f.msk
    let a := (s.srcA f).toNat
    let n := f.ty.lanes
    s.deferV 3 f.opd.toNat f.ty (laneResults n (fun j => laneOn m (h * n + j))
      (fun j => convert s.widenModes f.src f.ty false j (laneAt f.src.width a (h * n + j)))))

/-- VNARROW: lane i from lane ⌊i/r⌋ of register a + (i mod r) (R162). -/
def execVnarrow (f : VF) (s : State) : Out :=
  let st := f.src
  let r := st.width / f.ty.width
  vSlot f ([f.opd.toNat] ++ regGroup f.opa r) s (fun s =>
    let md := s.modes f.ro
    let m := s.me.mask f.msk
    let srcs := (List.range r).map (fun k => (s.me.vr (f.opa.toNat + k)).toNat)
    (s.deferV 3 f.opd.toNat f.ty (laneResults f.ty.lanes (laneOn m) (fun i =>
      convert md st f.ty f.satC i (laneAt st.width ((srcs[i % r]?).getD 0) (i / r))))).srTick f.ro)

/-- Block `b` of 32 FP32 lanes as exact values; FZI applies to what is read (R69, R163). -/
def blockVals (md : Modes) (a b : Nat) : List (Ext × Flags) :=
  (List.range 32).map (fun j => readVal md .fp32 (laneAt 32 a (32 * b + j)))

/-- Scale and NV of block `b` (R69). -/
def blockScale (md : Modes) (t : ETy) (a b : Nat) : Nat × Flags := mxScale t ((blockVals md a b).map Prod.fst)

/-- An element of VQMX: lane j of the source, element lane 128·p + j (R150, R163). -/
def qmxElem (md : Modes) (t : ETy) (a p j : Nat) : Nat × Flags :=
  let x := readVal md .fp32 (laneAt 32 a j)
  let sc := blockScale md t a (j / 32)
  if sc.1 = 255 then (0, x.2 ||| sc.2)
  else
    let q := mxElement md t (128 * p + j) sc.1 x.1
    (q.1, x.2 ||| q.2)

/-- VQMX (R163): the scale bytes are written after the elements. -/
def execVqmx (f : VF) (s : State) : Out :=
  vSlot f ([f.opd.toNat] ++ f.regA ++ [f.opb.toNat]) s (fun s =>
    let md := s.modes f.ro
    let p := f.opx.toNat % 8
    let a := (s.srcA f).toNat
    let el := laneResults f.ty.lanes (fun i => decide (128 * p ≤ i ∧ i < 128 * p + 128))
      (fun i => qmxElem md f.ty a p (i - 128 * p))
    let sc := laneResults 512 (fun i => decide (4 * p ≤ i ∧ i < 4 * p + 4))
      (fun i => blockScale md f.ty a (i - 4 * p))
    ((s.deferV 3 f.opd.toNat f.ty el).deferV 3 f.opb.toNat .e8m0 sc).srTick f.ro)

/-- A lane of VDQMX (R164); a NaN sets no flag. -/
def dqmxLane (md : Modes) (t : ETy) (i X e : Nat) : Nat × Flags :=
  if X = 255 || isNaN t e then (defaultNaN .fp32, 0)
  else roundTo md .fp32 i (shiftExt ((X : Int) - 127) (valOf t e))

/-- VDQMX (R164). -/
def execVdqmx (f : VF) (s : State) : Out :=
  vSlot f ([f.opd.toNat] ++ f.regA ++ f.regB) s (fun s =>
    let md := s.modes f.ro
    let p := f.opx.toNat % 8
    let a := (s.srcA f).toNat
    let b := (s.srcB f).toNat
    (s.deferV 3 f.opd.toNat .fp32 (laneResults 128 (laneOn (s.me.mask f.msk)) (fun i =>
      dqmxLane md f.ty i (laneAt 8 b (4 * p + i / 32)) (laneAt f.ty.width a (128 * p + i))))).srTick f.ro)

end Sys2Proof.Machine
end

