-- ==== Sys2Proof/Machine/VecInt.lean ====
section
/-! DEFINITION. Vector integer arithmetic, shifts and logic (R153), VIMAD (R154), compare, select and mask logic (R155
to R157). -/

namespace Sys2Proof.Machine

/-- f of R153: SatTo with SAT, WrapTo without. -/
def fitTo (sat : Bool) (t : ETy) (z : Int) : Nat × Flags := if sat then satTo t z else (wrapTo t z, 0)

/-- A two-source integer slot. -/
def intSlot (lat : Nat) (f : VF) (s : State) (fn : Nat → Nat → Nat × Flags) : Out :=
  vLanes lat f ([f.opd.toNat] ++ f.regA ++ f.regB) s (fun s i =>
    fn (laneAt f.ty.width (s.srcA f).toNat i) (laneAt f.ty.width (s.srcB f).toNat i))

/-- An exact integer function of two lanes, fitted to the type. -/
def intArith (lat : Nat) (op : Int → Int → Int) (f : VF) (s : State) : Out :=
  intSlot lat f s (fun a b => fitTo f.sat f.ty (op (intOf f.ty a) (intOf f.ty b)))

def execViadd (f : VF) (s : State) : Out := intArith 3 (fun a b => a + b) f s
def execVisub (f : VF) (s : State) : Out := intArith 3 (fun a b => a - b) f s
def execVimul (f : VF) (s : State) : Out := intArith 5 (fun a b => a * b) f s
def execVimin (f : VF) (s : State) : Out := intSlot 3 f s (fun a b => (wrapTo f.ty (min (intOf f.ty a) (intOf f.ty b)), 0))
def execVimax (f : VF) (s : State) : Out := intSlot 3 f s (fun a b => (wrapTo f.ty (max (intOf f.ty a) (intOf f.ty b)), 0))

/-- VIABS (R153). -/
def execViabs (f : VF) (s : State) : Out :=
  vLanes 3 f ([f.opd.toNat] ++ f.regA) s (fun s i =>
    fitTo f.sat f.ty (intOf f.ty (laneAt f.ty.width (s.srcA f).toNat i)).natAbs)

/-- Shift count of a lane: the immediate, or Lane(Vb) read as unsigned (R153). -/
def shiftCount (f : VF) (s : State) (i : Nat) : Nat :=
  if f.immCount then f.opb.toNat % 64 else laneAt f.ty.width (s.srcB f).toNat i

/-- a·2^c fitted to the type: a count of twice the width or more leaves nothing of a in it, and saturates as such. -/
def shlLane (sat : Bool) (t : ETy) (a c : Nat) : Nat × Flags :=
  fitTo sat t (intOf t a * (2 ^ min c (2 * t.width) : Nat))

/-- ⌊a / 2^c⌋ of an integer. -/
def floorShift (z : Int) (c : Nat) : Int := z / (2 ^ min c 64 : Nat)

def execVshl (f : VF) (s : State) : Out :=
  vLanes 3 f f.shiftRegs s (fun s i => shlLane f.sat f.ty (laneAt f.ty.width (s.srcA f).toNat i) (shiftCount f s i))

/-- VSHR reads a as unsigned of the lane's width (R153). -/
def execVshr (f : VF) (s : State) : Out :=
  vLanes 3 f f.shiftRegs s (fun s i =>
    (wrapTo f.ty (floorShift (laneAt f.ty.width (s.srcA f).toNat i) (shiftCount f s i)), 0))

/-- A lane read as signed, whatever its type (R153). -/
def signedLane (w a : Nat) : Int := if 2 ^ (w - 1) ≤ a then (a : Int) - (2 ^ w : Nat) else a

def execVsra (f : VF) (s : State) : Out :=
  vLanes 3 f f.shiftRegs s (fun s i =>
    (wrapTo f.ty (floorShift (signedLane f.ty.width (laneAt f.ty.width (s.srcA f).toNat i)) (shiftCount f s i)), 0))

def execVand (f : VF) (s : State) : Out := intSlot 3 f s (fun a b => (a &&& b, 0))
def execVor (f : VF) (s : State) : Out := intSlot 3 f s (fun a b => (a ||| b, 0))
def execVxor (f : VF) (s : State) : Out := intSlot 3 f s (fun a b => (a ^^^ b, 0))

/-! ### VIMAD (R154) -/

/-- Lane results of pair register `r`: source lane i = 2k + r goes to lane k (R147, R154). -/
def vimadLanes (sat : Bool) (t : ETy) (m : MReg) (a b d r : Nat) : List LaneRes :=
  let t2 := t.twice
  laneResults t2.lanes (fun k => laneOn m (2 * k + r)) (fun k =>
    fitTo sat t2 (intOf t2 (laneAt t2.width d k) +
      intOf t (laneAt t.width a (2 * k + r)) * intOf t (laneAt t.width b (2 * k + r))))

def execVimad (f : VF) (s : State) : Out :=
  vSlot f (regGroup f.opd 2 ++ f.regA ++ f.regB) s (fun s =>
    let m := s.me.mask f.msk
    let a := (s.srcA f).toNat
    let b := (s.srcB f).toNat
    let d := f.opd.toNat
    (s.deferV 5 d f.ty.twice (vimadLanes f.sat f.ty m a b (s.me.vr d).toNat 0)).deferV 5 (d + 1) f.ty.twice
      (vimadLanes f.sat f.ty m a b (s.me.vr (d + 1)).toNat 1))

/-! ### Compare, select, mask logic -/

/-- The condition of OPX on two exact values (R155). -/
def cmpExt (code : Nat) (a b : Ext) : Bool :=
  let un := a == .nan || b == .nan
  match code with
  | 0 => eqExt a b
  | 1 => !(eqExt a b)
  | 2 => !un && ltExt a b
  | 3 => !un && !(ltExt a b)
  | 4 => !un && !(ltExt b a)
  | 5 => !un && ltExt b a
  | 6 => un
  | _ => !un

/-- Mask result of a bit function over lanes 0 to n − 1. -/
def maskVal (n : Nat) (f : Nat → Bool) : MReg :=
  BitVec.ofNat 1024 (packLanes 1 ((List.range n).map (fun i => if f i then 1 else 0)))

/-- VCMP (R155): each active lane's bit of Md; the other bits keep their values. -/
def execVcmp (f : VF) (s : State) : Out :=
  vSlot f (f.regA ++ f.regB) s (fun s =>
    let m := s.me.mask f.msk
    let md := s.modes 0
    let w := f.ty.width
    let a := (s.srcA f).toNat
    let b := (s.srcB f).toNat
    let n := f.ty.lanes
    let x := fun i => readVal md f.ty (laneAt w a i)
    let y := fun i => readVal md f.ty (laneAt w b i)
    s.defer 3 (.m (f.opd.setWidth 4) (maskVal n (fun i => cmpExt f.opx.toNat (x i).1 (y i).1)) (maskVal n (laneOn m)))
      ((List.range n).foldl (fun fl i => if laneOn m i then fl ||| (x i).2 ||| (y i).2 else fl) 0))

/-- VSEL: every lane, from Va where the mask bit is 1, else from Vb (R156). -/
def execVsel (f : VF) (s : State) : Out :=
  vSlot f ([f.opd.toNat] ++ f.regA ++ f.regB) s (fun s =>
    let m := s.me.mask f.msk
    let w := f.ty.width
    s.deferV 3 f.opd.toNat f.ty (laneResults f.ty.lanes (fun _ => true) (fun i =>
      (laneAt w (if laneOn m i then s.srcA f else s.srcB f).toNat i, 0))))

/-- VMOP's value (R157). -/
def vmopVal (f : VF) (s : State) : MReg :=
  let a := s.me.mask (f.opa.setWidth 4)
  let b := s.me.mask (f.opb.setWidth 4)
  match f.opx.toNat with
  | 0 => a &&& b
  | 1 => a ||| b
  | 2 => a ^^^ b
  | 3 => a &&& ~~~b
  | 4 => ~~~a
  | _ => BitVec.ofNat 1024 (2 ^ min 1024 (s.me.s (f.opa.setWidth 6)).toNat - 1)

/-- VMOP (R157). -/
def execVmop (f : VF) (s : State) : Out :=
  vSlot f [] s (fun s => s.defer 3 (.m (f.opd.setWidth 4) (vmopVal f s) (BitVec.allOnes 1024)) 0)

end Sys2Proof.Machine
end

