-- ==== Sys2Proof/Machine/Rev.lean ====
section
/-! DEFINITION. Reversible instructions and their undos (R231 to R241): forwards push what they throw away, undos pop it
(R228, R229). Every rounding is RNE without flushes (R232). -/

namespace Sys2Proof.Machine

/-- What a forward makes of one lane: result bits, flags, residual bits, escape, escape image (R234 to R241). -/
structure FwdLane where
  y     : Nat
  flags : Flags
  res   : Nat
  esc   : Bool
  img   : Nat
deriving DecidableEq, Repr

/-- A lane whose mask bit is 0 pushes a zero payload lane and does not escape (R232). -/
def FwdLane.idle : FwdLane := ⟨0, 0, 0, false, 0⟩

/-- Forward lanes under a mask. -/
def fwdLanes (n : Nat) (m : MReg) (f : Nat → FwdLane) : List FwdLane :=
  (List.range n).map (fun i => if laneOn m i then f i else FwdLane.idle)

/-- The lane results of forward lanes. -/
def fwdResults (m : MReg) (l : List FwdLane) : List LaneRes :=
  l.zipIdx.map (fun p => if laneOn m p.2 then ⟨true, p.1.y, p.1.flags⟩ else ⟨false, 0, 0⟩)

/-- Escape bitmap (R226). -/
def escBitmap (l : List FwdLane) : Nat := packLanes 1 (l.map (fun x => if x.esc then 1 else 0))

/-- Number of escaped lanes. -/
def escCount (l : List FwdLane) : Nat := (l.filter (fun x => x.esc)).length

/-- A frame over lanes of width `w` in one register image; `plen` is 512, or 0 where nothing but escapes is kept. -/
def laneFrame (w plen check : Nat) (l : List FwdLane) : Frame :=
  { plen := plen, pay := if plen = 0 then 0 else packLanes w (l.map (fun x => x.res)), esc := escCount l
    bitmap := escBitmap l, image := packLanes w (l.map (fun x => if x.esc then x.img else 0)), check := check, below := 0 }

/-- Check word of a forward of opcode `opc` whose result stands in logical register `n` (R227, R229). -/
def revCheck (s : State) (opc n : Nat) (t : ETy) (aux : Nat) : Nat :=
  checkWord opc (physV s.me.vrot n) t.code t.lanes aux 0

/-- A forward with one destination register: push its frame, defer its result; VA's push is remembered (R228). -/
def State.forward (s : State) (f : VF) (lat plen opc aux : Nat) (l : List FwdLane) : State :=
  let fr := laneFrame f.ty.width plen (revCheck s opc f.opd.toNat f.ty aux) l
  s.spoilPush fr (frameMax plen) lat (fun t =>
    let t' := t.deferV lat f.opd.toNat f.ty (fwdResults (t.me.mask f.msk) l)
    { t' with iss := { t'.iss with vaPush := t'.iss.vaPush || t'.iss.slot == 1 } })

/-- An undo with one destination register: pop, then write each active lane from the frame's lane (R229, R232). -/
def State.undo (s : State) (f : VF) (lat plen opc aux : Nat) (fn : Frame → Nat → Nat) : State :=
  s.spoilPop (revCheck s opc f.opa.toNat f.ty aux) plen (fun fr t =>
    t.deferV lat f.opd.toNat f.ty (laneResults f.ty.lanes (laneOn (t.me.mask f.msk)) (fun i => (fn fr i, 0))))

/-- Lane `i` of a frame escaped. -/
def Frame.escaped (fr : Frame) (i : Nat) : Bool := fr.esc != 0 && fr.bitmap.testBit i

/-- Pattern of an exact value representable in `t`, or its RNE rounding (R232). -/
def rnePat (t : ETy) (x : Ext) : Nat := (roundTo rneModes t 0 x).1

def isFin : Ext → Bool
  | .num .. => true
  | _ => false

def isZero : Ext → Bool
  | .num _ m _ => m == 0
  | _ => false

/-- s − y, exact (R234). -/
def residual (s y : Ext) : Ext := (addExt false s (negExt y)).1

/-- RADDF and RSUBF on a lane (R234). -/
def raddLane (t : ETy) (sub : Bool) (a b : Nat) : FwdLane :=
  let x := readVal rneModes t a
  let y := readVal rneModes t b
  let s := addExt false x.1 (if sub then negExt y.1 else y.1)
  let r := roundTo rneModes t 0 s.1
  let fl := x.2 ||| y.2 ||| flagIf s.2 fNV ||| r.2
  let v := valOf t r.1
  if !(isFin x.1) || !(isFin y.1) || isZero x.1 || !(isFin v) then ⟨r.1, fl, 0, true, a⟩
  else
    let d := residual s.1 v
    ⟨r.1, fl, if isZero d then 0 else rnePat t d, false, 0⟩

def raddSlot (sub : Bool) (opc : Nat) (f : VF) (s : State) : Out :=
  vSlot f ([f.opd.toNat] ++ f.regA ++ f.regB) s (fun s =>
    let w := f.ty.width
    s.forward f 3 512 opc 0 (fwdLanes f.ty.lanes (s.me.mask f.msk) (fun i =>
      raddLane f.ty sub (laneAt w (s.srcA f).toNat i) (laneAt w (s.srcB f).toNat i))))

/-- UNADDF and UNSUBF on a lane: y + r − b, or y + r + b, exact then rounded (R235). The sum of the three terms follows
R83. -/
def unaddLane (t : ETy) (sub : Bool) (y b r : Nat) : Nat :=
  let p := (addExt false (valOf t y) (valOf t r)).1
  let vb := valOf t b
  rnePat t (addExt false p (if sub then vb else negExt vb)).1

def unaddSlot (sub : Bool) (opc : Nat) (f : VF) (s : State) : Out :=
  vSlot f ([f.opd.toNat] ++ f.regA ++ f.regB) s (fun s =>
    let w := f.ty.width
    let y := (s.srcA f).toNat
    let b := (s.srcB f).toNat
    s.undo f 3 512 opc 0 (fun fr i =>
      if fr.escaped i then laneAt w fr.image i
      else unaddLane f.ty sub (laneAt w y i) (laneAt w b i) (laneAt w fr.pay i)))

def execRaddf (f : VF) (s : State) : Out := raddSlot false 0xA0 f s
def execUnaddf (f : VF) (s : State) : Out := unaddSlot false 0xA0 f s
def execRsubf (f : VF) (s : State) : Out := raddSlot true 0xA2 f s
def execUnsubf (f : VF) (s : State) : Out := unaddSlot true 0xA2 f s

/-- RMULF on a lane (R236). -/
def rmulLane (t : ETy) (a b : Nat) : FwdLane :=
  let x := readVal rneModes t a
  let y := readVal rneModes t b
  let p := mulExt x.1 y.1
  let r := roundTo rneModes t 0 p.1
  let fl := x.2 ||| y.2 ||| flagIf p.2 fNV ||| r.2
  let v := valOf t r.1
  if !(isFin x.1) || !(isFin y.1) || isZero x.1 || isZero y.1 || !(isFin v) || isZero v then ⟨r.1, fl, 0, true, a⟩
  else
    let d := residual p.1 v
    let q := roundTo rneModes t 0 d
    if isZero d then ⟨r.1, fl, 0, false, 0⟩
    else if q.2 = 0 then ⟨r.1, fl, q.1, false, 0⟩ else ⟨r.1, fl, 0, true, a⟩

def execRmulf (f : VF) (s : State) : Out :=
  vSlot f ([f.opd.toNat] ++ f.regA ++ f.regB) s (fun s =>
    let w := f.ty.width
    s.forward f 5 512 0xA4 0 (fwdLanes f.ty.lanes (s.me.mask f.msk) (fun i =>
      rmulLane f.ty (laneAt w (s.srcA f).toNat i) (laneAt w (s.srcB f).toNat i))))

/-- x/b of exact values, to `specBits` bits and a sticky bit; NaN for a zero or non-finite b (R236). -/
def divExt (x b : Ext) : Ext :=
  match x, b with
  | .num n m e, .num k d f =>
    if d = 0 then .nan
    else if m = 0 then .num (n != k) 0 0
    else ratio (n != k) (m * 2 ^ (specBits + Nat.log2 d)) d (e - f - (specBits + Nat.log2 d : Nat))
  | .inf n, .num k d _ => if d = 0 then .nan else .inf (n != k)
  | _, _ => .nan

/-- UNMULF on a lane that did not escape (R236). -/
def unmulLane (t : ETy) (y b r : Nat) : Nat :=
  rnePat t (divExt (addExt false (valOf t y) (valOf t r)).1 (valOf t b))

def execUnmulf (f : VF) (s : State) : Out :=
  vSlot f ([f.opd.toNat] ++ f.regA ++ f.regB) s (fun s =>
    let w := f.ty.width
    let y := (s.srcA f).toNat
    let b := (s.srcB f).toNat
    s.undo f 12 512 0xA4 0 (fun fr i =>
      if fr.escaped i then laneAt w fr.image i
      else unmulLane f.ty (laneAt w y i) (laneAt w b i) (laneAt w fr.pay i)))

/-! ### RNARW and UNNARW (R237, R238) -/

/-- |x| exceeds the maximum finite value of `t`. -/
def overMax (t : ETy) : Ext → Bool
  | .num _ m e => beyondMax t m e
  | _ => true

/-- RNARW on a lane (R238). -/
def rnarwLane (st dt : ETy) (x : Nat) : FwdLane :=
  if st.isInt then ⟨x % 2 ^ dt.width, 0, x - x % 2 ^ dt.width, false, 0⟩
  else
    let v := readVal rneModes st x
    let r := roundTo rneModes dt 0 v.1
    let yv := valOf dt r.1
    let fl := v.2 ||| r.2
    if !(isFin v.1) || overMax dt v.1 || !(isFin yv) then ⟨r.1, fl, 0, true, x⟩
    else
      let d := residual v.1 yv
      ⟨r.1, fl, if isZero d then 0 else rnePat st d, false, 0⟩

/-- Image q of a group: lane j holds what narrow lane r·j + q keeps (R238). -/
def groupImage (w r : Nat) (vals : List Nat) : Nat :=
  packLanes 4096 ((List.range r).map (fun q =>
    packLanes w ((List.range (4096 / w)).map (fun j => (vals[r * j + q]?).getD 0))))

/-- The lane of a group image that narrow lane i has. -/
def groupLane (w r img i : Nat) : Nat := laneAt w (laneAt 4096 img (i % r)) (i / r)

def execRnarw (f : VF) (s : State) : Out :=
  let st := f.src
  let r := st.width / f.ty.width
  vSlot f ([f.opd.toNat] ++ regGroup f.opa r) s (fun s =>
    let srcs := (List.range r).map (fun k => (s.me.vr (f.opa.toNat + k)).toNat)
    let m := s.me.mask f.msk
    let l := fwdLanes f.ty.lanes m (fun i => rnarwLane st f.ty (laneAt st.width ((srcs[i % r]?).getD 0) (i / r)))
    let fr : Frame :=
      { plen := 512 * r, pay := groupImage st.width r (l.map (fun x => x.res)), esc := escCount l
        bitmap := escBitmap l, image := groupImage st.width r (l.map (fun x => if x.esc then x.img else 0))
        check := revCheck s 0xA6 f.opd.toNat f.ty st.code, below := 0 }
    s.spoilPush fr (frameMax (512 * r)) 3 (fun t =>
      let t' := t.deferV 3 f.opd.toNat f.ty (fwdResults m l)
      { t' with iss := { t'.iss with vaPush := t'.iss.vaPush || t'.iss.slot == 1 } }))

/-- UNNARW on a narrow lane that did not escape (R238): a zero residual leaves the bits of y widened. -/
def unnarwLane (st dt : ETy) (y r : Nat) : Nat :=
  if st.isInt then r ||| y
  else
    let v := valOf dt y
    rnePat st (if isZero (valOf st r) then v else (addExt false v (valOf st r)).1)

def execUnnarw (f : VF) (s : State) : Out :=
  let st := f.src
  let r := st.width / f.ty.width
  vSlot f (regGroup f.opd r ++ f.regA) s (fun s =>
    let y := (s.srcA f).toNat
    let m := s.me.mask f.msk
    s.spoilPop (revCheck s 0xA6 f.opa.toNat f.ty st.code) (512 * r) (fun fr t =>
      t.deferGroup 3 f.opd.toNat st ((List.range r).map (fun q =>
        laneResults st.lanes (fun j => laneOn m (r * j + q)) (fun j =>
          let i := r * j + q
          (if fr.escaped i then groupLane st.width r fr.image i
            else unnarwLane st f.ty (laneAt f.ty.width y i) (groupLane st.width r fr.pay i), 0))))))

/-! ### RSHR, RSCL, RIMUL and their undos (R239 to R241) -/

/-- AUX of a shift: the immediate count, or 0xFF (R227). -/
def shiftAux (f : VF) : Nat := if f.immCount then f.opb.toNat % 64 else 0xFF

/-- RSHR on a lane (R239). -/
def rshrLane (t : ETy) (a c : Nat) : FwdLane :=
  let y := wrapTo t (floorShift (intOf t a) c)
  if c < t.width then ⟨y, 0, (intOf t a % (2 ^ c : Nat)).toNat, false, 0⟩ else ⟨y, 0, 0, true, a⟩

def execRshr (f : VF) (s : State) : Out :=
  vSlot f f.shiftRegs s (fun s =>
    s.forward f 3 512 0xA8 (shiftAux f) (fwdLanes f.ty.lanes (s.me.mask f.msk) (fun i =>
      rshrLane f.ty (laneAt f.ty.width (s.srcA f).toNat i) (shiftCount f s i))))

/-- UNSHR on a lane that did not escape: WrapTo(y·2^c + r) (R239). -/
def unshrLane (t : ETy) (y c r : Nat) : Nat :=
  wrapTo t (intOf t y * (2 ^ min c 64 : Nat) + intOf t r)

def execUnshr (f : VF) (s : State) : Out :=
  vSlot f f.shiftRegs s (fun s =>
    let w := f.ty.width
    let y := (s.srcA f).toNat
    s.undo f 3 512 0xA8 (shiftAux f) (fun fr i =>
      if fr.escaped i then laneAt w fr.image i
      else unshrLane f.ty (laneAt w y i) (shiftCount f s i) (laneAt w fr.pay i)))

/-- k of RSCL, OPX in two's complement (R240). -/
def sclK (f : VF) : Int := f.opx.toInt

/-- RSCL on a lane (R240). -/
def rsclLane (t : ETy) (k : Int) (a : Nat) : FwdLane :=
  let x := readVal rneModes t a
  let p := shiftExt k x.1
  let r := roundTo rneModes t 0 p
  let v := valOf t r.1
  let esc := match x.1 with
    | .nan => true
    | .num .. => !(isFin v && eqExt v p)
    | .inf _ => false
  ⟨r.1, x.2 ||| r.2, 0, esc, a⟩

def execRscl (f : VF) (s : State) : Out :=
  vSlot f ([f.opd.toNat] ++ f.regA) s (fun s =>
    s.forward f 3 0 0xAA f.opx.toNat (fwdLanes f.ty.lanes (s.me.mask f.msk) (fun i =>
      rsclLane f.ty (sclK f) (laneAt f.ty.width (s.srcA f).toNat i))))

def execUnscl (f : VF) (s : State) : Out :=
  vSlot f ([f.opd.toNat] ++ f.regA) s (fun s =>
    let w := f.ty.width
    let y := (s.srcA f).toNat
    s.undo f 3 0 0xAA f.opx.toNat (fun fr i =>
      if fr.escaped i then laneAt w fr.image i
      else rnePat f.ty (shiftExt (-(sclK f)) (valOf f.ty (laneAt w y i)))))

/-- RIMUL on a lane (R241). -/
def rimulLane (t : ETy) (a m : Nat) : FwdLane :=
  ⟨wrapTo t (intOf t a * intOf t m), 0, 0, m % 2 == 0, a⟩

def execRimul (f : VF) (s : State) : Out :=
  vSlot f ([f.opd.toNat] ++ f.regA ++ f.regB) s (fun s =>
    let w := f.ty.width
    s.forward f 5 0 0xAC 0 (fwdLanes f.ty.lanes (s.me.mask f.msk) (fun i =>
      rimulLane f.ty (laneAt w (s.srcA f).toNat i) (laneAt w (s.srcB f).toNat i))))

/-- The inverse of an odd m modulo 2^w by Newton's iteration, which doubles the correct bits (R241). -/
def oddInverse (w m : Nat) : Nat → Nat
  | 0 => 1
  | k + 1 =>
    let u := oddInverse w m k
    ((u : Int) * (2 - (m : Int) * u) % (2 ^ w : Nat)).toNat

/-- UNIMUL on a lane that did not escape (R241). -/
def unimulLane (t : ETy) (y m : Nat) : Nat :=
  if m % 2 = 0 then y else (y * oddInverse t.width m 6) % 2 ^ t.width

def execUnimul (f : VF) (s : State) : Out :=
  vSlot f ([f.opd.toNat] ++ f.regA ++ f.regB) s (fun s =>
    let w := f.ty.width
    let y := (s.srcA f).toNat
    let b := (s.srcB f).toNat
    s.undo f 5 0 0xAC 0 (fun fr i =>
      if fr.escaped i then laneAt w fr.image i else unimulLane f.ty (laneAt w y i) (laneAt w b i)))

end Sys2Proof.Machine
end

