-- ==== Sys2Proof/Machine/VecArith.lean ====
section
/-! DEFINITION. Vector floating-point arithmetic (R151), selection and sign (R152), the special functions (R158) and
dot products (R172). -/

namespace Sys2Proof.Machine

/-- The lane operations of R151; `c` is the accumulator lane. -/
inductive FpOp where
  | add | sub | mul | fma | fms
deriving DecidableEq, Repr

/-- Exact value and invalid flag of an operation on exact values (R66, R83, R151). -/
def fpExact (rd : Bool) (op : FpOp) (a b c : Ext) : Ext × Bool :=
  match op with
  | .add => addExt rd a b
  | .sub => addExt rd a (negExt b)
  | .mul => mulExt a b
  | .fma =>
    let p := mulExt a b
    let r := addExt rd c p.1
    (r.1, p.2 || r.2)
  | .fms =>
    let p := mulExt a b
    let r := addExt rd c (negExt p.1)
    (r.1, p.2 || r.2)

/-- The operation reads the destination as an accumulator. -/
def FpOp.usesAcc : FpOp → Bool
  | .fma | .fms => true
  | _ => false

/-- One lane: flush, combine exactly, round once (R66, R77, R151). -/
def fpLane (m : Modes) (t : ETy) (op : FpOp) (i a b c : Nat) : Nat × Flags :=
  let x := readVal m t a
  let y := readVal m t b
  let z := if op.usesAcc then readVal m t c else (.num false 0 0, 0)
  let r := fpExact (m.mode == .rd) op x.1 y.1 z.1
  let q := roundTo m t i r.1
  (q.1, x.2 ||| y.2 ||| z.2 ||| flagIf r.2 fNV ||| q.2)

/-- VADD, VSUB, VMUL, VFMA, VFMS (R151). -/
def fpSlot (op : FpOp) (lat : Nat) (f : VF) (s : State) : Out :=
  vLanes lat f ([f.opd.toNat] ++ f.regA ++ f.regB) s (fun s i =>
    let w := f.ty.width
    fpLane (s.modes f.ro) f.ty op i (laneAt w (s.srcA f).toNat i) (laneAt w (s.srcB f).toNat i)
      (laneAt w (s.me.vr f.opd.toNat).toNat i))

def execVadd (f : VF) (s : State) : Out := fpSlot .add 3 f s
def execVsub (f : VF) (s : State) : Out := fpSlot .sub 3 f s
def execVmul (f : VF) (s : State) : Out := fpSlot .mul 5 f s
def execVfma (f : VF) (s : State) : Out := fpSlot .fma 5 f s
def execVfms (f : VF) (s : State) : Out := fpSlot .fms 5 f s

/-- a below b with −0 below +0 (R152). -/
def ltSel (a b : Ext) : Bool :=
  match a, b with
  | .num n 0 _, .num k 0 _ => n && !k
  | _, _ => ltExt a b

/-- The pattern of a lane as an FZI-flushed read gives it: its own bits, or a zero of its sign (R77, R152). -/
def flushedBits (m : Modes) (t : ETy) (b : Nat) : Nat :=
  if m.fzi && flushes t && isSub t b then b / 2 ^ (t.width - 1) * 2 ^ (t.width - 1) else b

/-- VMIN and VMAX on a lane (R152). -/
def selLane (m : Modes) (t : ETy) (max : Bool) (a b : Nat) : Nat × Flags :=
  let x := readVal m t a
  let y := readVal m t b
  if isNaN t a || isNaN t b then (defaultNaN t, x.2 ||| y.2)
  else
    let takeB := if max then ltSel x.1 y.1 else ltSel y.1 x.1
    (flushedBits m t (if takeB then b else a), x.2 ||| y.2)

/-- VABS and VNEG on a lane (R152). -/
def signLane (m : Modes) (t : ETy) (neg : Bool) (a : Nat) : Nat × Flags :=
  let x := readVal m t a
  if isNaN t a then (defaultNaN t, x.2)
  else
    let k := flushedBits m t a
    let h := 2 ^ (t.width - 1)
    (if neg then (if k / h % 2 = 1 then k - h else k + h) else k % h, x.2)

def selSlot (max : Bool) (f : VF) (s : State) : Out :=
  vLanes 3 f ([f.opd.toNat] ++ f.regA ++ f.regB) s (fun s i =>
    selLane (s.modes 0) f.ty max (laneAt f.ty.width (s.srcA f).toNat i) (laneAt f.ty.width (s.srcB f).toNat i))

def signSlot (neg : Bool) (f : VF) (s : State) : Out :=
  vLanes 3 f ([f.opd.toNat] ++ f.regA) s (fun s i =>
    signLane (s.modes 0) f.ty neg (laneAt f.ty.width (s.srcA f).toNat i))

def execVmin (f : VF) (s : State) : Out := selSlot false f s
def execVmax (f : VF) (s : State) : Out := selSlot true f s
def execVabs (f : VF) (s : State) : Out := signSlot false f s
def execVneg (f : VF) (s : State) : Out := signSlot true f s

/-- The special functions: FP32 lanes, latency 12 (R146, R158). -/
def specSlot (fn : SpecFn) (f : VF) (s : State) : Out :=
  vLanes 12 f ([f.opd.toNat] ++ f.regA) s (fun s i =>
    specLane (s.modes f.ro) fn i (laneAt 32 (s.srcA f).toNat i))

def execVrcp (f : VF) (s : State) : Out := specSlot .rcp f s
def execVrsq (f : VF) (s : State) : Out := specSlot .rsq f s
def execVsqrt (f : VF) (s : State) : Out := specSlot .sqrt f s
def execVexp2 (f : VF) (s : State) : Out := specSlot .exp2 f s
def execVlog2 (f : VF) (s : State) : Out := specSlot .log2 f s
def execVtanh (f : VF) (s : State) : Out := specSlot .tanh f s
def execVerf (f : VF) (s : State) : Out := specSlot .erf f s

/-- The products of one result lane of VDOT, raw elements (R172), which FZI does not reach; an integer product 0 has no sign
(DEDUCED, log 51). -/
def dotProducts (t : ETy) (a b r : Nat) : List Ext :=
  let g := t.lanes / 128
  (List.range g).map (fun j =>
    dotMul t.isInt (valOf t (laneAt t.width a (g * r + j))) (valOf t (laneAt t.width b (g * r + j))))

/-- One FP32 lane of VDOT under a profile (R172). -/
def dotLane (prof : Nat) (t : ETy) (a b c r : Nat) : Nat :=
  let S := (chunkSum prof (dotProducts t a b r)).1
  (reduce 0 prof 4 (.fp (BitVec.ofNat 32 (laneAt 32 c r))) [S]).1.pat.toNat

/-- VDOT: under profile 7 or 8 the profile-mismatch trap (R94, R172); no flag. -/
def execVdot (f : VF) (s : State) : Out :=
  vSlot f ([f.opd.toNat] ++ f.regA ++ f.regB) s (fun s =>
    if profInt s.iss.profile then s.trap 0x04 0x00 0 0
    else
      let a := (s.srcA f).toNat
      let b := (s.srcB f).toNat
      let c := (s.me.vr f.opd.toNat).toNat
      s.deferV 6 f.opd.toNat .fp32
        (laneResults 128 (laneOn (s.me.mask f.msk)) (fun r => (dotLane s.iss.profile f.ty a b c r, 0))))

end Sys2Proof.Machine
end

