-- ==== Sys2Proof/Machine/VecPerm.lean ====
section
/-! DEFINITION. Permutes (R165): VPERM, VSLIDE, VBCAST, VEXTR, VINS. Lane bits move without conversion; no flag. -/

namespace Sys2Proof

/-- OPX[0], SRC: an S register takes the place of the immediate (R165). -/
def VF.fromS (f : VF) : Bool := f.opx.getLsbD 0

/-- The S register in OPB[5:0]. -/
def VF.sReg (f : VF) : BitVec 6 := f.opb.setWidth 6

end Sys2Proof

namespace Sys2Proof.Machine

/-- g = min(2^w, n(t)) (R165). -/
def permSeg (t : ETy) : Nat := min (2 ^ t.width) t.lanes

/-- VPERM: each index selects within its own segment (R165). -/
def execVperm (f : VF) (s : State) : Out :=
  vLanes 4 f ([f.opd.toNat] ++ f.regA ++ f.regB) s (fun s i =>
    let w := f.ty.width
    let g := permSeg f.ty
    (laneAt w (s.srcA f).toNat (g * (i / g) + laneAt w (s.srcB f).toNat i % g), 0))

/-- VSLIDE: lane i + k of Va then Vb (R165). -/
def execVslide (f : VF) (s : State) : Out :=
  vLanes 4 f ([f.opd.toNat] ++ f.regA ++ f.regB) s (fun s i =>
    let w := f.ty.width
    let n := f.ty.lanes
    let j := i + f.opx.toNat
    (if j < n then laneAt w (s.srcA f).toNat j else laneAt w (s.srcB f).toNat (j - n), 0))

/-- VBCAST (R165). -/
def execVbcast (f : VF) (s : State) : Out :=
  vLanes 4 f ([f.opd.toNat] ++ (if f.fromS then [] else f.regA)) s (fun s _ =>
    let w := f.ty.width
    (if f.fromS then (s.me.s f.sReg).toNat % 2 ^ w else laneAt w (s.srcA f).toNat f.opb.toNat, 0))

/-- The lane index of VEXTR and VINS: j, or S[Sb] mod n(t) (R165). -/
def laneIndex (f : VF) (s : State) : Nat :=
  if f.fromS then (s.me.s f.sReg).toNat % f.ty.lanes else f.opb.toNat

/-- A lane as a 64-bit value: sign-extended for the signed integer types, zero-extended for all others (R165). -/
def extrVal (t : ETy) (b : Nat) : Word := if t.isSigned then BitVec.ofInt 64 (intOf t b) else BitVec.ofNat 64 b

/-- VEXTR (R165). -/
def execVextr (f : VF) (s : State) : Out :=
  vSlot f f.regA s (fun s =>
    s.deferS 4 (f.opd.setWidth 6) (extrVal f.ty (laneAt f.ty.width (s.srcA f).toNat (laneIndex f s))))

/-- VINS (R165): one lane, if its mask bit is 1. -/
def execVins (f : VF) (s : State) : Out :=
  vSlot f [f.opd.toNat] s (fun s =>
    let w := f.ty.width
    let j := laneIndex f s
    let m := s.me.mask f.msk
    s.deferV 4 f.opd.toNat f.ty (laneResults f.ty.lanes (fun i => i == j && laneOn m i)
      (fun _ => ((s.me.s (f.opa.setWidth 6)).toNat % 2 ^ w, 0))))

end Sys2Proof.Machine
end

