-- ==== Sys2Proof/Machine/Slots.lean ====
section
/-! DEFINITION. The slot instructions of a bundle, each run for the context and bundle that BUNDLE_ISSUE has set; a step
that is no slot instruction stands in no bundle and leaves the state as it is. -/

namespace Sys2Proof.Machine

/-- What a slot of the bundle being issued does. -/
def slotExec (i : Instr) (s : State) : Out :=
  match i with
  | .add g sd sa b => execAdd g sd sa b s
  | .sub g sd sa b => execSub g sd sa b s
  | .mul g sd sa b => execMul g sd sa b s
  | .mulh g n sd sa b => execMulh g n sd sa b s
  | .and g sd sa b => execAnd g sd sa b s
  | .or g sd sa b => execOr g sd sa b s
  | .xor g sd sa b => execXor g sd sa b s
  | .shl g sd sa b => execShl g sd sa b s
  | .shr g sd sa b => execShr g sd sa b s
  | .sra g sd sa b => execSra g sd sa b s
  | .min g n sd sa b => execMin g n sd sa b s
  | .max g n sd sa b => execMax g n sd sa b s
  | .clz g sd sa => execClz g sd sa s
  | .popc g sd sa => execPopc g sd sa s
  | .set g cc sd sa b => execSet g cc sd sa b s
  | .sel g sd sc sa sb => execSel g sd sc sa sb s
  | .li g sd v => execLi g sd v s
  | .lih g sd sa v => execLih g sd sa v s
  | .mova g f => execMova g f s
  | .adda g ad aa b => execAdda g ad aa b s
  | .br g cc sa sb off => execBr g cc sa sb off s
  | .jmp g sa off => execJmp g sa off s
  | .call g sd sa off => execCall g sd sa off s
  | .ret g sa => execRet g sa s
  | .loop g rot stg cnt => execLoop g rot stg cnt s
  | .exit g code => execExit g code s
  | .trap g code => execTrap g code s
  | .wnext g sd => execWnext g sd s
  | .wnextField g sd k => execWnextField g sd k s
  | .mfc g sd crn => execMfc g sd crn s
  | .mtc g crn sa => execMtc g crn sa s
  | .shw g cls n fld v => execShw g cls n fld v s
  | .tdw g tid fld v => execTdw g tid fld v s
  | .tdr g sd tid fld immForm => execTdr g sd tid fld immForm s
  | .spmark g sd name => execSpmark g sd name s
  | .spdrop g sa name => execSpdrop g sa name s
  | .spdepth g sd => execSpdepth g sd s
  | .vadd f => execVadd f s
  | .vsub f => execVsub f s
  | .vmul f => execVmul f s
  | .vfma f => execVfma f s
  | .vfms f => execVfms f s
  | .vmin f => execVmin f s
  | .vmax f => execVmax f s
  | .vabs f => execVabs f s
  | .vneg f => execVneg f s
  | .viadd f => execViadd f s
  | .visub f => execVisub f s
  | .vimul f => execVimul f s
  | .vimad f => execVimad f s
  | .vimin f => execVimin f s
  | .vimax f => execVimax f s
  | .viabs f => execViabs f s
  | .vshl f => execVshl f s
  | .vshr f => execVshr f s
  | .vsra f => execVsra f s
  | .vand f => execVand f s
  | .vor f => execVor f s
  | .vxor f => execVxor f s
  | .vcmp f => execVcmp f s
  | .vsel f => execVsel f s
  | .vmop f => execVmop f s
  | .vrcp f => execVrcp f s
  | .vrsq f => execVrsq f s
  | .vsqrt f => execVsqrt f s
  | .vexp2 f => execVexp2 f s
  | .vlog2 f => execVlog2 f s
  | .vtanh f => execVtanh f s
  | .verf f => execVerf f s
  | .vcvt f => execVcvt f s
  | .vwiden f => execVwiden f s
  | .vunpk f => execVunpk f s
  | .vnarrow f => execVnarrow f s
  | .vqmx f => execVqmx f s
  | .vdqmx f => execVdqmx f s
  | .vperm f => execVperm f s
  | .vslide f => execVslide f s
  | .vbcast f => execVbcast f s
  | .vextr f => execVextr f s
  | .vins f => execVins f s
  | .vred f => execVred f s
  | .vrdrn f => execVrdrn f s
  | .vrclr f => execVrclr f s
  | .vdot f => execVdot f s
  | .raddf f => execRaddf f s
  | .unaddf f => execUnaddf f s
  | .rsubf f => execRsubf f s
  | .unsubf f => execUnsubf f s
  | .rmulf f => execRmulf f s
  | .unmulf f => execUnmulf f s
  | .rnarw f => execRnarw f s
  | .unnarw f => execUnnarw f s
  | .rshr f => execRshr f s
  | .unshr f => execUnshr f s
  | .rscl f => execRscl f s
  | .unscl f => execUnscl f s
  | .rimul f => execRimul f s
  | .unimul f => execUnimul f s
  | .mrun g idx sh sw rep inc => execMrun g idx sh sw rep inc s
  | .mrunF g idx sh sw rep inc => execMrunF g idx sh sw rep inc s
  | .mpload g idx bank off => execMpload g idx bank off s
  | .mploadP g k sa => execMploadP g k sa s
  | .lend g k => execLend g k s
  | .recl g k => execRecl g k s
  | .mstrOpen g e tile save => execMstrOpen g e tile save s
  | .mstrPause g e => execMstrPause g e s
  | .mstrResume g e => execMstrResume g e s
  | .mstrReset g e => execMstrReset g e s
  | .mstrClose g e => execMstrClose g e s
  | .vld f => execVld f s
  | .vldg f => execVldg f s
  | .sld f => execSld f s
  | .mld f => execMld f s
  | .vldt f => execVldt f s
  | .vldb f => execVldb f s
  | .vst f => execVst f s
  | .sst f => execSst f s
  | .mst f => execMst f s
  | .vstx f => execVstx f s
  | .putq g vs ben ctx q wait => execPutq g vs ben ctx q wait s
  | .cpyLd f mc spa => execCpyLd f mc spa s
  | .cpySt f spa => execCpySt f spa s
  | .cpytLd f spa => execCpytLd f spa s
  | .cpytSt f spa => execCpytSt f spa s
  | .cgath f ib spa => execCgath f ib spa s
  | .cpair f spa => execCpair f spa s
  | .cmig f host dl => execCmig f host dl s
  | .nmcopy f dpitch => execNmcopy f dpitch s
  | .nmdot f spa => execNmdot f spa s
  | .fsamp f ty spa => execFsamp f ty spa s
  | .ftap f spa => execFtap f spa s
  | .ftick f n1 => execFtick f n1 s
  | .ftickG f gn1 n1 => execFtickG f gn1 n1 s
  | .freset f => execFreset f s
  | .fresetIn f => execFresetIn f s
  | .collRs f spa => execCollRs f spa s
  | .collAg f spa => execCollAg f spa s
  | .collAr f spa => execCollAr f spa s
  | .fence g sc ord => execFence g sc ord s
  | .qadvH g q k => execQadvH g q k s
  | .qadvT g q k => execQadvT g q k s
  | .twait g sa => execTwait g sa s
  | .twany g sa => execTwany g sa s
  | .tfind g sd sa => execTfind g sd sa s
  | .tclr g sa => execTclr g sa s
  | .bar g sc id => execBar g sc id s
  | .signalAdd g sc sa sb => execSignalAdd g sc sa sb s
  | .signalStore g sc sa sb => execSignalStore g sc sa sb s
  | .swait g sc sd sa sb ticks => execSwait g sc sd sa sb ticks s
  | .launch g sd sa => execLaunch g sd sa s
  | .expose g sa => execExpose g sa s
  | .yield g => execYield g s
  | _ => .next s

end Sys2Proof.Machine
end

