-- ==== Sys2Proof/Machine/Issue.lean ====
section
/-! DEFINITION. BUNDLE_ISSUE (R36 to R63, R125, R129, R174, R203 to R207, R424): the next bundle of a context, the checks
of R62, the merge stage, and what issuing a bundle does. -/

namespace Sys2Proof.Machine

/-! ### The next bundle (R46, R62, R174) -/

/-- Bytes taken from a fetch queue: the lowest byte outside the table, their value, and whether a line that holds one
is poisoned. -/
structure Got where
  out : Option Nat
  val : Nat
  bad : Bool
deriving DecidableEq, Repr

/-- `n` bytes from address `a`, where every line that holds one has arrived; they lie in at most two lines (R45). -/
def Ctx.grab (c : Ctx) (a n : Nat) : Option Got :=
  let find (b : Nat) : Option FLine := c.fq.find? (fun l => l.base == b)
  match find (lineOf a), find (lineOf ((a + n - 1) % 2 ^ 64)) with
  | some x, some y =>
    let one := x.base == y.base
    let v := x.data + (if one then 0 else y.data * 2 ^ 2048)
    some {
      out := if x.outside then some a else if y.outside then some y.base else none
      val := v / 256 ^ (a - x.base) % 256 ^ n, bad := x.bad || y.bad }
  | _, _ => none

/-- Slot whose word holds the byte at offset `off` of a bundle (R46). -/
def slotOfByte (h : Header) (off : Nat) : Nat :=
  let present := (slotOrder.map Slot.code).filter (fun k => h.smask.getLsbD k)
  if off < 4 then 8 else (present[(off - 4) / 8]?).getD 8

/-- What stands next in a context: nothing that has arrived, a bundle that traps before its slots, with its SMASK and SOLO,
a bundle of which one slot word is no instruction, with that trap and the slots that stand before it, or a bundle with its
bits. -/
inductive NextBundle where
  | wait
  | bad (t : TrapInfo) (smask : BitVec 8) (solo : Bool)
  | part (t : TrapInfo) (b : Bundle)
  | good (w : Nat) (b : Bundle)
deriving DecidableEq, Repr

/-- The fetch-window trap of a bundle at `pc` whose lowest byte outside is `o` (R46). -/
def fetchTrap (pc : Nat) (h : Header) (o : Nat) : TrapInfo :=
  if pc % 4 ≠ 0 then { code := 0x02, cause := 0x02, slot := 8, addr := pc }
  else { code := 0x02, cause := 0x01, slot := slotOfByte h ((o + 2 ^ 64 - pc) % 2 ^ 64), addr := o }

/-- The bundle at `pc` once all its bytes have arrived; `hdrOnly` leaves its slot words undecoded (R125). The machine check of a
poisoned line (R399) comes after the fetch-window trap and before the checks of the header (DESIGN CHOICE, log 52). -/
def Ctx.bundleAt (_ : Ctx) (hdrOnly : Bool) (pc : Nat) (h : Header) (g : Got) : NextBundle :=
  if pc % 4 ≠ 0 ∨ g.out.isSome then .bad (fetchTrap pc h (g.out.getD pc)) h.smask h.solo
  else if g.bad then .bad { code := 0x0A, cause := 0x03, slot := 15, addr := pc } h.smask h.solo
  else
    match decodeHeader (g.val % 2 ^ 32) with
    | .error b => .bad { code := 0x01, cause := b.cause, slot := 8 } h.smask h.solo
    | .ok h' =>
      if hdrOnly then .good g.val ⟨h', []⟩
      else
        match decodeBundle g.val with
        | .error b => .part { code := 0x01, cause := b.1.cause, slot := b.2 } ⟨h', decodeBefore h'.smask slotOrder (g.val / 2 ^ 32)⟩
        | .ok b => .good g.val b

/-- The next bundle from the fetch queue: the header parcel first, taken as a bundle of 4 bytes where a byte of it lies
outside (R46). -/
def Ctx.fetched (c : Ctx) (hdrOnly : Bool) : NextBundle :=
  match c.grab c.pc 4 with
  | none => .wait
  | some g =>
    if g.out.isSome then .bad (fetchTrap c.pc (headerRaw 0) (g.out.getD c.pc)) 0 false
    else
      let h := headerRaw g.val
      match c.grab c.pc h.len with
      | none => .wait
      | some x => c.bundleAt hdrOnly c.pc h x

/-- The next bundle: from the loop buffer where it holds it, else from the fetch queue. -/
def Ctx.upNext (c : Ctx) : NextBundle :=
  match c.loop.bind (fun l => l.buf.find? (fun e => e.1 == c.pc)) with
  | some e =>
    match decodeBundle e.2 with
    | .ok b => .good e.2 b
    | .error _ => .wait
  | none => c.fetched false

/-! ### Running the slots of a bundle (R62, R424) -/

/-- The slots run so far: the state they leave, whether one blocks (and whether one blocks for another reason than the read
of a routine block), that read, and the traps met, in slot order. -/
structure Trial where
  s       : State
  blocked : Bool := false
  other   : Bool := false
  mread   : Option MRead := none
  traps   : List TrapInfo := []

/-- The state after a slot whose only trap is that of a lent bank, as the later slots' waits see it: that of the slot with
no bank lent (R424 tests every wait before any trap). None where the slot itself waits. -/
def State.unlent (s0 : State) (i : Instr) : Option State :=
  match slotExec i (s0.setMe { s0.me with lent := 0 }) with
  | .next s1 => if s1.iss.blocked then none else some (if s1.iss.trapped.isSome then s0 else s1)
  | _ => some s0

/-- Run one slot; a slot that blocks or traps has no effect. -/
def Trial.run (t : Trial) (p : Slot × Instr) : Trial :=
  let s0 := { t.s with iss := { t.s.iss with slot := p.1.code, blocked := false, trapped := none, mread := none } }
  match slotExec p.2 s0 with
  | .next s1 =>
    match s1.iss.trapped with
    | some x =>
      if x.code = 0x06 ∧ x.cause = 0x02 then
        match s0.unlent p.2 with
        | none => { t with blocked := true, other := true }
        | some s2 => { t with traps := t.traps ++ [x], s := s2 }
      else { t with traps := t.traps ++ [x] }
    | none =>
      if s1.iss.blocked then
        { t with blocked := true, other := t.other || s1.iss.mread.isNone, mread := t.mread.or s1.iss.mread }
      else { t with s := s1 }
  | _ => t

/-- LOOP and EXIT change what the other slots of their bundle read, and act after them. -/
def actsLast : Instr → Bool
  | .loop .. | .exit .. => true
  | _ => false

/-- Slots in the order in which they run. -/
def runOrder (l : List (Slot × Instr)) : List (Slot × Instr) :=
  l.filter (fun p => !(actsLast p.2)) ++ l.filter (fun p => actsLast p.2)

/-- The trap that is taken: the first failed check of R61, else the first run-time condition by slot order. -/
def firstTrap (l : List TrapInfo) : Option TrapInfo :=
  let first (l : List TrapInfo) : Option TrapInfo :=
    match l with
    | [] => none
    | x :: rest => some (rest.foldl (fun a b => if b.slot < a.slot then b else a) x)
  (first (l.filter (fun t => t.code == 0x01))).or (first l)

/-- What comes of a context's turn. -/
inductive Plan where
  | idle
  /-- It blocks; the read of a routine block goes on (R271). -/
  | blocks (m : Option MRead)
  /-- It steps over a bundle of a loop of no iterations (R125). -/
  | skips (c : Ctx)
  /-- It is ready: its bundle traps. -/
  | traps (t : TrapInfo) (resume : Nat) (smask : BitVec 8) (solo : Bool)
  /-- It is ready: its bundle issues, and leaves this state; the banks of its L and S slots. -/
  | issues (s : State) (smask : BitVec 8) (solo : Bool) (banks : List Nat)

/-- The loop buffer is full: the 65th bundle without STOP (R127). -/
def loopFull (c : Ctx) : Bool := c.loop.any (fun l => decide (64 ≤ l.met))

/-- The loop trap, cause 0x01. -/
def loopFullTrap : TrapInfo := { code := 0x05, cause := 0x01, slot := 15 }

/-- Keep the fetch queue where the next bundle is buffered or a line of the queue holds it; else it starts again (R174). -/
def Ctx.settle (c : Ctx) : Ctx :=
  if c.loop.any (fun l => l.buf.any (fun e => e.1 == c.pc)) then c else { c with fq := fqKeep c.pc c.fq }

/-- After a bundle of a loop body: it is buffered, and STOP ends the iteration (R125). -/
def Ctx.bodyBundle (c : Ctx) (l : LoopRec) (pc w len : Nat) (stop : Bool) : Ctx :=
  let had := l.buf.any (fun e => e.1 == pc)
  let l1 := { l with met := l.met + 1, buf := if had then l.buf else l.buf ++ [(pc, w)] }
  if stop then
    let l1 := { l1 with fin := (pc + len) % 2 ^ 64 }
    let c1 := if had then c else { c with fq := fqKeep (pc + len) c.fq }
    (c1.loopStop l1 ((pc + len) % 2 ^ 64)).settle
  else ({ c with loop := some l1 }).settle

/-- After the slots of a bundle: loop, fetch queue, and a pre-emption that waited for this issue (R211). -/
def State.afterBundle (s : State) (u : Nat) (before : Ctx) (w : Nat) (b : Bundle) : State :=
  let c := s.ctx u
  if c.life = .exited then s.endContext u
  else
    let c1 := match before.loop with
      | some l => c.bodyBundle l before.pc w b.hdr.len b.hdr.stop
      | none => c.settle
    s.setCtx u { c1 with pre := if before.pre = .afterIssue then .at_ (s.cycle + 1) else c1.pre }

/-- The state in which the slots of a bundle run. -/
def State.setIssue (s : State) (u : Nat) (b : Bundle) : State :=
  let c := s.ctx u
  let s1 := s.setCtx u { c with
    pc := (c.pc + b.hdr.len) % 2 ^ 64, readyAt := s.cycle + 1 + b.hdr.gap.toNat, wait := 0, yielded := false }
  { s1 with cur := u, iss := {
      pc := c.pc, len := b.hdr.len, gap := b.hdr.gap.toNat, profile := b.hdr.profile.toNat, depth0 := c.sp.depth } }

/-- No slot is being run. -/
def State.clearIssue (s : State) : State := { s with cur := 0, iss := {} }

/-- The plan of a bundle that passed the checks of its encoding. The loop trap of a 65th bundle (R127) comes after the waits and before
the run-time conditions of the slots (R424; DESIGN CHOICE, log 52). -/
def State.planBundle (s : State) (u w : Nat) (b : Bundle) : Plan :=
  let c := s.ctx u
  let t := (runOrder b.slots).foldl Trial.run { s := s.setIssue u b }
  let bad := t.traps.filter (fun x => x.code == 0x01)
  let resume (x : TrapInfo) : Nat := if x.code = 0x0B then (c.pc + b.hdr.len) % 2 ^ 64 else c.pc
  match firstTrap bad with
  | some x => .traps x c.pc b.hdr.smask b.hdr.solo
  | none =>
    if t.blocked then .blocks (if t.other && c.mread.isNone then none else t.mread)
    else if loopFull c then .traps loopFullTrap c.pc b.hdr.smask b.hdr.solo
    else
      match firstTrap t.traps with
      | some x => .traps x (resume x) b.hdr.smask b.hdr.solo
      | none =>
        .issues (t.s.afterBundle u c w b).clearIssue b.hdr.smask b.hdr.solo
          (t.s.iss.lBank.toList ++ t.s.iss.sBank.toList)

/-- The trap of a bundle with a bad slot word: the first failure in slot order, that of a slot before it included (R62). -/
def State.partTrap (s : State) (u : Nat) (x : TrapInfo) (b : Bundle) : TrapInfo :=
  let t := (runOrder b.slots).foldl Trial.run { s := s.setIssue u b }
  (firstTrap (t.traps.filter (fun x => x.code == 0x01))).getD x

/-- A context that could issue in this cycle but for its next bundle (R40, R129, R203). -/
def State.mayIssue (s : State) (u : Nat) : Bool :=
  let c := s.ctx u
  s.active u && decide (c.readyAt ≤ s.cycle) && c.pend == .none && c.hdrRead.isNone

/-- The step over one bundle of a loop body with N = 0 (R125). -/
def Ctx.skipOne (c : Ctx) (l : LoopRec) (h : Header) : Ctx :=
  let pc := (c.pc + h.len) % 2 ^ 64
  let c1 := { c with pc := pc, fq := fqKeep pc c.fq }
  if h.stop then { c1 with loop := none } else { c1 with loop := some { l with met := l.met + 1 } }

/-- The plan of a context. -/
def State.plan (s : State) (u : Nat) : Plan :=
  let c := s.ctx u
  if !s.mayIssue u then .idle
  else
    match c.loop.filter (fun l => l.skip) with
    | some l =>
      match c.fetched true with
      | .wait => .idle
      | .bad t m so => .traps t c.pc m so
      | .part t b => .traps t c.pc b.hdr.smask b.hdr.solo
      | .good _ b => if loopFull c then .traps loopFullTrap c.pc b.hdr.smask b.hdr.solo else .skips (c.skipOne l b.hdr)
    | none =>
      match c.upNext with
      | .wait => .idle
      | .bad t m so => .traps t c.pc m so
      | .part t b => .traps (s.partTrap u t b) c.pc b.hdr.smask b.hdr.solo
      | .good w b => s.planBundle u w b

/-! ### The merge stage (R204, R205, R63) -/

/-- SMASK, SOLO and banks with which a ready bundle is ranked; none where the context is not ready. -/
def Plan.shape : Plan → Option (BitVec 8 × Bool × List Nat)
  | .traps _ _ m so => some (m, so, [])
  | .issues _ m so b => some (m, so, b)
  | _ => none

/-- Two ready bundles collide (R63). -/
def collide (a b : BitVec 8 × Bool × List Nat) : Bool :=
  (a.1 &&& b.1) != 0 || a.2.1 || b.2.1 || a.2.2.any (fun x => b.2.2.contains x)

/-- Rank of a context: starved ones by WAIT, then those that have not yielded, then the others; ties by number (R204). -/
def Ctx.rank (c : Ctx) : Nat × Nat :=
  if 60 ≤ c.wait then (0, 2 ^ 64 - c.wait) else if c.yielded then (2, 0) else (1, 0)

/-- `a` ranks before `b`. -/
def ranksBefore (a b : Ctx) : Bool :=
  let x := a.rank
  let y := b.rank
  decide (x.1 < y.1) || (x.1 == y.1 && (decide (x.2 < y.2) || (x.2 == y.2 && decide (a.hw ≤ b.hw))))

/-- The plan of a chosen context happens; of a bundle that traps no GAP is owed after its CRESUME (R40; DESIGN CHOICE, log 50). -/
def State.carryOut (s : State) (u : Nat) : State :=
  match s.plan u with
  | .traps t resume _ _ => s.takeTrap u t (s.ctx u).pc resume
  | .issues s' _ _ _ => s'
  | _ => s

/-- A ready context that did not issue waits (R205). -/
def State.bumpWait (s : State) (u : Nat) : State :=
  let c := s.ctx u
  s.setCtx u { c with wait := c.wait + 1 }

/-- The read of a routine block is under way; one engine access of it where its bank is free in this cycle (R185, R271). -/
def State.grantRead (s : State) (u : Nat) (m : MRead) : State :=
  let c := s.ctx u
  if s.bankFree c.core m.bank then (s.setCtx u { c with mread := some (m.grant s.mem c.core) }).useEngine c.core m.bank
  else s.setCtx u { c with mread := some m }

/-- Contexts of a core that are bound and not stopped, in order of their number. -/
def State.bound (s : State) (core : Nat) : List Nat :=
  (sortBy (fun a b => decide (a.2.hw ≤ b.2.hw)) (s.ctxs.filter (fun e => e.2.core == core && s.active e.1))).map Prod.fst

/-- The issue stage of a core in one cycle: primary, secondary, waits, skipped bundles and block reads. -/
def State.issueCore (s : State) (core : Nat) : State :=
  let plans := (s.bound core).map (fun u => (u, s.plan u))
  let ready := plans.filterMap (fun p => p.2.shape.map (fun x => (p.1, x)))
  let ranked := sortBy (fun a b => ranksBefore (s.ctx a.1) (s.ctx b.1)) ready
  let chosen : List Nat := match ranked with
    | [] => []
    | p :: rest => p.1 :: ((rest.find? (fun q => !(collide p.2 q.2))).map Prod.fst).toList
  let s1 := chosen.foldl State.carryOut s
  let s2 := (ready.filter (fun p => !(chosen.contains p.1))).foldl (fun t p => t.bumpWait p.1) s1
  plans.foldl (fun t p =>
    match p.2 with
    | .skips c => t.setCtx p.1 c
    | .blocks (some m) => t.grantRead p.1 m
    | _ => t) s2

/-- Cores that hold a context, ascending. -/
def State.liveCores (s : State) : List Nat :=
  (sortBy (fun a b => decide (a ≤ b)) (s.ctxs.map (fun e => e.2.core))).eraseDups

/-- BUNDLE_ISSUE: every core issues, in ascending order of core (R7, R204; log 6). -/
def execBundleIssue (s : State) : Out := .next { s.liveCores.foldl State.issueCore s with issued := true }

end Sys2Proof.Machine
end

