-- ==== Sys2Proof/Machine/CoreEvents.lean ====
section
/-! DEFINITION. Steps of the core that the clock brings about: FETCH_LINE_ARRIVAL (R174, R177), RESULT_WRITEBACK (R124,
R208, R212), STORE_PERFORM (R183), LATCH_UPDATE (R168), MATRIX_ROUTINE_TRAP and ROUTINE_TIME_LIMIT (R268), SPOIL_SPILL
and SPOIL_REFILL (R223), CONTACT_SHEET_REPLAY (R217), PUTQ_DELIVERY (R290); and the two free moves of the ordering
machine, COMMIT_PROPAGATE (R101) and VIEW_ADVANCE (R102). -/

namespace Sys2Proof.Machine

/-! ### Fetch (R174, R177) -/

/-- The line that fetch requests next: that of the PC, or the one after the last in the queue, while there is room. The line of address
0 comes after that of 2^64 − 256 (DESIGN CHOICE, log 53). -/
def Ctx.nextLine (c : Ctx) : Option Nat :=
  match c.fq.getLast? with
  | none => some (lineOf c.pc)
  | some l => if c.fq.length < 4 then some ((l.base + 256) % 2 ^ 64) else none

/-- A run of bytes reads as poisoned: a marked unit or a retired channel (R331, R399). -/
def State.locBad (s : State) (loc n : Nat) : Bool := s.runBad { loc := loc, n := n }

/-- The line at an address as it is fetched now: a DEVICE read through the X windows (R44, R177). -/
def State.readLine (s : State) (ws : List (BitVec 64 × BitVec 64)) (a : Nat) : FLine :=
  match windowPa ws 0 a with
  | none => { base := a, outside := true, data := 0 }
  | some pa =>
    { base := a, outside := false, data := s.readPa pa 256
      bad := match paLoc s.ncc pa with | some loc => s.locBad loc 256 | none => false }

/-- The line of context `u` may arrive: at the end of the cycle before the one from which it is bound, or later. -/
def State.fetchDue (s : State) (u : Nat) : Bool :=
  let c := s.ctx u
  decide (c.life = .running ∧ c.resumeAt ≤ s.cycle + 1 ∧ c.fetchAt ≤ s.cycle) && c.nextLine.isSome

/-- FETCH_LINE_ARRIVAL of a context. -/
def execFetchLineArrival (u : Nat) (s : State) : Out :=
  let c := s.ctx u
  match c.nextLine with
  | some a =>
    if s.fetchDue u then
      let l := s.readLine (s.kernel c.kernel).windows a
      .next (s.setCtx u { c with fq := c.fq ++ [l], fetchAt := s.cycle + 1 + s.free }).draw
    else .next s
  | none => .next s

/-! ### Results (R124, R208, R212, R213) -/

/-- Key of the order in which results of one cycle are written: issue cycle, then slot (R124). -/
def Res.before (a b : Res) : Bool := decide (a.issued < b.issued) || (a.issued == b.issued && decide (a.slot ≤ b.slot))

/-- Write a register result; S0 and M0 discard it (R120). Latch updates act elsewhere (R168). -/
def Ctx.writeRes (c : Ctx) : RVal → Ctx
  | .v n val mask _ => { c with v := mset 0 c.v n ((mget 0 c.v n &&& ~~~mask) ||| (val &&& mask)) }
  | .s n val => if n = 0 then c else { c with sr := mset 0 c.sr n.toNat val }
  | .a n val => { c with ar := mset 0 c.ar n.toNat val }
  | .m n val mask => if n = 0 then c else { c with m := mset 0 c.m n.toNat ((mget 0 c.m n.toNat &&& ~~~mask) ||| (val &&& mask)) }
  | .latch _ _ => c
  | .wid val => { c with wid := val }

/-- Flags of a result (R74). -/
def Ctx.orFlags (c : Ctx) (f : Flags) : Ctx := { c with fpstat := c.fpstat ||| f }

/-- Write one result of context `u`; a V register written whole loses its poison marks. -/
def State.land (s : State) (u : Nat) (v : RVal) (f : Flags) : State :=
  let s1 := s.setCtx u (((s.ctx u).writeRes v).orFlags f)
  match v with
  | .v n _ mask _ => if mask = BitVec.allOnes 4096 then s1.clean (vregLoc u n) 512 else s1
  | _ => s1

/-- Contact-sheet entry of a result of a stopped context (R212, R213). -/
def Res.entry (r : Res) (f : Nat) : SheetEntry :=
  { off := r.due - f, age := f - r.issued, slot := r.slot, val := r.val, flags := r.flags }

/-- One due result: written, or put into the contact sheet of a stopped context (R209, R212), each context's entries in a list of its
own (DESIGN CHOICE, log 54); EXIT has discarded those due after its cycle. -/
def State.writeBack (s : State) (r : Res) : State :=
  let c := s.ctx r.ctx
  match c.life with
  | .running | .exited => match r.val with
    | .latch k S => s.latchLand r.ctx k S
    | _ => s.land r.ctx r.val r.flags
  | .frozen | .trapped => s.setCtx r.ctx { c with sheet := c.sheet ++ [r.entry c.frozenAt] }
  | _ => s

/-- A latch update. -/
def Res.isLatch (r : Res) : Bool :=
  match r.val with
  | .latch .. => true
  | _ => false

/-- MTC writes come before the other writes at the end of a cycle, so that flags OR into what it wrote (R74). -/
def EndWrite.first : EndWrite → Bool
  | .mtc .. => true
  | _ => false

/-- The writes at the end of the cycle (R208); those of a routine whose context is saved reach its state record (R274). -/
def State.endWrites (s : State) : State :=
  let l := s.ends.filter (fun e => e.2.2.first) ++ s.ends.filter (fun e => !e.2.2.first)
  l.foldl (fun t e => (t.setCtx e.1 ((t.ctx e.1).applyEnd e.2.2)).echo e.1 e.2.2.areas) { s with ends := [] }

/-- A result, no latch update, is due. -/
def Res.due? (now : Nat) (r : Res) : Bool := decide (r.due ≤ now) && !r.isLatch

/-- RESULT_WRITEBACK: at the end of the cycle, its end-of-cycle writes and every result that is due. -/
def execResultWriteback (s : State) : Out :=
  let s1 := s.endWrites
  let due := sortBy Res.before (s1.inflight.filter (Res.due? s.cycle))
  .next (due.foldl State.writeBack { s1 with inflight := s1.inflight.filter (fun r => !(Res.due? s.cycle r)) })

/-- LATCH_UPDATE: the chunk sums that are due reach their latches, or the contact sheet (R168, R212). -/
def execLatchUpdate (s : State) : Out :=
  let isDue (r : Res) : Bool := decide (r.due ≤ s.cycle) && r.isLatch
  let due := sortBy Res.before (s.inflight.filter isDue)
  .next (due.foldl State.writeBack { s with inflight := s.inflight.filter (fun r => !(isDue r)) })

/-- Larger AGE first, then by slot (R217). -/
def SheetEntry.before (a b : SheetEntry) : Bool := decide (b.age < a.age) || (a.age == b.age && decide (a.slot ≤ b.slot))

def SheetEntry.isLatch (e : SheetEntry) : Bool :=
  match e.val with
  | .latch .. => true
  | _ => false

/-- A contact-sheet entry is due: a latch update from cycle Z + d on, other values at its end. -/
def State.sheetDue (s : State) (u : Nat) (latches : Bool) : List SheetEntry :=
  let c := s.ctx u
  if s.active u then
    sortBy SheetEntry.before (c.sheet.filter (fun e => decide (c.resumeAt + e.off ≤ s.cycle) && e.isLatch == latches))
  else []

/-- Replay the due entries of one context; their flags are ORed at the end of the cycle, after an MTC (R74, R217). -/
def State.replay (s : State) (u : Nat) (latches : Bool) : State :=
  let due := s.sheetDue u latches
  let s1 := s.setCtx u { s.ctx u with sheet := (s.ctx u).sheet.filter (fun e => !(due.contains e)) }
  let s2 := due.foldl (fun t e =>
    match e.val with
    | .latch k S => t.latchLand u k S
    | v => t.land u v 0) s1
  { s2 with ends := s2.ends ++ due.map (fun e => (u, e.slot, .flags e.flags)) }

/-- Some context has an entry to replay. -/
def State.replayDue (s : State) (latches : Bool) : Option Nat :=
  (s.ctxs.map Prod.fst).find? (fun u => !(s.sheetDue u latches).isEmpty)

/-- CONTACT_SHEET_REPLAY: the latch updates of the cycle before its issue, the rest after it (R168, R217). -/
def execContactSheetReplay (s : State) : Out :=
  match s.replayDue (!s.issued) with
  | some u => .next (s.replay u (!s.issued))
  | none => .next s

/-! ### Stores (R183) -/

/-- A whole piece clears the marks of the units it covers (R399). -/
def State.cleanPiece (s : State) (core bank : Nat) (p : Nat × Nat × Nat × Nat) : State :=
  if p.2.2.2 = 256 ^ p.2.1 - 1 then
    let n := min p.2.1 (2 ^ 18 - p.1 % 2 ^ 18)
    (s.clean (unitLoc core bank p.1) n).clean (unitLoc core bank 0) (p.2.1 - n)
  else s

/-- Banks of its core's scratchpad that a command reads. -/
def Cmd.readsBanks (c : Cmd) : List Nat :=
  match c.job with
  | .cgath ib => [ib]
  | .nmdot => [c.bank, dotBank (c.word 1).toNat]
  | .cpy false _ | .cpyt false _ | .cpair | .fsamp _ | .coll _ => [c.bank]
  | _ => []

/-- A command in flight may go on seeing what stood where a later store is performed: one of its core that had not been performed when
the command issued (R99, R183). -/
def Cmd.noteStore (mem : Memory) (x : Store) (c : Cmd) : Cmd :=
  if c.core = x.core ∧ c.stage ≠ .performed ∧ c.issued < x.due ∧ c.readsBanks.contains x.bank then
    { c with older := c.older ++ x.pieces.map (fun p => ⟨x.bank, p.1, p.2.1, readBank mem x.core x.bank p.1 p.2.1⟩) }
  else c

/-- One store is performed at its bank. -/
def State.performStore (s : State) (x : Store) : State :=
  let s1 := if s.cmds.isEmpty then s else { s with cmds := s.cmds.map (fun e => (e.1, e.2.map (Cmd.noteStore s.mem x))) }
  x.pieces.foldl (fun t p => t.cleanPiece x.core x.bank p) { s1 with mem := writePieces s.mem x.core x.bank x.pieces }

/-- STORE_PERFORM: the stores that are due, in order of issue (R183). -/
def execStorePerform (s : State) : Out :=
  let due := s.stores.filter (fun x => decide (x.due ≤ s.cycle))
  .next (due.foldl State.performStore { s with stores := s.stores.filter (fun x => !(decide (x.due ≤ s.cycle))) })

/-! ### Matrix routines (R268) -/

/-- The routine fault of a context takes its trap now: the GAP of its last bundle has elapsed, or the context was saved when
the fault came; no FENCE and no header read is pending. -/
def State.matrixTrapDue (s : State) (u : Nat) : Bool :=
  let c := s.ctx u
  match c.rfault with
  | some (_, _, _, at_) =>
    s.active u && decide (at_ < s.cycle) &&
      (decide (c.readyAt ≤ s.cycle) || decide (c.frozenAt ≤ at_ ∧ at_ < c.resumeAt)) &&
      !c.finishing
  | none => false

/-- MATRIX_ROUTINE_TRAP: the first context whose trap is due takes it (R268, R399). -/
def execMatrixRoutineTrap (s : State) : Out :=
  match (s.ctxs.map Prod.fst).find? (fun u => s.matrixTrapDue u) with
  | none => .next s
  | some u =>
    let c := s.ctx u
    match c.rfault with
    | some (code, cause, word, _) =>
      .next ((s.setCtx u { c with rfault := none }).takeTrap u
        { code := code, cause := cause, slot := 15, info := if code = 0x0D then word else 0 } c.pc c.pc)
    | none => .next s

/-- The MRUN of a routine has run out of time (R268). -/
def Routine.late (r : Routine) (now : Nat) : Bool := decide (r.issued + 16385 ≤ now)

/-- The first core whose routine is late. -/
def State.lateCore (s : State) : Option Nat :=
  (s.cores.find? (fun e => match e.2.routine with | some r => r.late s.cycle | none => false)).map Prod.fst

/-- ROUTINE_TIME_LIMIT: the routine faults with cause 0x06 at the last word that acted (R268). -/
def execRoutineTimeLimit (s : State) : Out :=
  match s.lateCore with
  | none => .next s
  | some k =>
    match (s.core k).routine with
    | some r => .next (s.routineFault k 0x06 r.last)
    | none => .next s

/-! ### Spill and refill (R223) -/

/-- Which move the stack asks for: spill above 49,152 bytes of top, refill below 16,384, whatever the depth (R223; DESIGN CHOICE,
log 49). -/
def Spoil.wants (p : Spoil) : Option Bool :=
  if 49152 < p.held ∧ p.spill < p.area then some true
  else if p.held < 16384 ∧ 0 < p.spill then some false
  else none

/-- Note from which cycle the move may be granted: the one after its condition begins to hold. -/
def Spoil.arm (p : Spoil) (now : Nat) : Spoil :=
  match p.wants with
  | none => { p with move := none }
  | some k => if p.move.map Prod.fst = some k then p else { p with move := some (k, now + 1) }

/-- Bytes a spill moves: at most 512, within the area, none of a frame whose payload is still to come. -/
def Spoil.spillBytes (p : Spoil) : Nat :=
  let lim := p.pay.foldl (fun m x => min m x.pos) p.depth
  min 512 (min (p.area - p.spill) (lim - p.spill))

/-- Bytes a refill moves. -/
def Spoil.refillBytes (p : Spoil) : Nat := min 512 p.spill

/-- The move is granted in this cycle: its condition held before, and the spoil bank makes no scheduled access and no
other move (R185). -/
def State.moveDue (s : State) (kind : Bool) (u : Nat) : Bool :=
  let c := s.ctx u
  match c.sp.move with
  | some (k, from_) =>
    k == kind && c.sp.wants == some kind && s.active u && decide (from_ ≤ s.cycle) &&
      decide (0 < (if kind then c.sp.spillBytes else c.sp.refillBytes)) &&
      s.bankFree c.core c.sp.bank
  | none => false

/-- The first context whose move is granted. -/
def State.moveNext (s : State) (kind : Bool) : Option Nat := (s.ctxs.map Prod.fst).find? (fun u => s.moveDue kind u)

/-- SPOIL_SPILL. -/
def execSpoilSpill (s : State) : Out :=
  match s.moveNext true with
  | none => .next s
  | some u =>
    let c := s.ctx u
    let n := c.sp.spillBytes
    let s1 := { s with mem := writeBank s.mem c.core c.sp.bank (512 * c.sp.base + c.sp.spill) n (c.sp.top % 256 ^ n) (256 ^ n - 1) }
    .next ((s1.setCtx u { c with sp := { c.sp with spill := c.sp.spill + n, top := c.sp.top / 256 ^ n } }).useEngine c.core c.sp.bank)

/-- SPOIL_REFILL: it returns whatever bytes the area holds (R225). -/
def execSpoilRefill (s : State) : Out :=
  match s.moveNext false with
  | none => .next s
  | some u =>
    let c := s.ctx u
    let n := c.sp.refillBytes
    let v := readBank s.mem c.core c.sp.bank (512 * c.sp.base + (c.sp.spill - n)) n
    .next ((s.setCtx u { c with sp := { c.sp with spill := c.sp.spill - n, top := c.sp.top * 256 ^ n + v } }).useEngine c.core c.sp.bank)

/-! ### PUTQ deliveries (R290, R291) -/

/-- The delivery may be performed: it is due, the first of its handle, and the target's bank is free in this cycle. -/
def State.putqDue (s : State) (p : Putq) : Bool :=
  let c := s.ctx p.target
  let b := (c.qh p.q).bank
  decide (p.due ≤ s.cycle) && !(s.putqs.any (fun x => decide (x.id < p.id ∧ x.target = p.target ∧ x.q = p.q))) &&
    s.bankFree c.core b

/-- PUTQ_DELIVERY: the 512 bytes are performed in the target's ring slot; TAIL, FILL and INFL move (R290). -/
def execPutqDelivery (id : Nat) (s : State) : Out :=
  match s.putqs.find? (fun p => p.id == id) with
  | none => .next s
  | some p =>
    if s.putqDue p then
      let c := s.ctx p.target
      let h := c.qh p.q
      let h' := { h with tail := (h.tail + 1) % h.count, fill := h.fill + 1, infl := h.infl - 1 }
      let s1 := (s.setCtx p.target (c.setQh p.q h')).useEngine c.core h.bank
      let s2 := s1.writePad c.core h.bank (64 * h.base + 64 * h.size * h.tail) 512 p.data.toNat false
      .next { s2 with putqs := s2.putqs.filter (fun x => x.id != id) }
    else .next s

/-! ### Free moves of the ordering machine (R101, R102) -/

/-- COMMIT_PROPAGATE of a commit point; the system commit point has no wider one. Number 132 stands for the other devices' parties:
a write of theirs that has arrived joins the system commit point (R410, R412, log 21). -/
def execCommitPropagate (d : Nat) (s : State) : Out :=
  .next (if d < 131 then s.propagate d else if d = 132 then s.joinInbound else s)

/-- A view moved to position `pos` of the scope's commit point, no farther than its end and never back (R102). -/
def State.advanceView (s : State) (core : Nat) (v : View) (sc : Scope) (pos : Nat) : View :=
  match scopeLevel sc with
  | some L => v.raise L (min pos (s.order (domainOf core L)).length)
  | none => v

/-- VIEW_ADVANCE of a context or of a command in flight. -/
def execViewAdvance (p : Party) (sc : Scope) (pos : Nat) (s : State) : Out :=
  match p with
  | .ctx u =>
    let c := s.ctx u
    .next (if c.life = .unbound then s else s.setCtx u { c with view := s.advanceView c.core c.view sc pos })
  | .cmd id =>
    match s.cmd? id with
    | some c => .next (s.setCmd { c with view := s.advanceView c.core c.view sc pos })
    | none => .next s

end Sys2Proof.Machine
end

