-- ==== Sys2Proof/Machine/Preempt.lean ====
section
/-! DEFINITION. Pre-emption: PREEMPT_REQUEST and CONTEXT_FREEZE (R211, R116), RESOURCE_RELEASE (R214 to R216, R245, R295) with
the save slot and the state record (Record.lean), and CONTEXT_RESUME (R217, R295, R296), which restores from them (log 10). -/

namespace Sys2Proof.Machine

/-! ### Freezing (R211) -/

/-- A context stopped, and its hardware context not yet released. -/
def Ctx.leaving (c : Ctx) : Bool := (c.life == .frozen || c.life == .trapped) && !c.released && !c.lost

/-- The core freezes no other context at this time (R211). -/
def State.freezeFree (s : State) (u : Nat) : Bool :=
  let core := (s.ctx u).core
  s.ctxs.all (fun e => e.1 == u || e.2.core != core ||
    !((e.2.life == .frozen && e.2.leaving) || (e.2.life == .running && e.2.pre != .none)))

/-- A freeze asked for in cycle q (R211): at q + 1, or after the routine and the bundle that follows it. -/
def State.requestFreeze (s : State) (u : Nat) : State :=
  let c := s.ctx u
  s.setCtx u { c with pre := if s.runsRoutine u then .afterRoutine else .at_ (s.cycle + 1) }

/-- PREEMPT_REQUEST for a context. -/
def execPreemptRequest (u : Nat) (s : State) : Out :=
  .next (if s.active u && (s.ctx u).pre == .none && s.freezeFree u then s.requestFreeze u else s)

/-- The context freezes at the start of this cycle: no FENCE and no header read is pending, which an ABORT does not wait for
(R116, R211, R383). -/
def State.freezeDue (s : State) (u : Nat) : Bool :=
  let c := s.ctx u
  s.active u && !s.issued &&
    (match c.pre with | .at_ f => decide (f ≤ s.cycle) | _ => false) &&
    (c.doomed || !c.finishing)

/-- An ABORT ends the context now: it would freeze, or it has stopped meanwhile (R383). -/
def State.doomDue (s : State) (u : Nat) : Bool :=
  let c := s.ctx u
  c.doomed && (s.freezeDue u || c.life == .frozen || c.life == .trapped)

/-- The context stops at F, this cycle (R207, R211, R217). -/
def State.freeze (s : State) (u : Nat) : State :=
  let c := s.ctx u
  s.draw.setCtx u { c with
    life := .frozen, frozenAt := s.cycle, pre := .none, mread := none, gapLeft := c.readyAt - s.cycle, fq := [], yielded := false
    loop := c.loop.map (fun l => { l with buf := [] })
    sheet := c.resheet s.cycle, released := false, releaseAt := s.releaseTime s.cycle }

/-! ### The save slot (R214, R389) -/

/-- The slot's bytes go to the eviction buffer, 4 KiB at a time; accesses to the slot's places are served as before. They stand in it
at their offset in the die scratchpad (DESIGN CHOICE, log 54). -/
def State.evictSlot (s : State) (core : Nat) : State :=
  match s.evictBase (coreDie core) with
  | none => s
  | some pa =>
    let o := 2 ^ 20 * (core % 256)
    State.writePaLong 257 s (pa + o) (2 ^ 20) (s.readSysBlock (dieLoc (coreDie core) o) (2 ^ 20))

/-- V registers of a context move out of a save slot into its state record's vector area (R214). -/
def State.slotToRecord (s : State) (w : Nat) (v : Map (BitVec 4096)) : State :=
  s.writeAreas (s.recordPa w) [(0x40000, 2 ^ 20, vectorBytes v)]

/-- The V registers of context `u` take the save slot of its core; those of another context that hold it move to that
context's state record first (R214). -/
def State.takeSlot (s : State) (u : Nat) : State :=
  let core := (s.ctx u).core
  let s1 := match mget none s.evicted core with
    | some (w, v) => s.slotToRecord w v
    | none => s.evictSlot core
  { s1 with evicted := mset none s1.evicted core (some (u, (s.ctx u).v)) }

/-- The V registers of a saved context: those in the save slot of its core, else those in its state record (R214). -/
def State.savedV (s : State) (u : Nat) : Map (BitVec 4096) :=
  match mget none s.evicted (s.ctx u).core with
  | some (w, v) => if w = u then v else vectorsOf (s.recordBytes u 0x40000 (2 ^ 20))
  | none => vectorsOf (s.recordBytes u 0x40000 (2 ^ 20))

/-- The slot goes back, where it holds the registers of `u` (R214). -/
def State.returnSlot (s : State) (u core : Nat) : State :=
  if (mget none s.evicted core).map Prod.fst = some u then { s with evicted := mset none s.evicted core none } else s

/-! ### CONTEXT_FREEZE (R211, R383) -/

/-- Stop a context and discard its state; its pending writes, its tags and what a routine still needs stay (R383). A trap whose save
is not over is reported all the same (R145). -/
def State.abortCtx (s0 : State) (u : Nat) : State :=
  let c := s0.ctx u
  let s := if c.life = .trapped ∧ !c.released ∧ !c.lost then s0.reportTrap u else s0
  let k := coreCluster c.core
  let cl := s.cluster k
  let s1 := s.setCluster k { cl with streams := cl.streams.filter (fun e => e.2.ctx != u) }
  let x : Ctx := {
    life := .exited, core := c.core, hw := c.hw, kernel := c.kernel, worker := c.worker, kctx := c.kctx
    tagPend := c.tagPend, tagSet := c.tagSet, tagRec := c.tagRec, tagView := c.tagView, cmdView := c.cmdView, lent := c.lent, v := c.v
    mp := c.mp, mstat := c.mstat, t := c.t, q := c.q, born := c.born, outbox := c.outbox, view := c.view }
  let s2 := (s1.returnSlot u c.core).setCtx u x
  { s2 with inflight := s2.inflight.filter (fun r => r.ctx != u) }

/-- An ABORT reaches a context: one that runs ends at the next bundle boundary, whatever it waits for, and a routine that it started
runs on (R274, R383); a stopped one ends now. -/
def State.doom (s : State) (u : Nat) : State :=
  let c := s.ctx u
  match c.life with
  | .running => s.setCtx u { c with pre := .at_ (s.cycle + 1), doomed := true }
  | .frozen | .trapped => s.abortCtx u
  | _ => s

/-- CONTEXT_FREEZE of a context; an ABORT ends it there (R383). -/
def execContextFreeze (u : Nat) (s : State) : Out :=
  .next (if s.doomDue u then s.abortCtx u else if s.freezeDue u then s.freeze u else s)

/-! ### Release (R216, R295) -/

/-- The resources of a stopped context may be released: its drain and its save are over (R216). A routine that it started
runs on (R274). -/
def State.releaseDue (s : State) (u : Nat) : Bool :=
  let c := s.ctx u
  c.leaving && decide (c.releaseAt ≤ s.cycle) && decide (c.frozenAt + 12 ≤ s.cycle)

/-- An OPEN stream entry of context `u` is on a tile. -/
def State.hasStreams (s : State) (u : Nat) : Bool :=
  (List.range 8).any (fun e =>
    let x := s.sentry (s.ctx u).core e
    decide (x.state = .opened ∧ x.ctx = u) && !x.away)

/-- The OPEN stream entries of a saved context go to their areas now: its routine has reached its END (R295). -/
def State.streamsDue (s : State) (u : Nat) : Bool :=
  let c := s.ctx u
  (c.life == .frozen || c.life == .trapped) && c.released && !c.lost && !(s.runsRoutine u) && s.hasStreams u

/-- RESOURCE_RELEASE of a frozen or trapped context: its registers and its record are written, and after them the trap record of one
that trapped (R145); its hardware context is free, and its OPEN stream entries are saved once no routine of it runs. -/
def execResourceRelease (u : Nat) (s : State) : Out :=
  if s.releaseDue u then
    let s1 := (if s.runsRoutine u then s else s.streamsAway u).takeSlot u
    let s2 := s1.writeAreas (s1.recordPa u) (s1.recordAreas u)
    let s3 := if (s.ctx u).life = .trapped then s2.reportTrap u else s2
    .next (s3.setCtx u { s3.ctx u with released := true })
  else .next (if s.streamsDue u then s.streamsAway u else s)

/-! ### Resume (R217) -/

/-- The hardware context `h` of a core is free. -/
def State.hwFree (s : State) (core h : Nat) : Bool :=
  !(s.ctxs.any (fun e => e.2.core == core && e.2.hw == h && s.occupies e.1))

/-- A stopped context can be bound again on its core: saved, its hardware context, its streams' tiles and its bench free. -/
def State.canResume (s : State) (u : Nat) : Bool :=
  let c := s.ctx u
  c.released && !c.lost && s.hwFree c.core c.hw && s.streamsFit u c.core && !(s.hasStreams u) &&
    (s.bench (coreDie c.core) (coreBench c.core)).powered && !(s.bench (coreDie c.core) (coreBench c.core)).retired

/-- The Acquire of a barrier that completed while its context was saved (R296). -/
def State.barBack (s : State) (u : Nat) : State :=
  match (s.ctx u).pend with
  | .bar sc _ true =>
    let s1 := if sc = .cluster then s.acquireCtx u .cluster else s
    s1.setCtx u { s1.ctx u with pend := .none }
  | _ => s

/-- The command processor restores a context: its registers from the save slot or the vector area, the rest from its state
record (R217). -/
def State.restore (s : State) (u : Nat) : State :=
  s.setCtx u { (s.ctx u).restored (s.recordBytes u) with v := s.savedV u }

/-- RESUME of a context's trap record, as it stands in memory (R145). -/
def State.trapResume (s : State) (u : Nat) : Nat :=
  let c := s.ctx u
  State.readPaLong 2 s ((s.kernel c.kernel).trapArea + 32 * c.worker + 16) 8

/-- Restore a saved context and bind it again from cycle `z`: a frozen one at the PC of its record, one that trapped at its
RESUME (R217, R384). -/
def State.resume (s : State) (u z : Nat) : State :=
  let core := (s.ctx u).core
  let trapped := (s.ctx u).life == .trapped
  let s1 := s.restore u
  let pc := if trapped then s.trapResume u else (s1.ctx u).pc
  (((s1.streamsBack u core).returnSlot u core).barBack u).rebind u z pc

/-- CONTEXT_RESUME of a frozen context from cycle Z. -/
def execContextResume (u z : Nat) (s : State) : Out :=
  .next (if (s.ctx u).life = .frozen ∧ s.canResume u ∧ s.cycle < z then s.resume u z else s)

end Sys2Proof.Machine
end

