-- ==== Sys2Proof/Machine/Bench.lean ====
section
/-! DEFINITION. Benches: BENCH_FAILURE (R299, R399), BENCH_THROTTLE and THROTTLE_RELEASE (R401), BENCH_POWER_ON and
BENCH_POWER_OFF with compaction (R325, R326). -/

namespace Sys2Proof.Machine

/-! ### Failure (R299) -/

/-- Cores of a bench, ascending. -/
def benchCores (d b : Nat) : List Nat := (List.range 64).map (fun g => 256 * d + 64 * b + g)

/-- A core of the bench. -/
def onBench (d b core : Nat) : Bool := coreDie core == d && coreBench core == b

/-- A context of the failed bench: its trap record, which no save precedes (R145), says that nothing can be resumed, and what it
held is lost; its tags, its pending writes and its views stay (R299). -/
def State.loseContext (s : State) (u : Nat) : State :=
  let c := s.ctx u
  let s1 := s.takeTrap u { code := 0x0A, cause := 0x04, slot := 15 } (2 ^ 64 - 1) (2 ^ 64 - 1)
  let t := s1.ctx u
  let s2 := s1.setCtx u {
    life := .trapped, core := c.core, hw := c.hw, kernel := c.kernel, worker := c.worker, kctx := c.kctx, q := c.q
    tagPend := c.tagPend, tagSet := c.tagSet, tagRec := c.tagRec, tagView := c.tagView, cmdView := c.cmdView, born := c.born
    outbox := c.outbox, view := c.view, lost := true, frozenAt := t.frozenAt, trap := t.trap, trapPc := t.trapPc
    resumePc := t.resumePc }
  s2.reportTrap u

/-- The routines of a failed bench: one that runs on it or has a dealt position on it stops; the latter faults with cause
0x13, where its own bench lives (R299). -/
def State.failRoutine (s : State) (d b core : Nat) : State :=
  match (s.core core).routine with
  | none => s
  | some r =>
    if onBench d b core then s.routineGone core r
    else if r.fold ∧ coreDie core = d ∧ r.live.contains b then s.routineFault core 0x13 r.last
    else s

/-- Stream entries homed on the bench are closed; an owner elsewhere takes the machine check with cause 0x05. -/
def State.failStreams (s : State) (d b k : Nat) : State :=
  let cl := s.cluster k
  let hit (x : SEntry) : Bool := k / 64 == d && x.bench == b && x.state != .closed
  let owners := (cl.streams.filter (fun e => hit e.2)).map (fun e => e.2.ctx)
  let s1 := s.setCluster k { cl with streams := cl.streams.filter (fun e => !(hit e.2)) }
  owners.foldl (fun t u =>
    let c := t.ctx u
    if c.life = .exited ∨ onBench d b c.core then t
    else t.setCtx u { c with rfault := some (0x0A, 0x05, 0, t.cycle) }) s1

/-- A bench is retired (R299, R400). -/
def State.failBench (s : State) (d b : Nat) : State :=
  let s1 := (s.cores.map Prod.fst).foldl (fun t k => t.failRoutine d b k) s
  let s2 := (s1.clusters.map Prod.fst).foldl (fun t k => t.failStreams d b k) s1
  let gone := (s2.ctxs.filter (fun e => onBench d b e.2.core && !(e.2.life == .exited || e.2.life == .unbound || e.2.lost))).map Prod.fst
  let s3 := gone.foldl State.loseContext s2
  let s4 := { s3 with inflight := s3.inflight.filter (fun r => !(gone.contains r.ctx)) }
  let s5 := s4.setBench d b { s4.bench d b with retired := true }
  { s5 with reports := s5.reports ++ [.retired (.bench d b)] }

/-- BENCH_FAILURE of bench `b` of die `d`; the device has two dies of four benches. -/
def execBenchFailure (d b : Nat) (s : State) : Out :=
  .next (if d < 2 ∧ b < 4 ∧ !(s.bench d b).retired then s.failBench d b else s)

/-! ### Throttling (R401) -/

/-- BENCH_THROTTLE: the highest-numbered live bench of its die. -/
def execBenchThrottle (d b : Nat) (s : State) : Out :=
  let top := (s.bench d b).live && (List.range 4).all (fun x => decide (x ≤ b) || !(s.bench d x).live)
  .next (if d < 2 ∧ b < 4 ∧ top then s.setBench d b { s.bench d b with throttled := true } else s)

/-- THROTTLE_RELEASE. -/
def execThrottleRelease (d b : Nat) (s : State) : Out :=
  .next (if d < 2 ∧ b < 4 then s.setBench d b { s.bench d b with throttled := false } else s)

/-! ### Power (R325, R326) -/

/-- The lowest bench of a die, not retired, that is off. -/
def State.nextOff (s : State) (d : Nat) : Option Nat :=
  (List.range 4).find? (fun b => !(s.bench d b).powered && !(s.bench d b).retired)

/-- BENCH_POWER_ON: benches are counted upward from bench 0. -/
def execBenchPowerOn (d b : Nat) (s : State) : Out :=
  .next (if d < 2 ∧ s.nextOff d = some b then s.setBench d b { s.bench d b with powered := true } else s)

/-- Kernels not yet complete that own banks of a core, or have contexts on it. -/
def State.kernelsOn (s : State) (core : Nat) : List (Nat × Kernel) :=
  s.kernels.filter (fun e => e.2.alive && e.2.cores.contains core)

/-- Contexts of a core that hold state: bound, or saved. -/
def State.residents (s : State) (core : Nat) : List (Nat × Ctx) :=
  sortBy (fun a b => decide (a.2.hw ≤ b.2.hw)) (s.ctxs.filter (fun e =>
    e.2.core == core && (s.occupies e.1 || ((e.2.life == .frozen || e.2.life == .trapped) && !e.2.lost))))

/-- A saved context that can move: no command of it is in flight (R326). -/
def State.movable (s : State) (u : Nat) : Bool :=
  let c := s.ctx u
  c.life == .frozen && c.released && !(s.cmdList.any (fun x => x.ctx == u))

/-- No delivery to the context is in flight (R291). -/
def Ctx.still (c : Ctx) : Bool := c.q.all (fun h => h.2.infl == 0)

/-- Bank numbers owned on a core. -/
def State.ownedBanks (s : State) (core : Nat) : Nat := (s.kernelsOn core).foldl (fun m e => m ||| e.2.banks) 0

/-- Frame slots that a table gives to a bench. -/
def Kernel.slotsOf (k : Kernel) (b : Nat) : Nat :=
  (List.range 16).foldl (fun m i => if k.slotOwner i = b then m + 2 ^ i else m) 0

/-- Frame slots of a cluster that kernels other than `kn` use (R319). -/
def State.usedSlots (s : State) (cluster : Nat) (kn : Option Nat) : Nat :=
  (s.kernels.filter (fun e => e.2.alive && some e.1 != kn)).foldl (fun m e =>
    (clusterCores cluster).foldl (fun n c => if e.2.cores.contains c then n ||| e.2.slotsOf (coreBench c) else n) m) 0

/-- Free hardware contexts of a core, ascending. -/
def State.freeHw (s : State) (core : Nat) : List Nat := (List.range 4).filter (fun h => s.hwFree core h)

/-- Core `c` can take what core `old` holds (R326). -/
def State.canTake (s : State) (old c : Nat) : Bool :=
  let b := s.bench (coreDie c) (coreBench c)
  b.powered && !b.retired && (s.ownedBanks old &&& s.ownedBanks c) == 0 &&
    decide ((s.residents old).length ≤ (s.freeHw c).length) &&
    (s.kernelsOn old).all (fun e => !e.2.slv || (e.2.slotsOf (coreBench c) &&& s.usedSlots (coreCluster c) (some e.1)) == 0)

/-- The core that takes it: on the lowest bench below (R326). -/
def State.refuge (s : State) (old : Nat) : Option Nat :=
  ((List.range (coreBench old)).map (clusterCore (coreCluster old))).find? (fun c => s.canTake old c)

/-- Copy a bank to another core: bytes and poison marks. -/
def State.copyBank (s : State) (old new bank : Nat) : State :=
  let lo := unitLoc old bank 0
  let dst := unitLoc new bank 0
  let inside (a : Nat) : Bool := decide (lo ≤ a ∧ a < lo + 2 ^ 18)
  let kept := s.mem.filter (fun e => !(decide (dst ≤ e.1 ∧ e.1 < dst + 2 ^ 18)))
  let keptBad := s.poison.filter (fun p => !(decide (dst ≤ 64 * p ∧ 64 * p < dst + 2 ^ 18)))
  { s with
    mem := (s.mem.filter (fun e => inside e.1)).foldl (fun m e => writeByte m (e.1 - lo + dst) e.2) kept
    poison := keptBad ++ (s.poison.filter (fun p => inside (64 * p))).map (fun p => p - lo / 64 + dst / 64) }

/-- A relocation record of a kernel's contexts and banks (R326). -/
def relocRecord (kn : Kernel) (old new : Nat) (maps : List (Nat × Nat)) : Nat × Nat :=
  (maps.foldl (fun w m => w + m.2 * 2 ^ (31 + 2 * m.1)) (old + new * 2 ^ 10 + kn.asid % 2 ^ 11 * 2 ^ 20),
    (List.range 16).foldl (fun w j => w + (if kn.banks.testBit j then j else 0xF) * 2 ^ (4 * j)) 0)

/-- Move a saved context to hardware context `h` of another core: its vector registers go to its record (R214, R326). -/
def State.moveContext (s : State) (u new h : Nat) : State :=
  let c := s.ctx u
  let s1 := match mget none s.evicted c.core with
    | some (w, v) => if w = u then s.slotToRecord u v else s
    | none => s
  (s1.returnSlot u c.core).setCtx u { c with core := new, hw := h, moving := false }

/-- Move everything a core holds (R326). -/
def State.moveCore (s : State) (old new : Nat) : State :=
  let who := (s.residents old).zip (s.freeHw new)
  let banks := (List.range 16).filter (fun j => (s.ownedBanks old).testBit j)
  let owners := s.kernelsOn old
  let s1 := banks.foldl (fun t j => t.copyBank old new j) s
  let s2 := who.foldl (fun t p => t.moveContext p.1.1 new p.2) s1
  owners.foldl (fun t e =>
    let maps := (who.filter (fun p => p.1.2.kernel == e.1)).map (fun p => (p.1.2.hw, p.2))
    let t1 := t.setKernel e.1 { e.2 with cores := e.2.cores.map (fun c => if c = old then new else c) }
    { t1 with reloc := t1.reloc ++ [relocRecord e.2 old new maps] }) s2

/-- What a core holds leaves it, or cannot. -/
def State.emptyCore (s : State) (old : Nat) : Option State :=
  let who := s.residents old
  if who.isEmpty ∧ (s.kernelsOn old).isEmpty then some s
  else if who.isEmpty ∨ !(who.all (fun e => s.movable e.1)) then none
  else (s.refuge old).map (fun new => s.moveCore old new)

/-- Every core of a list is emptied, or the bench stays on (R325, R326). -/
def State.emptyCores (s : State) : List Nat → Option State
  | [] => some s
  | c :: l => (s.emptyCore c).bind (fun t => t.emptyCores l)

/-- Contexts of a bench that hold state. -/
def State.benchCtxs (s : State) (d b : Nat) : List Nat := (benchCores d b).flatMap (fun c => (s.residents c).map Prod.fst)

/-- Deliveries to some of them are in flight. -/
def State.fed (s : State) (d b : Nat) : Bool := (s.benchCtxs d b).any (fun u => !(s.ctx u).still)

/-- New PUTQs to the contexts that are to move are held blocked (R291). -/
def State.holdPutqs (s : State) (d b : Nat) : State :=
  (s.benchCtxs d b).foldl (fun t u => t.setCtx u { t.ctx u with moving := true }) s

/-- The highest powered bench of a die. -/
def State.topBench (s : State) (d b : Nat) : Bool :=
  (s.bench d b).powered && (List.range 4).all (fun x => decide (x ≤ b) || !(s.bench d x).powered)

/-- BENCH_POWER_OFF: the highest powered bench of its die, once compaction has emptied it; what must move waits until nothing is
on its way to it. -/
def execBenchPowerOff (d b : Nat) (s : State) : Out :=
  if d < 2 ∧ b < 4 ∧ s.topBench d b then
    match s.emptyCores (benchCores d b) with
    | some t => .next (if s.fed d b then s.holdPutqs d b else t.setBench d b { t.bench d b with powered := false })
    | none => .next s
  else .next s

/-- BENCH_POWER_OFF does something: the bench can be emptied, and deliveries to it are not merely being waited for (R291, R325). -/
def State.offDue (s : State) (d b : Nat) : Bool :=
  s.topBench d b && (s.emptyCores (benchCores d b)).isSome &&
    !(s.fed d b && (s.benchCtxs d b).all (fun u => (s.ctx u).moving))

end Sys2Proof.Machine
end

