-- ==== Sys2Proof/Machine/Queue.lean ====
section
/-! DEFINITION. The hardware queues (R379, R380, R382): registers and rings, the completion record, and the consumption of
commands in order of SEQ with those that are turned away. -/

namespace Sys2Proof.Machine

/-! ### The command processor's queues (R379, R380, R382) -/

def State.hq (s : State) (q : Nat) : HwQueue := mget {} s.hqs q

def State.setHq (s : State) (q : Nat) (v : HwQueue) : State := { s with hqs := mset {} s.hqs q v }

/-- QCFG fields. -/
def HwQueue.en (h : HwQueue) : Bool := h.cfg.getLsbD 0
def HwQueue.prio (h : HwQueue) : Nat := h.cfg.toNat / 2 ^ 8 % 8
/-- Slots of the ring. -/
def HwQueue.slots (h : HwQueue) : Nat := 2 ^ (h.cfg.toNat / 2 ^ 16 % 16 + 4)

/-- Location of byte `off` of a ring register's ring: host memory or device memory (R379). -/
def State.ringLoc (s : State) (r : BitVec 64) (off : Nat) : Option Nat :=
  let a := r.toNat / 2 ^ 6 % 2 ^ 46 * 64 + off
  if r.getLsbD 63 then some (hostLoc a) else paLoc s.ncc a

/-- Move LCOMP over the SEQs that are complete; `fuel` bounds them. -/
def HwQueue.settle : Nat → HwQueue → HwQueue
  | 0, h => h
  | k + 1, h =>
    let n := (h.lcomp + 1) % 2 ^ 32
    if h.done.contains n then HwQueue.settle k { h with lcomp := n, done := h.done.filter (fun x => x != n) } else h

/-- A command completes: its record goes to the completion ring, then LCOMP moves (R382). -/
def State.complete (s : State) (q seq op status detail : Nat) : State :=
  let h := s.hq q
  let v := (seq % 2 ^ 32 * 2 ^ 32 + status * 2 ^ 8 + op) + detail % 2 ^ 64 * 2 ^ 64
  let s1 := match s.ringLoc h.comp (16 * (seq % h.slots)) with
    | some loc => s.writeSys loc 16 v
    | none => s
  s1.setHq q (HwQueue.settle (h.done.length + 1) { h with done := h.done ++ [seq % 2 ^ 32] })

/-! ### Taking a command (R380, R381) -/

/-- The firmware runs and the queue is served (R379, R395). -/
def State.served (s : State) (q : Nat) : Bool := decide (q < 64) && s.boot == .running && (s.hq q).en

/-- The SEQ after the last command consumed. -/
def HwQueue.next (h : HwQueue) : Nat := (h.lcons + 1) % 2 ^ 32

/-- `n` precedes or equals TAIL (R379). -/
def HwQueue.given (h : HwQueue) (n : Nat) : Bool := decide ((h.tail + 2 ^ 32 - n) % 2 ^ 32 < 2 ^ 31)

/-- The eight words of the slot of a SEQ. -/
def State.slotWords (s : State) (q n : Nat) : List Nat :=
  let h := s.hq q
  (List.range 8).map (fun i =>
    match s.ringLoc h.ring (64 * (n % h.slots) + 8 * i) with
    | some loc => s.readSysRun loc 8
    | none => 0)

/-- Word `i` of a command. -/
def cword (ws : List Nat) (i : Nat) : Nat := (ws[i]?).getD 0

/-- SEQ, BARRIER and OP of word 0. -/
def cSeq (ws : List Nat) : Nat := cword ws 0 / 2 ^ 32
def cBarrier (ws : List Nat) : Bool := (cword ws 0).testBit 16
def cOp (ws : List Nat) : Nat := cword ws 0 % 2 ^ 8

/-- Word 0 has no other bit set, and its OP is assigned. -/
def wordOk (ws : List Nat) : Bool :=
  cword ws 0 / 2 ^ 8 % 2 ^ 8 == 0 && cword ws 0 / 2 ^ 17 % 2 ^ 15 == 0 && decide (1 ≤ cOp ws ∧ cOp ws ≤ 13)

/-- Words from `i` on are zero. -/
def zeroFrom (ws : List Nat) (i : Nat) : Bool := (ws.drop i).all (fun w => w == 0)

/-- Every earlier command of the queue has completed. -/
def HwQueue.clear (h : HwQueue) : Bool := h.lcomp == h.lcons && h.launch.isNone && h.held == .none

/-- Every earlier command has completed, and no child launch of the queue waits: children come before its next command (R322). -/
def State.noChild (s : State) (q : Nat) : Bool := !(s.pool.any (fun c => (s.kernel c.parent).queue == q))
def State.clearQ (s : State) (q : Nat) : Bool := (s.hq q).clear && s.noChild q

/-- The next command, where the host has made one available. -/
def State.pending (s : State) (q : Nat) : Option (List Nat) :=
  let h := s.hq q
  if s.served q && h.given h.next then some (s.slotWords q h.next) else none

/-- A command that is turned away as it is consumed: its STATUS (R380, R381). -/
def badStatus (n : Nat) (ws : List Nat) : Option Nat :=
  if cSeq ws ≠ n then some 0x02 else if wordOk ws then none else some 0x01

/-- Pass what was taken ahead of its turn, and complete what is turned away (R380); `fuel` bounds them. -/
def State.settleQueue : Nat → State → Nat → State
  | 0, s, _ => s
  | k + 1, s, q =>
    let h := s.hq q
    if h.early.contains h.next then
      State.settleQueue k (s.setHq q { h with lcons := h.next, early := h.early.filter (fun x => x != h.next) }) q
    else
      match s.pending q with
      | none => s
      | some ws =>
        match badStatus h.next ws with
        | none => s
        | some st =>
          if s.clearQ q then
            let h1 := { h with lcons := h.next, cfg := if st = 0x02 then h.cfg &&& ~~~1#64 else h.cfg }
            State.settleQueue k ((s.setHq q h1).complete q h.next (cOp ws) st 0) q
          else s

/-- Slots of the longest ring. -/
def ringMax : Nat := 2 ^ 19

/-- A command completes, and the queue goes on. -/
def State.conclude (s : State) (q seq op status detail : Nat) : State :=
  State.settleQueue ringMax (s.complete q seq op status detail) q

end Sys2Proof.Machine
end

