-- ==== Sys2Proof/Machine/Admission.lean ====
section
/-! DEFINITION. Launches: the header and its image list (R317, R318, R176, R35), KERNEL_ADMISSION (R113, R180, R319 to R322),
ADMISSION_HOLD (R319), GRID_COMPLETION (R114, R382) and PRIORITY_PREEMPTION (R388). Ranges and shares go to the lowest place
that fits (log 9). -/

namespace Sys2Proof.Machine

/-! ### Launch headers (R317, R318) -/

/-- Word `i` of a header. -/
def hword (ws : List Nat) (i : Nat) : Nat := (ws[i]?).getD 0

/-- A field of a header word. -/
def hfield (ws : List Nat) (i lo n : Nat) : Nat := hword ws i / 2 ^ lo % 2 ^ n

/-- A header at a physical address: 20 words. -/
def State.readHeader (s : State) (pa : Nat) : List Nat := (List.range 20).map (fun i => s.readPa (pa + 8 * i) 8)

/-- A header at a virtual address of an address space, where every word's page is present and lies in the device. -/
def State.readHeaderVa (s : State) (asid va : Nat) : Option (List Nat) :=
  (List.range 20).mapM (fun i =>
    let a := va + 8 * i
    match s.walk asid a with
    | .leaf e base _ => if pteHost e then none else (leafLoc s.ncc e base a).map (fun loc => s.readSysRun loc 8)
    | _ => none)

def hNf (ws : List Nat) : Nat := hfield ws 1 36 3
def hNest (ws : List Nat) : List Nat := (List.range (hNf ws)).map (fun k => hfield ws 1 (39 + 3 * k) 3)
/-- Width and extent of each field. -/
def hWork (ws : List Nat) : List (Nat × Nat) := (List.range (hNf ws)).map (fun k => (hfield ws 1 (6 * k) 6 + 1, hword ws (2 + k) + 1))
def hAsid (ws : List Nat) : Nat := hfield ws 8 33 11
def hExpr (ws : List Nat) : Nat := hfield ws 8 27 6
def hChildren (ws : List Nat) : Nat := hfield ws 8 16 11
def hStrm (ws : List Nat) : Bool := hfield ws 8 15 1 == 1
def hCtx (ws : List Nat) : Nat := hfield ws 8 12 3
def hDies (ws : List Nat) : Nat := hfield ws 8 10 2
def hCores (ws : List Nat) : Nat := hfield ws 8 0 10
def hRoutes (ws : List Nat) : Nat := hfield ws 9 45 9
/-- Shares in bytes. -/
def hDieLen (ws : List Nat) : Nat := hfield ws 9 32 13 * 65536
def hClLen (ws : List Nat) : Nat := hfield ws 9 16 16 * 65536
def hBanks (ws : List Nat) : Nat := hfield ws 9 0 16
def hSpv (ws : List Nat) : Bool := hfield ws 10 26 1 == 1
def hSpl (ws : List Nat) : Nat := hfield ws 10 16 10
def hSpb (ws : List Nat) : Nat := hfield ws 10 12 4
def hMwords (ws : List Nat) : Nat := hfield ws 10 0 12
def hSlv (ws : List Nat) : Bool := hfield ws 11 32 1 == 1
/-- Owner of each frame slot; without a table slot s belongs to bench s mod 4 (R285). -/
def hSlots (ws : List Nat) : List Nat := (List.range 16).map (fun i => if hSlv ws then hfield ws 11 (2 * i) 2 else i % 4)

/-- Every byte of a physical range lies in device DRAM (R329). -/
def State.dramRange (s : State) (pa n : Nat) : Bool :=
  n == 0 || ((List.range (n / 2 ^ 12 / 512 + 2)).all (fun i =>
      let a := pa / 2 ^ 21 * 2 ^ 21 + 2 ^ 21 * i
      decide (pa + n ≤ a) || (paLoc s.ncc (max a pa)).isSome) && (paLoc s.ncc (pa + n - 1)).isSome)

/-- The window table: 64 entries of two words (R175). -/
def State.readWindows (s : State) (ws : List Nat) : List (BitVec 64 × BitVec 64) :=
  (List.range 64).map (fun i =>
    (BitVec.ofNat 64 (s.readPa (hword ws 12 + 16 * i) 8), BitVec.ofNat 64 (s.readPa (hword ws 12 + 16 * i + 8) 8)))

def winSize (w : BitVec 64 × BitVec 64) : Nat := w.2.toNat % 2 ^ 11
def winBase (w : BitVec 64 × BitVec 64) : Nat := w.1.toNat / 2 ^ 21

/-- R176: windows overlap, leave DRAM, or have no right. -/
def State.windowsBad (s : State) (l : List (BitVec 64 × BitVec 64)) : Bool :=
  let used := l.filter (fun w => winSize w != 0)
  used.any (fun w => w.1.toNat % 4 == 0 || !(s.dramRange (w.2.toNat / 2 ^ 21 * 2 ^ 21) (winSize w * 2 ^ 21))) ||
  ((List.range used.length).zip used).any (fun a => ((List.range used.length).zip used).any (fun b =>
    a.1 != b.1 && decide (winBase a.2 < winBase b.2 + winSize b.2 ∧ winBase b.2 < winBase a.2 + winSize a.2)))

/-- Handle `i` as `.queue` declares it: an empty ring (R35, R186). -/
def State.readHandle (s : State) (ws : List Nat) (i : Nat) : QHandle :=
  let a := s.readPa (hword ws 13 + 16 * i) 8
  let c := a / 2 ^ 28 % 2 ^ 9
  if c = 0 then {}
  else { base := a % 2 ^ 12, bank := a / 2 ^ 12 % 16, size := a / 2 ^ 16 % 2 ^ 12, count := c
         occ := s.readPa (hword ws 13 + 16 * i + 8) 8 % 2 ^ 9 }

/-- R35: the ring fits its bank, at most 256 slots, occupancy at most the count. -/
def QHandle.bad (h : QHandle) : Bool :=
  h.count != 0 && (decide (256 < h.count ∨ h.count < h.occ) || decide (2 ^ 18 < 64 * (h.base + h.size * h.count)))

/-- The 128 bytes of tensor-table entry `i`: fields 0 to 15 in order, a word each (R215, R317; log 10). -/
def State.entryBytes (s : State) (ws : List Nat) (i : Nat) : Nat := s.readPa (hword ws 14 + 128 * i) 128

/-- Tensor-table entry `i`. -/
def State.readEntry (s : State) (ws : List Nat) (i : Nat) : TEntry := TEntry.ofWords (s.entryBytes ws i)

/-- R35, R143: the bytes of an entry that are not zero hold a value out of its field's range, a KD not below the rank, or MX on
another type than an MX type. -/
def entryBad (x : Nat) : Bool :=
  let e := TEntry.ofWords x
  x != 0 && ((List.range 16).any (fun k => !(tdwOk e k (BitVec.ofNat 64 (x / 2 ^ (64 * k))))) || decide (e.rank ≤ e.kd) ||
    (e.mx && !e.fmt.isMx))

/-- A record of the image list (R318): kind, bank, byte offset or routine index, bytes and their value. -/
structure ImageRec where
  kind : Nat
  bank : Nat
  at_  : Nat
  n    : Nat
  val  : Nat
deriving DecidableEq, Repr

/-- The image list from an address; none where it does not end within `fuel` records. -/
def State.readImage (s : State) : Nat → Nat → Option (List ImageRec)
  | 0, _ => none
  | k + 1, pa =>
    let w := s.readPa pa 8
    if w % 256 = 0 then some []
    else
      let n := w / 2 ^ 32
      let r : ImageRec := { kind := w % 256, bank := w / 2 ^ 8 % 16, at_ := w / 2 ^ 12 % 2 ^ 18, n := n, val := s.readPa (pa + 8) n }
      (s.readImage k (pa + 8 + (n + 7) / 8 * 8)).map (fun l => r :: l)

/-- Header word of a routine block, and its words. -/
def ImageRec.hdr (r : ImageRec) : Nat := r.val % 2 ^ 32
def ImageRec.words (r : ImageRec) : List Nat := (List.range (blockLen r.hdr)).map (fun i => laneAt 32 r.val (i + 1))

/-- R318, R271: bank data outside BANKS or past the bank's end, a routine outside its ranges or no valid block. -/
def ImageRec.bad (r : ImageRec) (ws : List Nat) : Bool :=
  match r.kind with
  | 1 => !((hBanks ws).testBit r.bank) || decide (2 ^ 18 < r.at_ + r.n)
  | 2 => decide (hRoutes ws ≤ r.at_ ∨ r.n < 4 + 4 * blockLen r.hdr) ||
      blockCause r.hdr r.words (decide (r.hdr % 2 ^ 11 + blockLen r.hdr ≤ hMwords ws)) != 0
  | _ => true

/-- The image list of a header. A record takes 8 bytes or more, and addresses from 2^41 on read as zero, which ends a list: none
has more records than the bound. -/
def State.imageOf (s : State) (ws : List Nat) : Option (List ImageRec) := s.readImage (2 ^ 61) (hword ws 15)

/-- Reserved bits and limits of the header's words (R13, R35, R317, R220). -/
def layoutBad (ws : List Nat) : Bool :=
  let nf := hNf ws
  decide (nf < 1 ∨ 6 < nf) || hword ws 1 / 2 ^ 57 != 0 ||
  (List.range 6).any (fun k => decide (nf ≤ k) && hfield ws 1 (39 + 3 * k) 3 != 0) ||
  !((List.range nf).all (fun k => (hNest ws).contains k)) ||
  decide (64 < ((hWork ws).map Prod.fst).foldl (· + ·) 0) || (hWork ws).any (fun f => decide (2 ^ f.1 < f.2)) ||
  (List.range 6).any (fun k => decide (nf ≤ k) && hword ws (2 + k) != 0) ||
  hword ws 8 / 2 ^ 44 != 0 || decide (1024 < hChildren ws) || !([1, 2, 4].contains (hCtx ws)) || hDies ws == 0 ||
  decide (hCores ws < 1 ∨ 512 < hCores ws) || hword ws 9 / 2 ^ 54 != 0 || decide (256 < hRoutes ws) ||
  decide (2 ^ 28 < hDieLen ws ∨ 2 ^ 22 < hClLen ws) || hword ws 10 / 2 ^ 27 != 0 || decide (512 < hSpl ws) ||
  decide (2048 < hMwords ws) || hword ws 11 / 2 ^ 33 != 0 ||
  (hSpv ws && (!((hBanks ws).testBit (hSpb ws)) || decide (512 < hCtx ws * hSpl ws)))

/-- The areas of word 18 and 19 are aligned and lie in device DRAM (R318). -/
def State.areasBad (s : State) (ws : List Nat) : Bool :=
  let n := hCores ws * hCtx ws
  hword ws 18 % 65536 != 0 || hword ws 19 % 64 != 0 || !(s.dramRange (hword ws 18) (n * 1280 * 1024)) ||
  !(s.dramRange (hword ws 19) (n * 32))

/-- A launch is refused before its cores are chosen (R318, R176, R35). -/
def State.headerRefused (s : State) (ws : List Nat) : Bool :=
  layoutBad ws || s.areasBad ws || s.windowsBad (s.readWindows ws) ||
  (List.range 16).any (fun i => (s.readHandle ws i).bad) || (List.range 64).any (fun i => entryBad (s.entryBytes ws i)) ||
  (match s.imageOf ws with | some l => l.any (fun r => r.bad ws) | none => true)

/-! ### Placement (R319, R320) -/

/-- The lowest place of `size` units below `cap` clear of the ranges in use. -/
def firstFit (used : List (Nat × Nat)) (size cap : Nat) : Option Nat :=
  if size = 0 then some 0
  else
    let clear (p : Nat) : Bool := used.all (fun r => decide (p + size ≤ r.1 ∨ r.1 + r.2 ≤ p))
    ((0 :: used.map (fun r => r.1 + r.2)).filter (fun p => decide (p + size ≤ cap) && clear p)).foldl
      (fun m p => some (match m with | some x => min x p | none => p)) none

/-- Kernels not yet complete with a core in a cluster, or with a die in their die mask. -/
def State.onCluster (s : State) (k : Nat) : List Kernel :=
  (s.kernels.filter (fun e => e.2.alive && e.2.cores.any (fun c => coreCluster c == k))).map Prod.snd
def State.onDie (s : State) (d : Nat) : List Kernel :=
  (s.kernels.filter (fun e => e.2.alive && e.2.dies.contains d)).map Prod.snd

/-- Places of a launch's ranges in a cluster: routine entries, store words, scratchpad share. -/
def State.clusterFit (s : State) (ws : List Nat) (k : Nat) : Option (Nat × Nat × Nat) :=
  let l := s.onCluster k
  if hStrm ws && l.any (fun x => x.strm) then none
  else
    match firstFit (l.map (fun x => (x.tBase k, x.tLen))) (hRoutes ws) 256,
          firstFit (l.map (fun x => (x.uBase k, x.uLen))) (hMwords ws) 2048,
          firstFit (l.map (fun x => (x.clBase k, x.clLen))) (hClLen ws) (2 ^ 22) with
    | some a, some b, some c => some (a, b, c)
    | _, _, _ => none

/-- Place of its share of a die. -/
def State.dieFit (s : State) (ws : List Nat) (d : Nat) : Option Nat :=
  firstFit ((s.onDie d).map (fun x => (x.dieBase d, x.dieLen))) (hDieLen ws) (2 ^ 28)

/-- Frame slots that a header's table gives to a bench. -/
def hSlotsOf (ws : List Nat) (b : Nat) : Nat :=
  (List.range 16).foldl (fun m i => if ((hSlots ws)[i]?).getD 0 = b then m + 2 ^ i else m) 0

/-- The core has what the launch needs of it; contexts that `ign` names count as free (R388). -/
def State.coreFits (s : State) (ws : List Nat) (ign : Nat → Bool) (core : Nat) : Bool :=
  let held := (s.ctxs.filter (fun e => e.2.core == core && s.occupies e.1 && !(ign e.1))).length
  !(s.bench (coreDie core) (coreBench core)).retired && decide (held + hCtx ws ≤ 4) &&
    (s.ownedBanks core &&& hBanks ws) == 0 &&
    (hSlotsOf ws (coreBench core) &&& s.usedSlots (coreCluster core) none) == 0 &&
    (s.clusterFit ws (coreCluster core)).isSome

/-- Pending-launch entries in use (R13, R322). -/
def State.poolUsed (s : State) : Nat := s.kernels.foldl (fun n e => n + e.2.poolHeld) 0

/-- The dies of a launch, ascending. -/
def hDieList (ws : List Nat) : List Nat := (List.range 2).filter (fun d => (hDies ws).testBit d)

/-- The chosen cores: the lowest-numbered that fit, where its share is free on each of its dies (R319, R320). -/
def State.place (s : State) (ws : List Nat) (ign : Nat → Bool) : Option (List Nat) :=
  let dies := hDieList ws
  let l := (dies.flatMap (fun d => (List.range 256).map (fun c => 256 * d + c))).filter (fun c => s.coreFits ws ign c)
  if l.length < hCores ws ∨ !(dies.all (fun d => (s.dieFit ws d).isSome)) ∨ 1024 < s.poolUsed + hChildren ws ∨
      4096 ≤ (s.kernels.filter (fun e => e.2.alive)).length then none
  else some (l.take (hCores ws))

/-- No context is set aside. -/
def noneIgnored (_ : Nat) : Bool := false

/-! ### Heads of queues (R319, R322) -/

/-- The launch at the head of a queue: a child of its kernels first, else its own. -/
inductive Head where
  | child (c : Child) (words : Option (List Nat))
  | host (words : List Nat)

/-- The header of a child launch, as its parent's address space maps it (R322). -/
def State.childHeader (s : State) (c : Child) : Option (List Nat) :=
  match addrWord c.word with
  | .virt va => if va % 64 = 0 then s.readHeaderVa (s.kernel c.parent).asid va else none
  | _ => none

/-- Head launch of a queue that is served. -/
def State.headOf (s : State) (q : Nat) : Option Head :=
  match s.pool.find? (fun c => (s.kernel c.parent).queue == q) with
  | some c => some (.child c (s.childHeader c))
  | none => (s.hq q).launch.map (fun l => .host l.1)

/-- Its header words, where it is not refused. -/
def State.headWords (s : State) (q : Nat) : Option (List Nat) :=
  match s.headOf q with
  | some (.child _ (some ws)) => if s.headerRefused ws then none else some ws
  | some (.host ws) => some ws
  | _ => none

/-- The head is a child whose header is refused. -/
def State.childRefused (s : State) (q : Nat) : Bool := (s.headOf q).isSome && (s.headWords q).isNone

/-- SCHT since when the head stands. -/
def State.headSince (s : State) (q : Nat) : Nat :=
  match s.headOf q with
  | some (.child c _) => c.since
  | _ => (((s.hq q).launch).map Prod.snd).getD 0

/-- Another queue's held head of equal or higher priority stops this launch (R319). -/
def State.stopped (s : State) (q dies : Nat) : Bool :=
  (List.range 64).any (fun x => x != q && (s.hq x).hold && decide ((s.hq q).prio ≤ (s.hq x).prio) &&
    (match s.headWords x with | some ws => (hDies ws &&& dies) != 0 | none => false))

/-- The queue's head can be dealt with now: it fits, or it is a child that is refused. -/
def State.headFits (s : State) (q : Nat) : Bool :=
  match s.headOf q with
  | none => false
  | some _ =>
    match s.headWords q with
    | none => true
    | some ws => !(s.stopped q (hDies ws)) && (s.place ws noneIgnored).isSome

/-- Queues in the order in which the command processor takes them: priority, then round-robin after the last (R319). -/
def State.queueOrder (s : State) : List Nat :=
  (List.range 8).reverse.flatMap (fun p =>
    let l := (List.range 64).filter (fun q => (s.hq q).prio == p && (s.hq q).en)
    let last := mget 0 s.lastQ p
    l.filter (fun q => decide (last < q + 1)) ++ l.filter (fun q => !(decide (last < q + 1))))

/-- The queue whose head is admitted next. -/
def State.admitNext (s : State) : Option Nat := s.queueOrder.find? (fun q => s.headFits q)

/-! ### Admission -/

/-- Add CADD to a launch's completion signal word, where it has one (R317, R322). -/
def State.addSignal (s : State) (kernel core : Nat) : State :=
  let k := s.kernel kernel
  if k.csig = 0 then s
  else
    match s.signalHome kernel core .add k.csig with
    | some loc => s.writeSys loc 8 ((s.homeValue loc + k.cadd.toNat) % 2 ^ 64)
    | none => s

/-- Drop a kernel that is complete and holds no pool entry. -/
def State.forget (s : State) (key : Nat) : State :=
  let k := s.kernel key
  if !k.alive && k.poolHeld == 0 then { s with kernels := merase s.kernels key } else s

/-- A used pool entry of a parent is freed (R322). -/
def State.freeEntry (s : State) (parent : Nat) (rejected : Bool) : State :=
  let k := s.kernel parent
  (s.setKernel parent { k with poolHeld := k.poolHeld - 1, lrej := k.lrej || rejected }).forget parent

/-- A refused child: LREJ, its entry, and its CSIG addition (R322). -/
def State.rejectChild (s : State) (c : Child) (words : Option (List Nat)) : State :=
  let s1 := { s with pool := s.pool.filter (fun x => x != c) }
  let s2 := match words with
    | some ws =>
      let tmp : Kernel := { asid := hAsid ws, csig := BitVec.ofNat 64 (hword ws 16), cadd := BitVec.ofNat 64 (hword ws 17) }
      let t := (s1.setKernel s1.nextId tmp).addSignal s1.nextId 0
      { t with kernels := merase t.kernels s1.nextId }
    | none => s1
  s2.freeEntry c.parent true

/-- The kernel of a header on its cores. -/
def State.kernelOf (s : State) (ws : List Nat) (cores : List Nat) (kid q seq prio : Nat) (parent : Option Nat) : Kernel :=
  let cls := (cores.map coreCluster).eraseDups
  let dies := hDieList ws
  let fits := cls.map (fun k => (k, (s.clusterFit ws k).getD (0, 0, 0)))
  { kid := kid, queue := q, seq := seq, asid := hAsid ws, windows := s.readWindows ws, slots := hSlots ws, slv := hSlv ws
    spoil := if hSpv ws then some (hSpb ws) else none, work := hWork ws, nest := hNest ws
    uLen := hMwords ws, tLen := hRoutes ws, clLen := hClLen ws, dieLen := hDieLen ws
    tBases := fits.foldl (fun m e => mset 0 m e.1 e.2.1) []
    uBases := fits.foldl (fun m e => mset 0 m e.1 e.2.2.1) []
    clBases := fits.foldl (fun m e => mset 0 m e.1 e.2.2.2) []
    dieBases := dies.foldl (fun m d => mset 0 m d ((s.dieFit ws d).getD 0)) []
    trapArea := hword ws 19, saveArea := hword ws 18, expo := some (hExpr ws), alive := true, prio := prio, cores := cores, dies := dies
    ctxN := hCtx ws, banks := hBanks ws, strm := hStrm ws, csig := BitVec.ofNat 64 (hword ws 16)
    cadd := BitVec.ofNat 64 (hword ws 17), parent := parent, children := hChildren ws, poolHeld := hChildren ws }

/-- A core's unit scratchpad is zero but for the bank data of the image (R180); banks that another kernel owns stay (log 39). -/
def State.fillBanks (s : State) (ws : List Nat) (others : Nat) (img : List ImageRec) (core : Nat) : State :=
  let lo := unitLoc core 0 0
  let owned (a : Nat) : Bool :=
    decide (lo ≤ a ∧ a < lo + 2 ^ 22) && ((hBanks ws).testBit ((a - lo) / 2 ^ 18) || !(others.testBit ((a - lo) / 2 ^ 18)))
  let s1 := { s with mem := s.mem.filter (fun e => !(owned e.1)), poison := s.poison.filter (fun p => !(owned (64 * p))) }
  (img.filter (fun r => r.kind == 1)).foldl (fun t r =>
    { t with mem := writeBank t.mem core r.bank r.at_ r.n r.val (256 ^ r.n - 1) }) s1

/-- A cluster's ranges: the table's entries and the share are zero, the image's routines installed, the stream table closed
(R249, R288, R292, R318). -/
def State.fillCluster (s : State) (kn : Kernel) (img : List ImageRec) (k : Nat) : State :=
  let c := s.cluster k
  let lo := kn.tBase k
  let c1 := { c with table := c.table.filter (fun e => !(decide (lo ≤ e.1 ∧ e.1 < lo + kn.tLen)))
                     streams := if kn.strm then [] else c.streams }
  let c2 := (img.filter (fun r => r.kind == 2)).foldl (fun x r =>
    x.install (kn.uBase k + r.hdr % 2 ^ 11) (lo + r.at_) r.hdr r.words) c1
  let s1 := s.setCluster k c2
  if kn.clLen = 0 then s1 else (s1.clean (clLoc k (kn.clBase k)) kn.clLen).writeSys (clLoc k (kn.clBase k)) kn.clLen 0

/-- A die's share is zero (R319). -/
def State.fillDie (s : State) (kn : Kernel) (d : Nat) : State :=
  if kn.dieLen = 0 then s else (s.clean (dieLoc d (kn.dieBase d)) kn.dieLen).writeSys (dieLoc d (kn.dieBase d)) kn.dieLen 0

/-- The context of worker `w` at its binding (R113, R120, R220, R321). -/
def State.newCtx (s : State) (ws : List Nat) (key core hw rank k : Nat) : Ctx :=
  let n := hCtx ws
  let w := rank * n + k
  let all := hCores ws * n
  let L := ((hWork ws).map Prod.snd).foldl (· * ·) 1
  let sp : Spoil := if hSpv ws then { base := k * hSpl ws, lim := (k + 1) * hSpl ws, bank := hSpb ws } else {}
  { life := .running, core := core, hw := hw, kernel := key, worker := w, kctx := k
    q := (List.range 16).foldl (fun m i => mset {} m i (s.readHandle ws i)) []
    t := (List.range 64).foldl (fun m i => mset {} m i (s.readEntry ws i)) []
    pc := hword ws 0, sp := sp, next := w * L / all, rangeHi := (w + 1) * L / all
    born := s.cycle + 1, readyAt := s.cycle + 1, fetchAt := s.cycle, resumeAt := s.cycle + 1
    view := s.acquire core .sys {} }

/-- Nothing of an exited context is needed any more: its kernel is complete and no delivery to it is on its way (R114, R290). -/
def State.spent (s : State) (u : Nat) : Bool :=
  let c := s.ctx u
  c.life == .exited && !(s.kernel c.kernel).alive && !(s.putqs.any (fun p => p.target == u))

/-- Bind the lowest-numbered free contexts of a chosen core (R320). -/
def State.bindCore (s : State) (ws : List Nat) (key : Nat) (p : Nat × Nat) : State :=
  let hws := (s.freeHw p.2).take (hCtx ws)
  ((List.range hws.length).zip hws).foldl (fun t e =>
    let kept := t.ctxs.filter (fun x => !(x.2.core == p.2 && x.2.hw == e.2 && t.spent x.1))
    { { t with ctxs := kept }.setCtx t.nextId (t.newCtx ws key p.2 e.2 p.1 e.1) with nextId := t.nextId + 1 }) s

/-- KID: one that no kernel not yet complete holds, the command processor's choice (R319). -/
def State.freeKid (s : State) : Nat :=
  let used := (s.kernels.filter (fun e => e.2.alive)).map (fun e => e.2.kid)
  (((List.range 4096).map (fun i => (s.free + i) % 4096)).find? (fun k => !(used.contains k))).getD 0

/-- Bind a launch on its cores. -/
def State.bindKernel (s : State) (ws : List Nat) (cores : List Nat) (q seq prio : Nat) (parent : Option Nat) : State :=
  let key := s.nextId
  let img := (s.imageOf ws).getD []
  let kn := s.kernelOf ws cores s.freeKid q seq prio parent
  let s1 := { s.draw.setKernel key kn with nextId := key + 1, locked := true }
  let s2 := cores.foldl (fun t c => t.fillBanks ws (s.ownedBanks c) img c) s1
  let s3 := ((cores.map coreCluster).eraseDups).foldl (fun t k => t.fillCluster kn img k) s2
  let s4 := kn.dies.foldl (fun t d => t.fillDie kn d) s3
  ((List.range cores.length).zip cores).foldl (fun t p => t.bindCore ws key p) s4

/-- A chosen core's bench owns no slot of a declared table (R318). -/
def slotsLack (ws : List Nat) (cores : List Nat) : Bool := hSlv ws && cores.any (fun c => hSlotsOf ws (coreBench c) == 0)

/-- Every chosen core's bench is powered (R325). -/
def State.coresOn (s : State) (cores : List Nat) : Bool := cores.all (fun c => (s.bench (coreDie c) (coreBench c)).powered)

/-- KERNEL_ADMISSION from a queue: the launch the command processor takes next is admitted once its benches are on, or a
refused one completes (R318, R319, R322, R325). The queue's next command may have waited for its child (R322, R380). -/
def execKernelAdmission (q : Nat) (s : State) : Out :=
  if s.admitNext = some q then
    let h := s.hq q
    let took (t : State) : State := { t with lastQ := mset 0 t.lastQ h.prio (q + 1) }
    let cores := ((s.headWords q).bind (fun ws => s.place ws noneIgnored)).getD []
    match s.headOf q, s.headWords q with
    | some (.child c _), some ws =>
      if slotsLack ws cores then .next (State.settleQueue ringMax (s.rejectChild c (some ws)) q)
      else if s.coresOn cores then
        let s1 := { s.setHq q { h with hold := false } with pool := s.pool.filter (fun x => x != c) }
        .next (State.settleQueue ringMax (took (s1.bindKernel ws cores q (s.kernel c.parent).seq h.prio (some c.parent))) q)
      else .next s
    | some (.child c words), none =>
      .next (State.settleQueue ringMax ((s.setHq q { h with hold := false }).rejectChild c words) q)
    | some (.host _), some ws =>
      let seq := (h.lcons + 1) % 2 ^ 32
      let s1 := s.setHq q { h with lcons := seq, launch := none, hold := false }
      if slotsLack ws cores then .next (s1.conclude q seq 0x01 0x03 0)
      else if s.coresOn cores then .next (State.settleQueue ringMax (took (s1.bindKernel ws cores q seq h.prio none)) q)
      else .next s
    | _, _ => .next s
  else .next s

/-- ADMISSION_HOLD of a queue: its head has stood unadmitted for 1,000 schedule ticks (R319). -/
def State.holdDue (s : State) (q : Nat) : Bool :=
  let h := s.hq q
  h.en && !h.hold && (s.headOf q).isSome && decide (s.headSince q + 1000 ≤ s.scht)

def execAdmissionHold (q : Nat) (s : State) : Out :=
  .next (if s.holdDue q then s.setHq q { s.hq q with hold := true } else s)

/-! ### Grid completion (R114, R382) -/

/-- Contexts of a kernel. -/
def State.ctxsOf (s : State) (key : Nat) : List Nat := (s.ctxs.filter (fun e => e.2.kernel == key)).map Prod.fst

/-- Every context has exited, every command has set its tag, no routine of theirs runs (R274), no FENCE is pending, and no
remote write of theirs is undelivered (R411). -/
def State.gridDone (s : State) (key : Nat) : Bool :=
  (s.kernel key).alive &&
    (s.ctxsOf key).all (fun u => let c := s.ctx u
      c.life == .exited && c.pend == .none && !s.runsRoutine u && !s.undelivered c.outbox) &&
    !(s.cmdList.any (fun c => c.kernel == key)) && !(s.sigs.any (fun x => (s.ctxsOf key).contains x.ctx)) &&
    !(s.stores.any (fun x => match x.ctx with | some u => (s.ctxsOf key).contains u | none => false))

/-- STATUS and DETAIL of a kernel's completion record (R382). -/
def Kernel.status (k : Kernel) : Nat := if k.failed || k.aborted then 0x04 else 0x00
def Kernel.detail (k : Kernel) : Nat :=
  let bit (b : Bool) (i : Nat) : Nat := if b then 2 ^ i else 0
  k.exit.toNat + bit k.lovf 32 + bit k.lrej 33 + bit k.trapped 34 + bit k.aborted 35 + k.kid * 2 ^ 36

/-- The ABORT commands whose kernels are all complete (R383). -/
def State.abortsDone (s : State) : State :=
  let isOver (a : Abort) : Bool := a.kernels.all (fun k => !(s.kernel k).alive)
  (s.aborts.filter isOver).foldl (fun t a => t.conclude a.queue a.seq 0x0C 0x00 0) { s with aborts := s.aborts.filter (fun a => !(isOver a)) }

/-- The kernel is complete: unused pool entries go (R322). Its contexts stay as they exited until their hardware contexts are
bound again. -/
def State.closeKernel (s : State) (key : Nat) : State :=
  let k := s.kernel key
  let s1 := s.setKernel key { k with alive := false, poolHeld := k.poolHeld - (k.children - k.launched) }
  { s1 with evicted := s1.evicted.filter (fun e =>
      match e.2 with | some r => (s.ctx r.1).kernel != key | none => true) }

/-- Publish(SYS) on behalf of a context that has exited: what its own view covers, and what the commands it issued covered at
their ends, which a release at a narrower scope has left there (R114). -/
def State.publishExited (s : State) (u : Nat) : State :=
  let c := s.ctx u
  (s.setCtx u { c with view := c.view.join c.cmdView }).publishCtx u .sys

/-- GRID_COMPLETION of a kernel, by its key: Publish(SYS) for its contexts, in ascending order of their keys (DESIGN CHOICE, log 50),
its signal, its record (R114, R382). -/
def execGridCompletion (key : Nat) (s : State) : Out :=
  if s.gridDone key then
    let k := s.kernel key
    let s1 := (s.ctxsOf key).foldl State.publishExited s
    let s2 := (s1.addSignal key ((k.cores.head?).getD 0)).closeKernel key
    let s3 := match k.parent with
      | some p => s2.freeEntry p false
      | none => s2.conclude k.queue k.seq 0x01 k.status k.detail
    .next ((s3.forget key).abortsDone)
  else .next s

/-! ### Priority pre-emption (R388) -/

/-- Kernels of lower priority than a queue. -/
def State.lower (s : State) (q key : Nat) : Bool := (s.kernel key).alive && decide ((s.kernel key).prio < (s.hq q).prio)

/-- A context whose freeze is under way. -/
def State.freezing (s : State) (u : Nat) : Bool := let c := s.ctx u; c.life == .frozen || (c.life == .running && c.pre != .none)

/-- The head of a queue lacks only contexts that kernels of lower priority hold, and those under way do not suffice. -/
def State.wantsContexts (s : State) (q : Nat) : Bool :=
  match s.headWords q with
  | some ws =>
    (s.hq q).en && !(s.stopped q (hDies ws)) && (s.place ws s.freezing).isNone &&
      (s.place ws (fun u => s.freezing u || s.lower q (s.ctx u).kernel)).isSome
  | none => false

/-- The launch lacks contexts of a core: it fits there but for contexts that kernels of lower priority hold. -/
def State.lacksCore (s : State) (q : Nat) (ws : List Nat) (core : Nat) : Bool :=
  (hDies ws).testBit (coreDie core) && !(s.coreFits ws s.freezing core) &&
    s.coreFits ws (fun u => s.freezing u || s.lower q (s.ctx u).kernel) core

/-- Contexts of lower priority that the head launch of a queue lacks. -/
def State.lackedCtxs (s : State) (q : Nat) : List (Nat × Ctx) :=
  match s.headWords q with
  | some ws => s.ctxs.filter (fun e => s.lower q e.2.kernel && s.active e.1 && s.lacksCore q ws e.2.core)
  | none => []

/-- The kernel to freeze: that of lowest priority which holds such a context; of two the one admitted first (log 40). -/
def State.victimKernel (s : State) (q : Nat) : Option Nat :=
  let rank (k : Nat) : Nat × Nat := ((s.kernel k).prio, k)
  let before (a b : Nat × Nat) : Bool := decide (a.1 < b.1) || (a.1 == b.1 && decide (a.2 ≤ b.2))
  ((s.lackedCtxs q).map (fun e => e.2.kernel)).foldl (fun m k =>
    match m with
    | none => some k
    | some x => some (if before (rank x) (rank k) then x else k)) none

/-- The context to freeze: of that kernel, on its highest-numbered core first, one at a time on a core (R211, R388). -/
def State.victim (s : State) (q : Nat) : Option Nat :=
  match s.victimKernel q with
  | none => none
  | some k =>
    let l := sortBy (fun a b => decide (b.2.core ≤ a.2.core)) ((s.lackedCtxs q).filter (fun e => e.2.kernel == k))
    (l.map Prod.fst).find? (fun u => (s.ctx u).pre == .none && s.freezeFree u)

/-- PRIORITY_PREEMPTION for the head launch of a queue. -/
def execPriorityPreemption (q : Nat) (s : State) : Out :=
  match s.victim q with
  | some u => .next (if s.wantsContexts q then s.requestFreeze u else s)
  | none => .next s

end Sys2Proof.Machine
end

