-- ==== Sys2Proof/Machine/Crypto.lean ====
section
/-! DEFINITION. SHA-256 and ECDSA over P-256, which R396 and R398 name: the functions are those of the standards of these names (FIPS
180-4 and 186-4; PRESUMED, log 11). A byte string is given as its length and its little-endian value. -/

namespace Sys2Proof.Machine

/-- A number of `n` bytes whose first byte is the highest, from a little-endian one, and back. -/
def bigEndian : Nat → Nat → Nat
  | 0, _ => 0
  | n + 1, v => v % 256 * 256 ^ n + bigEndian n (v / 256)

/-! ### SHA-256 -/

/-- The round constants. -/
def shaK : List (BitVec 32) :=
  [0x428a2f98#32, 0x71374491#32, 0xb5c0fbcf#32, 0xe9b5dba5#32, 0x3956c25b#32, 0x59f111f1#32, 0x923f82a4#32, 0xab1c5ed5#32] ++
  [0xd807aa98#32, 0x12835b01#32, 0x243185be#32, 0x550c7dc3#32, 0x72be5d74#32, 0x80deb1fe#32, 0x9bdc06a7#32, 0xc19bf174#32] ++
  [0xe49b69c1#32, 0xefbe4786#32, 0x0fc19dc6#32, 0x240ca1cc#32, 0x2de92c6f#32, 0x4a7484aa#32, 0x5cb0a9dc#32, 0x76f988da#32] ++
  [0x983e5152#32, 0xa831c66d#32, 0xb00327c8#32, 0xbf597fc7#32, 0xc6e00bf3#32, 0xd5a79147#32, 0x06ca6351#32, 0x14292967#32] ++
  [0x27b70a85#32, 0x2e1b2138#32, 0x4d2c6dfc#32, 0x53380d13#32, 0x650a7354#32, 0x766a0abb#32, 0x81c2c92e#32, 0x92722c85#32] ++
  [0xa2bfe8a1#32, 0xa81a664b#32, 0xc24b8b70#32, 0xc76c51a3#32, 0xd192e819#32, 0xd6990624#32, 0xf40e3585#32, 0x106aa070#32] ++
  [0x19a4c116#32, 0x1e376c08#32, 0x2748774c#32, 0x34b0bcb5#32, 0x391c0cb3#32, 0x4ed8aa4a#32, 0x5b9cca4f#32, 0x682e6ff3#32] ++
  [0x748f82ee#32, 0x78a5636f#32, 0x84c87814#32, 0x8cc70208#32, 0x90befffa#32, 0xa4506ceb#32, 0xbef9a3f7#32, 0xc67178f2#32]

/-- The eight working words. -/
structure ShaState where
  a : BitVec 32 := 0x6a09e667#32
  b : BitVec 32 := 0xbb67ae85#32
  c : BitVec 32 := 0x3c6ef372#32
  d : BitVec 32 := 0xa54ff53a#32
  e : BitVec 32 := 0x510e527f#32
  f : BitVec 32 := 0x9b05688c#32
  g : BitVec 32 := 0x1f83d9ab#32
  h : BitVec 32 := 0x5be0cd19#32
deriving DecidableEq, Repr

/-- Word-wise sum. -/
def ShaState.add (x y : ShaState) : ShaState :=
  ⟨x.a + y.a, x.b + y.b, x.c + y.c, x.d + y.d, x.e + y.e, x.f + y.f, x.g + y.g, x.h + y.h⟩

/-- The words as one number, the first highest. -/
def ShaState.digest (x : ShaState) : BitVec 256 := x.a ++ x.b ++ x.c ++ x.d ++ x.e ++ x.f ++ x.g ++ x.h

/-- Byte `i` of a message of `n` bytes after padding to `total`: 0x80, zeros, and the length in bits, highest byte first. -/
def shaByte (n v total i : Nat) : Nat :=
  if i < n then v / 256 ^ i % 256
  else if i = n then 0x80
  else if total < i + 9 then 8 * n / 256 ^ (total - 1 - i) % 256
  else 0

/-- Word `i` of the padded message. -/
def shaWord (n v total i : Nat) : BitVec 32 :=
  BitVec.ofNat 32 ((List.range 4).foldl (fun x j => 256 * x + shaByte n v total (4 * i + j)) 0)

/-- `k` more words of the schedule, whose latest word stands first. -/
def shaExtend : Nat → List (BitVec 32) → List (BitVec 32)
  | 0, w => w
  | k + 1, w =>
    let at_ (i : Nat) : BitVec 32 := (w[i]?).getD 0
    let x := at_ 14
    let y := at_ 1
    let s0 := x.rotateRight 7 ^^^ x.rotateRight 18 ^^^ (x >>> 3)
    let s1 := y.rotateRight 17 ^^^ y.rotateRight 19 ^^^ (y >>> 10)
    shaExtend k ((at_ 15 + s0 + at_ 6 + s1) :: w)

/-- One round, with its constant and its word. -/
def shaRound (x : ShaState) (kw : BitVec 32 × BitVec 32) : ShaState :=
  let s1 := x.e.rotateRight 6 ^^^ x.e.rotateRight 11 ^^^ x.e.rotateRight 25
  let t1 := x.h + s1 + ((x.e &&& x.f) ^^^ (~~~x.e &&& x.g)) + kw.1 + kw.2
  let s0 := x.a.rotateRight 2 ^^^ x.a.rotateRight 13 ^^^ x.a.rotateRight 22
  let t2 := s0 + ((x.a &&& x.b) ^^^ (x.a &&& x.c) ^^^ (x.b &&& x.c))
  ⟨t1 + t2, x.a, x.b, x.c, x.d + t1, x.e, x.f, x.g⟩

/-- One block of sixteen words. -/
def shaBlock (x : ShaState) (w : List (BitVec 32)) : ShaState := x.add ((shaK.zip (shaExtend 48 w.reverse).reverse).foldl shaRound x)

/-- SHA-256 of a byte string (R396). -/
def sha256 (n v : Nat) : BitVec 256 :=
  let blocks := (n + 8) / 64 + 1
  ((List.range blocks).foldl (fun x b =>
    shaBlock x ((List.range 16).map (fun i => shaWord n v (64 * blocks) (16 * b + i)))) {}).digest

/-! ### P-256 -/

/-- The field, the order of the base point, and the curve y² = x³ − 3x + b. -/
def p256P : Nat := 0xffffffff00000001000000000000000000000000ffffffffffffffffffffffff
def p256N : Nat := 0xffffffff00000000ffffffffffffffffbce6faada7179e84f3b9cac2fc632551
def p256B : Nat := 0x5ac635d8aa3a93e7b3ebbd55769886bc651d06b0cc53b0f63bce3c3e27d2604b

/-- A point; none at infinity. -/
abbrev Point := Option (Nat × Nat)

/-- The base point. -/
def p256G : Point := some (0x6b17d1f2e12c4247f8bce6e563a440f277037d812deb33a0f4a13945d898c296,
  0x4fe342e2fe1a7f9b8ee7eb4a7c0f9e162bce33576b315ececbb6406837bf51f5)

/-- Power modulo `m`, for an exponent of as many bits as the fuel. -/
def powMod (m : Nat) : Nat → Nat → Nat → Nat
  | 0, _, _ => 1
  | k + 1, b, e =>
    let r := powMod m k (b * b % m) (e / 2)
    if e % 2 = 1 then b * r % m else r

/-- Inverse modulo a prime of 256 bits. -/
def invMod (m a : Nat) : Nat := powMod m 256 (a % m) (m - 2)

/-- The third point of a line of slope `l` through (x, y) and a point at `x2`, mirrored. -/
def p256Third (l x y x2 : Nat) : Point :=
  let z := (l * l + 2 * p256P - x - x2) % p256P
  some (z, (l * (x + p256P - z) + p256P - y) % p256P)

/-- Sum of two points. -/
def p256Add : Point → Point → Point
  | none, q => q
  | p, none => p
  | some (x, y), some (u, v) =>
    if x ≠ u then p256Third ((v + p256P - y) * invMod p256P (u + p256P - x) % p256P) x y u
    else if (y + v) % p256P = 0 then none
    else p256Third ((3 * x * x + p256P - 3) * invMod p256P (2 * y) % p256P) x y x

/-- A multiple of a point, for a factor of as many bits as the fuel. -/
def p256Mul : Nat → Nat → Point → Point
  | 0, _, _ => none
  | k + 1, e, q =>
    let r := p256Mul k (e / 2) (p256Add q q)
    if e % 2 = 1 then p256Add q r else r

/-- A point with both coordinates in range lies on the curve. -/
def p256On (x y : Nat) : Bool :=
  decide (x < p256P ∧ y < p256P ∧ y * y % p256P = (x * x * x + (p256P - 3) * x + p256B) % p256P)

/-! ### ECDSA -/

/-- A point as 64 bytes, both coordinates highest byte first, as a little-endian value, and back; the place of x and y is that of r and s
in a signature (R396; DESIGN CHOICE, log 11). -/
def pairBytes (x y : Nat) : BitVec 512 := BitVec.ofNat 512 (bigEndian 32 x + bigEndian 32 y * 256 ^ 32)
def bytesPair (b : BitVec 512) : Nat × Nat := (bigEndian 32 (b.toNat % 256 ^ 32), bigEndian 32 (b.toNat / 256 ^ 32))

/-- First coordinate modulo the order. -/
def pointR (q : Point) : Nat := (q.map (fun c => c.1 % p256N)).getD 0

/-- Verification of the signature (r, s) of a digest under a public key (R396). -/
def ecdsaVerify (key : BitVec 512) (digest : BitVec 256) (r s : Nat) : Bool :=
  let q := bytesPair key
  let w := invMod p256N s
  let sum := p256Add (p256Mul 256 (digest.toNat * w % p256N) p256G) (p256Mul 256 (r * w % p256N) (some q))
  p256On q.1 q.2 && decide (0 < r ∧ r < p256N ∧ 0 < s ∧ s < p256N) && sum.isSome && pointR sum == r

/-- A signature of a digest under a private key with a secret `k`; another is taken where it gives r or s as 0, which the fuel bounds. -/
def ecdsaSignFrom (d e : Nat) : Nat → Nat → Nat × Nat
  | 0, _ => (0, 0)
  | m + 1, k =>
    let r := pointR (p256Mul 256 k p256G)
    let s := invMod p256N k * (e + r * d) % p256N
    if r = 0 ∨ s = 0 then ecdsaSignFrom d e m (k % (p256N - 1) + 1) else (r, s)

/-- A number from 1 to the order less 1. -/
def scalarOf (v : Nat) : Nat := v % (p256N - 1) + 1

/-- The signature, as 64 bytes; `nonce` gives the secret (R398). -/
def ecdsaSign (nonce : Nat) (key digest : BitVec 256) : BitVec 512 :=
  let r := ecdsaSignFrom (scalarOf key.toNat) digest.toNat 16 (scalarOf nonce)
  pairBytes r.1 r.2

/-- The public key of a private one (R397). -/
def ecdsaPublic (key : BitVec 256) : BitVec 512 :=
  match p256Mul 256 (scalarOf key.toNat) p256G with
  | some (x, y) => pairBytes x y
  | none => 0

end Sys2Proof.Machine
end

