-- ==== Sys2Proof/Machine/CmdProc.lean ====
section
/-! DEFINITION. The command processor's queues and commands (R379 to R388, R313, R336, R337, R351, R398): QBELL_WRITE,
LAUNCH, WAIT, SIGNAL, EXPCLOSE, EXPSET, INVAL, ASID, CAP, ATTEST, PREEMPT, RESUME, ABORT and CRESUME. -/

namespace Sys2Proof.Machine

/-! ### Taking a command (R380, R381) -/

/-- The next command is a good one of this OP, and its time has come: a LAUNCH after what BARRIER asks for, any other after
every earlier command (R380), and each after the queue's child launches (R322). -/
def State.taking (s : State) (q op : Nat) : Option (List Nat) :=
  match s.pending q with
  | some ws =>
    let h := s.hq q
    let ready := if op = 0x01 then h.launch.isNone && s.noChild q && (!(cBarrier ws) || h.clear) else s.clearQ q
    if (badStatus h.next ws).isNone && cOp ws == op && ready then some ws else none
  | none => none

/-- Consume the next command. -/
def State.consume (s : State) (q : Nat) : State := let h := s.hq q; s.setHq q { h with lcons := h.next }

/-- It completes at once. -/
def State.finish (s : State) (q op status detail : Nat) : State :=
  let n := (s.hq q).lcons
  s.conclude q n op status detail

/-- A command that is refused or does its work at once: `act` gives the state and DETAIL, or refuses (R381). -/
def hostCmd (q op : Nat) (s : State) (act : List Nat → State → Option (State × Nat)) : Out :=
  match s.taking q op with
  | none => .next s
  | some ws =>
    let s1 := s.consume q
    match act ws s1 with
    | some r => .next (r.1.finish q op 0x00 r.2)
    | none => .next (s1.finish q op 0x01 0)

/-- QBELL_WRITE: commands up to TAIL are available (R380). -/
def execQbellWrite (q : Nat) (v : BitVec 64) (s : State) : Out :=
  .next (if s.boot = .running ∧ q < 64 then
      State.settleQueue ringMax (s.setHq q { s.hq q with tail := v.toNat % 2 ^ 32 }) q else s)

/-! ### LAUNCH, WAIT, SIGNAL -/

/-- Both eviction buffers are set (R389). -/
def State.evictReady (s : State) : Bool := (mget 0 s.evbase 0).getLsbD 63 && (mget 0 s.evbase 1).getLsbD 63

/-- LAUNCH_COMMAND: a refused launch completes at once; any other comes to the head of its queue (R318, R381, R389). -/
def execLaunchCommand (q : Nat) (s : State) : Out :=
  match s.taking q 0x01 with
  | none => .next s
  | some ws =>
    let pa := cword ws 1
    let hd := s.readHeader pa
    if !s.evictReady || !(zeroFrom ws 2) then .next ((s.consume q).finish q 0x01 0x01 0)
    else if pa % 64 ≠ 0 ∨ !(s.dramRange pa 160) ∨ s.headerRefused hd then .next ((s.consume q).finish q 0x01 0x03 0)
    else .next (s.setHq q { s.hq q with launch := some (hd, s.scht) })

/-- Location of a signal word of a host command: a multiple of 8 in device DRAM (R323, R381). -/
def State.hostSignal (s : State) (pa : Nat) : Option Nat := if pa % 8 = 0 then paLoc s.ncc pa else none

/-- WAIT: it is pending from now on, or refused (R381). -/
def execWait (q : Nat) (s : State) : Out :=
  match s.taking q 0x02 with
  | none => .next s
  | some ws =>
    let s1 := s.consume q
    match s.hostSignal (cword ws 1), zeroFrom ws 3 with
    | some loc, true => .next (s1.setHq q { s1.hq q with held := .wait (s1.hq q).lcons loc (cword ws 2) })
    | _, _ => .next (s1.finish q 0x02 0x01 0)

/-- A pending WAIT whose word has reached its value. -/
def State.waitMetQ (s : State) (q : Nat) : Bool :=
  match (s.hq q).held with
  | .wait _ loc v => decide (v ≤ s.homeValue loc)
  | _ => false

/-- WAIT_SATISFIED (R381). -/
def execWaitSatisfied (q : Nat) (s : State) : Out :=
  match (s.hq q).held with
  | .wait n _ _ =>
    if s.waitMetQ q then
      .next ((s.setHq q { s.hq q with held := .none }).conclude q n 0x02 0x00 0)
    else .next s
  | _ => .next s

/-- SIGNAL: the command processor holds no pending writes of its own; the update is performed at the home (R381). -/
def execSignalCommand (q : Nat) (s : State) : Out :=
  hostCmd q 0x03 s (fun ws s =>
    match s.hostSignal (cword ws 1) with
    | some loc =>
      if 1 < cword ws 3 ∨ !(zeroFrom ws 4) then none
      else
        let v := if cword ws 3 = 1 then cword ws 2 else (s.homeValue loc + cword ws 2) % 2 ^ 64
        some (s.writeSys loc 8 v, 0)
    | none => none)

/-! ### Exposure (R385, R386) -/

/-- A close (R386). -/
def Expo.close (e : Expo) : Expo :=
  if e.ovf || e.nan then { e with lsexp := max (e.lsexp - 1) (-32), count := 0, skip := true, ovf := false, nan := false }
  else if (e.count + 1) % 2 ^ 16 = e.limit then { e with lsexp := min (e.lsexp + 1) 32, count := 0, skip := false }
  else { e with count := (e.count + 1) % 2 ^ 16, skip := false }

/-- EXPCLOSE; DETAIL is the register after the close (R382). -/
def execExpclose (q : Nat) (s : State) : Out :=
  hostCmd q 0x04 s (fun ws s =>
    let r := cword ws 1
    if 64 ≤ r ∨ !(zeroFrom ws 2) then none
    else
      let e := (mget {} s.expos r).close
      some ({ s with expos := mset {} s.expos r e }, e.word.toNat))

/-- LSEXP of a register's word. -/
def lsexpField (v : Nat) : Int := (BitVec.ofNat 8 (v / 2 ^ 24)).toInt

/-- EXPSET writes LIMIT, COUNT and LSEXP; a reserved bit, a LIMIT of 0 or an LSEXP out of range is refused (R385). -/
def execExpset (q : Nat) (s : State) : Out :=
  hostCmd q 0x05 s (fun ws s =>
    let r := cword ws 1
    let v := cword ws 2
    if 64 ≤ r ∨ !(zeroFrom ws 3) ∨ v / 2 ^ 3 % 2 ^ 21 ≠ 0 ∨ v / 2 ^ 48 = 0 ∨ lsexpField v < -32 ∨ 32 < lsexpField v then none
    else
      let e := mget {} s.expos r
      let e' : Expo := { e with limit := v / 2 ^ 48, count := v / 2 ^ 32 % 2 ^ 16, lsexp := lsexpField v }
      some ({ s with expos := mset {} s.expos r e' }, 0))

/-! ### Translation (R313, R381) -/

/-- Signal updates on their way to a word of a range of an address space (R323). -/
def State.sigsIn (s : State) (asid va n : Nat) : List Nat :=
  (s.sigs.filter (fun x => x.va.any (fun p => p.1 == asid && decide (p.2 < va + n ∧ va < p.2 + 8)))).map Sig.id

/-- These updates are performed. -/
def State.sigsDone (s : State) (ids : List Nat) : Bool := s.sigs.all (fun x => !(ids.contains x.id))

/-- INVAL: no TLB holds an entry of the range; it completes once every access that an old entry translated is performed: a copy's
accesses are as they are translated, a signal's update on its way is waited for (R313). -/
def execInval (q : Nat) (s : State) : Out :=
  match (s.hq q).held with
  | .inval n ids =>
    .next (if s.sigsDone ids then (s.setHq q { s.hq q with held := .none }).conclude q n 0x06 0x00 0 else s)
  | _ =>
    match s.taking q 0x06 with
    | none => .next s
    | some ws =>
      let s1 := s.consume q
      if 2 ^ 11 ≤ cword ws 1 ∨ !(zeroFrom ws 4) then .next (s1.finish q 0x06 0x01 0)
      else
        let s2 := (s1.dropTlbs (fun t =>
          t.asid == cword ws 1 && decide (t.base < cword ws 2 + cword ws 3 ∧ cword ws 2 < t.base + t.size))).keepShut
        let ids := s2.sigsIn (cword ws 1) (cword ws 2) (cword ws 3)
        .next (if ids.isEmpty then s2.finish q 0x06 0x00 0
          else s2.setHq q { s2.hq q with held := .inval (s2.hq q).lcons ids })

/-- Physical addresses of the compute-capable frames that a table maps, `k` levels down (R332). -/
def ccFrames (s : State) : Nat → Nat → List Nat
  | 0, _ => []
  | k + 1, table =>
    (List.range 512).flatMap (fun i =>
      let e := s.readPa (table + 8 * i) 8
      if !pteValid e || pteBad s.ncc (3 - k) e then []
      else if pteLeaf e then (if pteCc e then [ptePa e] else [])
      else ccFrames s k (ptePa e))

/-- Every byte of a channel range lies in a frame that a root table maps as compute-capable (R336); no frame without a root. -/
def State.coveredBy (s : State) (root : Option Nat) (ch base n : Nat) : Bool :=
  match root with
  | none => false
  | some r =>
    let frames := ccFrames s 3 r
    (List.range ((base + n + 2 ^ 21 - 1) / 2 ^ 21 - base / 2 ^ 21)).all (fun i =>
      frames.contains (directBase + ch * 2 ^ 31 + (base / 2 ^ 21 + i) * 2 ^ 21))

/-- The same under the mappings of an address space. -/
def State.covered (s : State) (asid ch base n : Nat) : Bool := s.coveredBy (mget none s.roots asid) ch base n

/-- A root table in place of an address space's would unmap a frame that a valid capability entry of it covers (R332). -/
def State.unmaps (s : State) (asid : Nat) (root : Option Nat) : Bool :=
  s.caps.any (fun e => e.2.valid && e.2.owner == asid &&
    !(s.coveredBy root (32 * (e.1 / 8192) + e.2.ch) (64 * e.2.base) (64 * e.2.len)))

/-- The operands of an ASID command with w3[0] as given. -/
def asidOk (ws : List Nat) (release : Bool) : Bool :=
  decide (cword ws 1 < 2 ^ 11) && cword ws 3 == (if release then 1 else 0) && zeroFrom ws 4

/-- The next command is an ASID command of the other sort. -/
def State.otherAsid (s : State) (q : Nat) (release : Bool) : Bool :=
  match s.taking q 0x07 with
  | some ws => (cword ws 3).testBit 0 != release
  | none => false

/-- ASID_BIND: the root table of an address space; refused where it would unmap a frame under a capability entry (R332, log 42). -/
def execAsidBind (q : Nat) (s : State) : Out :=
  if s.otherAsid q false then .next s
  else hostCmd q 0x07 s (fun ws s =>
    if asidOk ws false && !(s.unmaps (cword ws 1) (some (cword ws 2))) then
      some ((({ s with roots := mset none s.roots (cword ws 1) (some (cword ws 2)) } : State).keepShut), 0) else none)

/-- ASID_RELEASE; refused while a capability entry covers one of its frames (R332, log 42). -/
def execAsidRelease (q : Nat) (s : State) : Out :=
  if s.otherAsid q true then .next s
  else hostCmd q 0x07 s (fun ws s =>
    if asidOk ws true && !(s.unmaps (cword ws 1) none) then some ({ s with roots := mset none s.roots (cword ws 1) none }, 0) else none)

/-! ### Capabilities (R336, R337, R349 to R351) -/

/-- An FP32 pattern is finite. -/
def fp32Finite (w : Nat) : Bool := w / 2 ^ 23 % 256 != 255

/-- The configuration of a region is refused (R349). -/
def regionBad (w4 w5 w6 : Nat) : Bool :=
  !([w4 / 2 ^ 32, w4 % 2 ^ 32, w5 / 2 ^ 32, w5 % 2 ^ 32, w6 / 2 ^ 32].all fp32Finite) || w6 / 2 ^ 14 % 4 == 3 || w6 % 2 ^ 10 != 0

/-- Signed byte. -/
def sbyte (v : Nat) : Int := (BitVec.ofNat 8 v).toInt

/-- The entry that a CAP command describes (R336, R349, R381). -/
def capEntry (ws : List Nat) (gen : Nat) : Cap :=
  let w1 := cword ws 2
  let w0 := cword ws 3
  let r4 := cword ws 4
  let r5 := cword ws 5
  let r6 := cword ws 6
  { valid := true, filter := w0.testBit 62, tick := w0.testBit 61, tap := w0.testBit 60, sample := w0.testBit 59
    dot := w0.testBit 58, copy := w0.testBit 57, owner := w0 / 2 ^ 46 % 2 ^ 11, gen := gen, ch := w1 / 2 ^ 59
    base := w1 / 2 ^ 34 % 2 ^ 25, len := w1 / 2 ^ 9 % 2 ^ 25, cb0 := r4 / 2 ^ 32, cb1 := r4 % 2 ^ 32, cb2 := r5 / 2 ^ 32
    ca1 := r5 % 2 ^ 32, ca2 := r6 / 2 ^ 32, ein := sbyte (r6 / 2 ^ 24), es := sbyte (r6 / 2 ^ 16), xf := r6 / 2 ^ 14 % 4
    fx := r6.testBit 13, rz := r6.testBit 12, tfmt := r6 / 2 ^ 10 % 4 }

/-- The range shares a byte with a valid entry of the other kind (R350). -/
def State.capClash (s : State) (stack : Nat) (e : Cap) : Bool :=
  s.caps.any (fun x => x.1 / 8192 == stack && x.2.valid && x.2.ch == e.ch && x.2.filter != e.filter &&
    decide (x.2.base < e.base + e.len ∧ e.base < x.2.base + x.2.len))

/-- A CAP command that creates is refused (R336, R349, R350, R381). -/
def State.createBad (s : State) (ws : List Nat) : Bool :=
  let stack := cword ws 1 / 2 ^ 29
  let e := capEntry ws 0
  decide (8 ≤ stack) || cword ws 1 % 2 ^ 29 != 0 || cword ws 2 % 2 ^ 9 != 0 || cword ws 3 / 2 ^ 63 != 0 ||
  cword ws 3 % 2 ^ 46 != 0 || cword ws 7 != 0 || e.len == 0 ||
  (if e.filter then regionBad (cword ws 4) (cword ws 5) (cword ws 6) else !(zeroFrom ws 4)) ||
  !(s.covered e.owner (32 * stack + e.ch) (64 * e.base) (64 * e.len)) || s.capClash stack e

/-- INDEX of the new entry: one that is not valid, and whose revocation is complete, so that a command which started under it
keeps the values it checked (R337); the command processor's choice (log 9). -/
def State.freeIndex (s : State) (stack : Nat) : Option Nat :=
  ((List.range 8192).map (fun i => (s.free + i) % 8192)).find? (fun i =>
    !(s.cap (8192 * stack + i)).valid && !(s.revokes.any (fun r => r.key == 8192 * stack + i)))

/-- The next command is a CAP command of the other sort. -/
def State.otherCap (s : State) (q : Nat) (revoke : Bool) : Bool :=
  match s.taking q 0x08 with
  | some ws => (cword ws 1).testBit 63 != revoke
  | none => false

/-- CAP_CREATE; DETAIL is the handle; a FILTER entry takes the rights of the pages that map its bytes (R336, R349, R350, R382). -/
def execCapCreate (q : Nat) (s : State) : Out :=
  if s.otherCap q false then .next s
  else hostCmd q 0x08 s (fun ws s =>
    let stack := cword ws 1 / 2 ^ 29
    match s.freeIndex stack with
    | none => none
    | some i =>
      if s.createBad ws then none
      else
        let key := 8192 * stack + i
        let gen := ((s.cap key).gen + 1) % 2 ^ 16
        let e := capEntry ws gen
        let cells := if e.filter then regionCells key e else []
        let s1 := { s with cells := s.cells.filter (fun c => !(cells.contains (32 * c.1)))
                           poison := s.poison.filter (fun p => !(cells.contains (64 * p))) }
        some ((s1.draw.setCap key e).keepShut, stack * 2 ^ 29 + i * 2 ^ 16 + gen))

/-- A command in flight that started under an entry (R337). -/
def Cmd.startedUnder (c : Cmd) (key : Nat) : Bool :=
  let names (l : List (BitVec 64)) : Bool := l.any (fun w => handleKey (capHandle w) == key)
  match c.job with
  | .coll _ => c.stage != .queued && ((c.ring.desc[0]?).getD 0).testBit 37 && names [BitVec.ofNat 64 ((c.ring.desc[5]?).getD 0)]
  | .ftick gn _ => (c.stage == .performed || !c.left.isEmpty) && names (c.words.take gn)
  | .nmcopy _ => c.stage == .performed && names (c.words.take 2)
  | .nmdot | .fsamp _ | .ftap | .freset _ => (c.stage == .performed || c.nm.phase != .fresh) && names (c.words.take 1)
  | _ => false

/-- CAP_REVOKE: a FILTER region is swept; V ← 0 and GEN + 1; the command completes later (R337, R351). -/
def execCapRevoke (q : Nat) (s : State) : Out :=
  if s.otherCap q true then .next s
  else
    match s.taking q 0x08 with
    | none => .next s
    | some ws =>
      let h := cword ws 1 % 2 ^ 32
      let key := handleKey h
      let e := s.cap key
      let s1 := s.consume q
      if cword ws 1 / 2 ^ 32 ≠ 2 ^ 31 ∨ !(zeroFrom ws 2) ∨ !e.valid ∨ e.gen ≠ handleGen h then .next (s1.finish q 0x08 0x01 0)
      else
        let s2 := if e.filter then s1.sweep key else s1
        let cmds := (s2.cmdList.filter (fun c => c.startedUnder key)).map Cmd.id
        let r : Revoke := { queue := q, seq := (s1.hq q).lcons, handle := h, key := key, cmds := cmds }
        let s3 := s2.setCap key { e with valid := false, gen := (e.gen + 1) % 2 ^ 16 }
        .next { s3 with revokes := s3.revokes ++ [r] }

/-- Every command that started under a revoked entry has set its tag. -/
def State.revokeOver (s : State) (r : Revoke) : Bool := r.cmds.all (fun id => (s.cmd? id).isNone)

/-- A cell belongs to another FILTER entry, which is valid or not yet revoked. -/
def State.sharedCell (s : State) (key a : Nat) : Bool :=
  s.caps.any (fun e => e.1 != key && e.2.filter && (e.2.valid || s.revokes.any (fun r => r.key == e.1)) &&
    (regionCells e.1 e.2).contains a)

/-- The cells of a revoked region become the bytes they stand for, but for those that another entry still has as cells (R351,
R352). -/
def State.cellsToBytes (s : State) (key : Nat) : State :=
  let e := s.cap key
  let t := s.sweep key
  ((regionCells key e).filter (fun a => !(s.sharedCell key a))).foldl (fun x a =>
    { x.writeSys a 32 (x.cell a).bytes with cells := merase x.cells (a / 32) }) t

/-- REVOCATION_COMPLETE of a handle; DETAIL is the handle. The command processor may restore the rights of the pages of a FILTER region:
whether it does is free (R337, R351, R382). -/
def execRevocationComplete (handle : BitVec 32) (s : State) : Out :=
  match s.revokes.find? (fun r => r.handle == handle.toNat) with
  | none => .next s
  | some r =>
    if s.revokeOver r then
      let s1 := if (s.cap r.key).filter then s.cellsToBytes r.key else s
      let s2 := { s1 with revokes := s1.revokes.filter (fun x => x != r) }
      let s3 := if !((s.cap r.key).filter) then s2 else if s2.free % 2 = 1 then s2.draw.reopen else s2.draw
      .next (s3.conclude r.queue r.seq 0x08 0x00 r.handle)
    else .next s

/-! ### HEALTH and ATTEST (R398, R400) -/

/-- A mask of the numbers below `n` for which a test holds. -/
def maskOf (n : Nat) (p : Nat → Bool) : Nat := (List.range n).foldl (fun m i => if p i then m + 2 ^ i else m) 0

/-- Word `i` of HEALTH (R400): retired benches, ports and stacks with REPLACE, then the channels of each stack. -/
def State.health (s : State) (i : Nat) : Nat :=
  let benches := maskOf 8 (fun b => (s.bench (b / 4) (b % 4)).retired)
  let ports := maskOf 32 (fun p => (mget {} s.ports p).retired)
  let badStacks := maskOf 8 (fun k => s.deadChs.any (fun c => c / 32 == k))
  if i = 0 then
    (if benches + ports + badStacks = 0 then 0 else 2 ^ 63) + benches * 2 ^ 40 + ports * 2 ^ 8 + badStacks
  else maskOf 32 (fun c => s.deadChs.contains (32 * (i - 1) + c))

/-- First 192 bytes of an attestation report: nonce, digest with its first byte first, version, DCFG, HEALTH (R398, log 11). -/
def State.reportBody (s : State) (nonce : Nat) : Nat :=
  nonce + bigEndian 32 s.image.1.toNat * 2 ^ 256 + s.image.2 * 2 ^ 512 + s.ncc * 2 ^ 576 +
    ((List.range 9).foldl (fun v i => v + s.health i * 2 ^ (64 * i)) 0) * 2 ^ 640

/-- ATTEST: a report signed with the identity key; the secret of the signature is free (R398). -/
def execAttest (q : Nat) (s : State) : Out :=
  hostCmd q 0x09 s (fun ws s =>
    if !(zeroFrom ws 6) ∨ !(s.dramRange (cword ws 1) 256) then none
    else
      let nonce := (List.range 4).foldl (fun v i => v + cword ws (2 + i) * 2 ^ (64 * i)) 0
      let body := s.reportBody nonce % 2 ^ 1536
      let sig := ecdsaSign s.free Config.identityKey (sha256 192 body)
      some ((State.writePaLong 3 s.draw (cword ws 1) 256 (body + sig.toNat * 2 ^ 1536)), 0))

/-! ### PREEMPT and RESUME (R388) -/

/-- Keys of the kernels of a queue that are not yet complete, their descendants included. -/
def State.kernelsOf (s : State) (q : Nat) : List Nat := (s.kernels.filter (fun e => e.2.alive && e.2.queue == q)).map Prod.fst

/-- Contexts of the kernels of a queue. -/
def State.queueCtxs (s : State) (q : Nat) : List Nat := (s.kernelsOf q).flatMap (fun k => s.ctxsOf k)

/-- Set or clear the mark that keeps the contexts of a queue's kernels frozen, of those admitted to it later too (DESIGN CHOICE, log
40). -/
def State.holdQueue (s : State) (q : Nat) (on : Bool) : State := s.setHq q { s.hq q with frozen := on }

/-- A context needs no freeze: it has exited, or it is saved. -/
def State.away (s : State) (u : Nat) : Bool :=
  let c := s.ctx u
  match c.life with
  | .running => false
  | .frozen | .trapped => c.released || c.lost
  | _ => true

/-- Operands of PREEMPT and RESUME. -/
def queueOk (ws : List Nat) : Bool := decide (cword ws 1 < 64) && zeroFrom ws 2

/-- PREEMPT: the queue is marked, and the contexts of its kernels are frozen one by one on each core (R211); the command
completes once every one is saved. -/
def execPreempt (q : Nat) (s : State) : Out :=
  match (s.hq q).held with
  | .preempt n tq =>
    .next (if (s.queueCtxs tq).all s.away then
        (s.setHq q { s.hq q with held := .none }).conclude q n 0x0A 0x00 0 else s)
  | _ =>
    match s.taking q 0x0A with
    | none => .next s
    | some ws =>
      let s1 := s.consume q
      if queueOk ws then
        let s2 := s1.holdQueue (cword ws 1) true
        .next (s2.setHq q { s2.hq q with held := .preempt (s2.hq q).lcons (cword ws 1) })
      else .next (s1.finish q 0x0A 0x01 0)

/-- No context of a queue's kernels is frozen, and each that was resumed is bound again: its resume cycle has come (R217). -/
def State.queueBack (s : State) (q : Nat) : Bool :=
  (s.queueCtxs q).all (fun u => let c := s.ctx u
    c.life != .frozen && (c.life != .running || decide (c.resumeAt ≤ s.cycle)))

/-- RESUME: the queue is released; the command completes once its kernels' contexts are bound again. -/
def execResumeCommand (q : Nat) (s : State) : Out :=
  match (s.hq q).held with
  | .resume n tq =>
    .next (if s.queueBack tq then
        (s.setHq q { s.hq q with held := .none }).conclude q n 0x0B 0x00 0 else s)
  | _ =>
    match s.taking q 0x0B with
    | none => .next s
    | some ws =>
      let s1 := s.consume q
      if queueOk ws then
        let s2 := s1.holdQueue (cword ws 1) false
        .next (s2.setHq q { s2.hq q with held := .resume (s2.hq q).lcons (cword ws 1) })
      else .next (s1.finish q 0x0B 0x01 0)

/-! ### ABORT and CRESUME (R380, R383, R384) -/

/-- The first ABORT, or CRESUME, that is available and not yet taken (R380); `fuel` bounds the search. -/
def State.earlyFrom (s : State) (q op : Nat) : Nat → Nat → Option (Nat × List Nat)
  | 0, _ => none
  | k + 1, n =>
    let h := s.hq q
    if !(h.given n) then none
    else
      let ws := s.slotWords q n
      if !(h.early.contains n) && (badStatus n ws).isNone && cOp ws == op then some (n, ws)
      else s.earlyFrom q op k ((n + 1) % 2 ^ 32)

/-- It, where the queue is served. -/
def State.takingEarly (s : State) (q op : Nat) : Option (Nat × List Nat) :=
  if s.served q then s.earlyFrom q op (s.hq q).slots (s.hq q).next else none

/-- Take a command ahead of its turn. -/
def State.consumeEarly (s : State) (q n : Nat) : State :=
  let h := s.hq q
  State.settleQueue ringMax (s.setHq q { h with early := h.early ++ [n] }) q

/-- The kernel that an ABORT names. -/
def State.abortTarget (s : State) (ws : List Nat) : Option Nat :=
  let byKid := cword ws 1 / 2 ^ 63 = 1
  let l := s.kernels.filter (fun e => e.2.alive &&
    (if byKid then e.2.kid == cword ws 1 % 2 ^ 12
     else e.2.parent.isNone && e.2.queue == cword ws 1 && e.2.seq == cword ws 2))
  (l.head?).map Prod.fst

/-- The operands of an ABORT. -/
def abortOk (ws : List Nat) : Bool :=
  if cword ws 1 / 2 ^ 63 = 1 then cword ws 1 % 2 ^ 63 / 2 ^ 12 == 0 && zeroFrom ws 2
  else decide (cword ws 1 < 64 ∧ cword ws 2 < 2 ^ 32) && zeroFrom ws 3

/-- A kernel and those it or its descendants launched, complete ones among them; `fuel` bounds the generations. -/
def State.family (s : State) : Nat → List Nat → List Nat
  | 0, l => l
  | k + 1, l =>
    let more := (s.kernels.filter (fun e => !(l.contains e.1) &&
      (match e.2.parent with | some p => l.contains p | none => false))).map Prod.fst
    if more.isEmpty then l else s.family k (l ++ more)

/-- Discard a child that waits in the pool: its entry is freed and its CSIG addition performed (R383). -/
def State.dropChild (s : State) (c : Child) : State :=
  let p := s.kernel c.parent
  let t := s.rejectChild c (s.childHeader c)
  t.setKernel c.parent { t.kernel c.parent with lrej := p.lrej }

/-- ABORT (R383). The queue of the kernel goes on where only a discarded child held its next command back (R322, R380). -/
def execAbort (q : Nat) (s : State) : Out :=
  match s.takingEarly q 0x0C with
  | none => .next s
  | some (n, ws) =>
    let s1 := s.consumeEarly q n
    match s1.abortTarget ws, abortOk ws with
    | some key, true =>
      let all := s1.family s1.kernels.length [key]
      let fam := all.filter (fun k => (s1.kernel k).alive)
      let s2 := (fam.flatMap (fun k => s1.ctxsOf k)).foldl State.doom s1
      let s3 := (s2.pool.filter (fun c => all.contains c.parent)).foldl State.dropChild s2
      let s4 := fam.foldl (fun t k => t.setKernel k { t.kernel k with aborted := true }) s3
      let s5 := State.settleQueue ringMax s4 (s1.kernel key).queue
      .next { s5 with aborts := s5.aborts ++ [{ queue := q, seq := n, kernels := fam }] }
    | _, _ => .next (s1.conclude q n 0x0C 0x01 0)

/-- The trapped context that a CRESUME names (R384). -/
def State.cresumeTarget (s : State) (ws : List Nat) : Option Nat :=
  match (s.kernels.filter (fun e => e.2.alive && e.2.kid == cword ws 1)).head? with
  | none => none
  | some e => (s.ctxs.find? (fun x => x.2.kernel == e.1 && x.2.worker == cword ws 2 && x.2.life == .trapped && !x.2.lost &&
      s.trapResume x.1 != 2 ^ 64 - 1)).map Prod.fst

/-- A CRESUME that has been consumed can go on: its context can be restored, or is no longer stopped at a trap; or, once it is
restored, its resume cycle has come, or it was lost with its bench. -/
def State.cresumeOver (s : State) (r : Cresume) : Bool :=
  let c := s.ctx r.ctx
  match r.at_ with
  | some z => decide (z ≤ s.cycle) || c.lost
  | none => !(c.life == .trapped && !c.lost) || s.canResume r.ctx

/-- A queue has a CRESUME to consume, or one to complete. -/
def State.cresumeDue (s : State) (q : Nat) : Bool :=
  s.cresumes.any (fun r => r.queue == q && s.cresumeOver r) || (s.takingEarly q 0x0D).isSome

/-- A CRESUME goes on: the context is restored and its resume cycle Z chosen, once its save is over and its hardware context free; the
command completes when it is bound again, at Z (R217, R384). -/
def State.endCresume (s : State) (r : Cresume) : State :=
  let s1 := { s with cresumes := s.cresumes.filter (fun x => x != r) }
  match r.at_ with
  | some z => s1.conclude r.queue r.seq 0x0D (if z ≤ s.cycle then 0x00 else 0x01) 0
  | none =>
    if s.canResume r.ctx ∧ (s.ctx r.ctx).life = .trapped then
      let z := s.cycle + 1 + s.free
      let t := s1.draw.resume r.ctx z
      { t with cresumes := t.cresumes ++ [{ r with at_ := some z }] }
    else s1.conclude r.queue r.seq 0x0D 0x01 0

/-- CRESUME: consumed as soon as it is available (R380); refused where there is no such context, or its RESUME is all ones. -/
def execCresume (q : Nat) (s : State) : Out :=
  match s.cresumes.find? (fun r => r.queue == q && s.cresumeOver r) with
  | some r => .next (s.endCresume r)
  | none =>
  match s.takingEarly q 0x0D with
  | none => .next s
  | some (n, ws) =>
    match s.cresumeTarget ws, zeroFrom ws 3 with
    | some u, true =>
      let s1 := s.consumeEarly q n
      .next { s1 with cresumes := s1.cresumes ++ [{ queue := q, seq := n, ctx := u }] }
    | _, _ => .next ((s.consumeEarly q n).conclude q n 0x0D 0x01 0)

end Sys2Proof.Machine
end

