-- ==== Sys2Proof/Machine/Fabric.lean ====
section
/-! DEFINITION. The fabric: flits, ports and planes (R404, R405), the link queues (R411), accesses that arrive from other
devices (R407, R408), and an answer that does not come (R409). -/

namespace Sys2Proof.Machine

def State.port (s : State) (p : Nat) : Port := mget {} s.ports p

def State.setPort (s : State) (p : Nat) (x : Port) : State := { s with ports := mset {} s.ports p x }

/-- Key of a link queue (R411). -/
def linkKey (plane dev : Nat) : Nat := 512 * plane + dev

/-- Flits of a write of `n` bytes: 112 bytes of payload in each (R404). -/
def flitsOf (n : Nat) : Nat := (n + 111) / 112

/-- Flits a port holds for replay (R404). -/
def replayMax : Nat := 1024

/-! ### Planes that go (R400, R405) -/

/-- A write of the command stands in a link queue. -/
def State.linked (s : State) (id : Nat) : Bool := s.links.any (fun l => l.2.any (fun e => e.cmd == id))

/-- A command uses plane `p` still: it has transfers to make there, or writes that a link queue holds. -/
def State.usesPlane (s : State) (p : Nat) (c : Cmd) : Bool :=
  c.routes.any (fun r => r.2 == p) && (c.stage != .performed || s.linked c.id)

/-- Commands and queued writes of a retired plane go on through another live plane (R405). -/
def State.switchPlane (s : State) (p q : Nat) : State :=
  let cmds := s.cmdList.filter (s.usesPlane p)
  let s1 := cmds.foldl (fun t c => t.setCmd { c with routes := c.routes.map (fun r => (r.1, if r.2 = p then q else r.2)) }) s
  let mine := s1.links.filter (fun l => l.1 / 512 == p)
  let rest := s1.links.filter (fun l => l.1 / 512 != p)
  let add (m : Map (List LinkEnt)) (l : Nat × List LinkEnt) : Map (List LinkEnt) :=
    let k := linkKey q (l.1 % 512)
    mset [] m k (mget [] m k ++ l.2)
  let s2 := { s1 with links := mine.foldl add rest }
  let x := s2.port q
  s2.setPort q { x with unacked := min replayMax (x.unacked + (s2.port p).unacked) }

/-- Devices that owe a command an answer: those of its writes that a link queue holds, and that of the move in hand. -/
def State.awaited (s : State) (c : Cmd) : List Nat :=
  (s.links.filter (fun l => l.2.any (fun e => e.cmd == c.id))).map (fun l => l.1 % 512) ++
    (match c.stage, addrWord (c.word (c.moveAt c.run.move).word) with
     | .performed, _ => []
     | _, .fabric dev _ _ => if c.routes.any (fun r => r.1 == dev) then [dev] else []
     | _, _ => [])

/-- The device whose answer a command has lost: one of those that owe it one, else one that it still has transfers to make to; which one
is not this device's to know (log 21). -/
def State.lostDev (s : State) (c : Cmd) : Nat :=
  let l := s.awaited c
  let l := if l.isEmpty then c.routes.map Prod.fst else l
  (l[s.free % l.length]?).getD 0

/-- No plane is left: copy commands that have started end with STATUS 0x0D, rings that leave the device are lost, and the link queues hold
nothing more: the device runs on as a single device (R405, R422). -/
def State.losePlanes (s : State) (p : Nat) : State :=
  let cmds := s.cmdList.filter (fun c => s.usesPlane p c && !c.job.isColl)
  let s1 := cmds.foldl (fun t c => (t.endRemote c.id 0x0D (t.lostDev c)).draw) s
  s1.cmdList.foldl (fun t c => t.loseRing c) { s1 with links := [] }

/-- A port is retired (R400, R404, R405). -/
def State.retirePort (s : State) (p : Nat) : State :=
  let s1 := s.setPort p { s.port p with retired := true, retrain := false }
  let s2 := { s1 with reports := s1.reports ++ [Report.retired (.port p)] }
  let l := s2.livePlanes
  let s3 :=
    match l[s2.free % l.length]? with
    | some q => s2.draw.switchPlane p q
    | none => s2.losePlanes p
  s3.setPort p { s3.port p with unacked := 0, replays := 0 }

/-! ### Flits (R404) -/

/-- The port replays from its oldest unacknowledged flit; after 64 replays of one flit it retrains. -/
def Port.replay (x : Port) : Port :=
  if x.retired ∨ x.retrain ∨ x.unacked = 0 then x
  else if x.replays + 1 = 64 then { x with replays := 0, retrain := true }
  else { x with replays := x.replays + 1 }

/-- FLIT_CRC_ERROR. -/
def execFlitCrcError (p : Nat) (s : State) : Out := .next (if p < 32 then s.setPort p (s.port p).replay else s)

/-- ACK_TIMEOUT: no acknowledgement within 2 µs. -/
def execAckTimeout (p : Nat) (s : State) : Out := .next (if p < 32 then s.setPort p (s.port p).replay else s)

/-- LINK_RETRAIN: the link is lost. -/
def execLinkRetrain (p : Nat) (s : State) : Out :=
  .next (if p < 32 ∧ !(s.port p).retired then s.setPort p { s.port p with retrain := true, replays := 0 } else s)

/-- FLIT_ACKNOWLEDGEMENT of `n` flits, oldest first. -/
def execFlitAcknowledgement (p n : Nat) (s : State) : Out :=
  let x := s.port p
  .next (if p < 32 ∧ 0 < n ∧ n ≤ x.unacked then s.setPort p { x with unacked := x.unacked - n, replays := 0 } else s)

/-- RETRAINING_END: it worked, or it failed; three failures within 1 ms retire the port. -/
def execRetrainingEnd (p : Nat) (ok : Bool) (s : State) : Out :=
  let x := s.port p
  if p < 32 ∧ x.retrain then
    if ok then .next (s.setPort p { x with retrain := false })
    else
      let f := x.fails.filter (fun t => decide (s.scht ≤ t + 1000)) ++ [s.scht]
      if 3 ≤ f.length then .next ((s.setPort p { x with fails := [] }).retirePort p)
      else .next (s.setPort p { x with fails := f })
  else .next s

/-! ### Link queues (R411) -/

/-- The oldest entry of a link queue may be sent: the link is up, and the replay store has room for its flits. -/
def State.canDeliver (s : State) (plane dev : Nat) : Option LinkEnt :=
  match mget [] s.links (linkKey plane dev) with
  | [] => none
  | e :: _ => if plane < 32 ∧ dev < 512 ∧ s.portOpen plane e.wr.n then some e else none

/-- LINK_QUEUE_DELIVER: the oldest entry leaves with its job tag, and its write has reached the target; or every route to the target has
been lost, which is not this device's to know, and its command ends with STATUS 0x0D (R405, R407, R409, R411; log 21). -/
def execLinkQueueDeliver (plane dev : Nat) (s : State) : Out :=
  match s.canDeliver plane dev with
  | some e =>
    let k := linkKey plane dev
    let s1 := { s.draw with links := mset [] s.links k ((mget [] s.links k).drop 1) }
    .next (if s.free % 2 = 1 then s1.endRemote e.cmd 0x0D dev
      else (s1.sendFlits plane e.wr.n).sendRequest true e.wr.loc e.wr.n e.wr.val e.job.toNat)
  | none => .next s

/-! ### Accesses from other devices (R407, R408) -/

/-- STATUS of an access to an export entry: 0 where it is allowed (R407, R409). -/
def State.exportStatus (s : State) (wr : Bool) (exp off job n : Nat) : Nat :=
  let e := mget (0, 0) s.exports exp
  if !e.1.getLsbD 63 || e.1.toNat / 2 ^ 45 % 2 ^ 16 != job || !(e.1.getLsbD (if wr then 61 else 62)) then 0x0A
  else if 4096 * (e.1.toNat % 2 ^ 28) < off + n then 0x0B
  else 0

/-- Physical address an access reaches (R407). -/
def State.exportPa (s : State) (exp off : Nat) : Nat := (mget (0, 0) s.exports exp).2.toNat / 2 ^ 12 % 2 ^ 40 * 2 ^ 12 + off

/-- A byte as a remote party reads it: from what its view holds of the system commit point, and from its own writes that await
their publication; neither is this device's to know (R103, R410, log 21). -/
def State.readRemote (s : State) (pend : List Wr) (p a : Nat) : Nat → Nat
  | 0 => 0
  | n + 1 =>
    (match paLoc s.ncc a with
      | some l => if s.deadAt l then s.lostByte l else
          match (lastTo l pend).or (lastTo l ((s.order 131).take p)) with
          | some w => w.byteAt l
          | none => readByte s.mem l
      | none => s.holeByte a).toNat + 256 * s.readRemote pend p (a + 1) n

/-- Bytes of a range of physical addresses are marked, or lost with their channel (R331, R399). -/
def State.physBad (s : State) : Nat → Nat → Nat → Bool
  | 0, _, _ => false
  | k + 1, pa, n =>
    if n = 0 then false
    else
      let m := min n (4096 - pa % 4096)
      (paLoc s.ncc pa).any (fun a => s.deadAt a || s.poisoned a m) || s.physBad k (pa + m) (n - m)

/-- A remote write arrives: it joins the system commit point once its sender publishes it at SYS, at a time that is not this
device's to know (R410, R412); cut at the granules of the interleave. -/
def State.arriveWrite (s : State) (job : Nat) : Nat → Nat → Nat → Nat → State
  | 0, _, _, _ => s.draw
  | k + 1, pa, n, v =>
    if n = 0 then s.draw
    else
      let m := min n (4096 - pa % 4096)
      let s1 := match paLoc s.ncc pa with
        | some a =>
          if s.deadAt a then s
          else
            let x : Inbound := { job := job, due := s.cycle + 1 + s.free, wr := ⟨s.nextId, a, m, v % 256 ^ m⟩ }
            { s with nextId := s.nextId + 1, inbound := s.inbound ++ [x] }
        | none => s
      s1.arriveWrite job k (pa + m) (n - m) (v / 256 ^ m)

/-- The ports through which an answer of `n` bytes can leave now (R404). -/
def State.openPorts (s : State) (n : Nat) : List Nat := (List.range 32).filter (fun p => s.portOpen p n)

/-- Bytes of an answer: those of a read, or a verdict. -/
def answerLen (wr : Bool) (n : Nat) : Nat := if wr then 16 else n

/-- The answer leaves through an open port: that of the plane by which the access came, which is not this device's to know (log 21). -/
def State.answer (s : State) (n : Nat) (r : Report) : State :=
  let l := s.openPorts n
  { (s.sendFlits ((l[s.free % l.length]?).getD 0) n).draw with reports := s.reports ++ [r] }

/-- REMOTE_ACCESS: an access of `n` bytes arrives with its job tag, is checked and is performed as a NORMAL access.
With no port live nothing arrives (R405); while no link is up, or none has room for the answer, the access waits (R404).
A byte of an export that lies outside device DRAM is no place: a write leaves it out, a read finds a free value (log 26). -/
def execRemoteAccess (wr : Bool) (exp off job n data : Nat) (s : State) : Out :=
  if !s.fabEn || s.livePlanes.isEmpty then .next s
  else
    let st := s.exportStatus wr exp off job n
    let pa := s.exportPa exp off
    let len := answerLen (wr || st != 0) n
    if (s.openPorts len).isEmpty then .next { s with agenda := s.agenda ++ [(s.cycle + 1, .remoteAccess wr exp off job n data)] }
    else if st ≠ 0 then .next (s.answer len (.remote st 0 false))
    else if wr then .next ((s.arriveWrite job (n / 4096 + 2) pa n data).answer len (.remote 0 0 false))
    else
      let own := (s.inbound.filter (fun x => x.job == job)).map Inbound.wr
      let v := s.readRemote (own.take (s.draw.free % (own.length + 1))) (s.free % ((s.order 131).length + 1)) pa n
      .next (s.draw.draw.answer len (.remote 0 v (s.physBad (n / 4096 + 2) pa n)))

/-- REMOTE_TIMEOUT: a target that owes the command an answer does not answer within 1 s, or was reset; a ring has lost its neighbour (R409, R422). -/
def execRemoteTimeout (id : Nat) (s : State) : Out :=
  match s.cmd? id with
  | some c =>
    if c.job.isColl then .next (s.loseRing c)
    else if (s.awaited c).isEmpty then .next s
    else .next (s.draw.endRemote id 0x0E (s.lostDev c))
  | none => .next s

end Sys2Proof.Machine
end

