-- ==== Sys2Proof/Machine/HostHealth.lean ====
section
/-! DEFINITION. The host and device health: registers of aperture 1 (R328, R379, R389, R390, R394, R403, R407, R415),
stores and loads through aperture 0 (R115, R393), device reset and boot (R395, R396), errors and retirement (R331, R399,
R400), the schedule counter (R7) and the budget period (R390). -/

namespace Sys2Proof.Machine

/-- Aperture 1 holds its registers once firmware runs (R395). -/
def State.open1 (s : State) : Bool := s.boot == .running

/-! ### Registers until the first admission -/

/-- DCFG_WRITE (R328). -/
def execDcfgWrite (v : BitVec 64) (s : State) : Out :=
  .next (if s.open1 ∧ !s.locked then { s with ncc := v.toNat % 2 ^ 10 } else s)

/-- EVBASE_WRITE (R389). -/
def execEvbaseWrite (d : Nat) (v : BitVec 64) (s : State) : Out :=
  .next (if s.open1 ∧ !s.locked ∧ d < 2 then { s with evbase := mset 0 s.evbase d (v &&& 0x800FFFFFF0000000#64) } else s)

/-- FABCFG_WRITE (R403). -/
def execFabcfgWrite (v : BitVec 64) (s : State) : Out :=
  .next (if s.open1 ∧ !s.locked then { s with fabcfg := v &&& 0xFFDFF#64 } else s)

/-! ### Weights and budgets (R390, R415) -/

/-- ARBW of a die in force. -/
def State.arbwOf (s : State) (d : Nat) : BitVec 64 := (mget none s.arbw d).getD 0x0808

/-- A weight written as 0 is ignored. -/
def weight (new old : Nat) : Nat := if new = 0 then old else new

/-- ARBW_WRITE: in force from the next period on. -/
def execArbwWrite (d : Nat) (v : BitVec 64) (s : State) : Out :=
  let old := ((mget none s.arbwNext d).getD (s.arbwOf d)).toNat
  let w := weight (v.toNat % 2 ^ 8) (old % 2 ^ 8) + 2 ^ 8 * weight (v.toNat / 2 ^ 8 % 2 ^ 8) (old / 2 ^ 8 % 2 ^ 8)
  .next (if s.open1 ∧ d < 2 then { s with arbwNext := mset none s.arbwNext d (some (BitVec.ofNat 64 w)) } else s)

/-- Reset SHARE of the budget registers, in the order of R390's table: host DMA, fabric ingress, fabric egress, collective
engine, copy engines of priority 0 to 7, filter and near-memory, refresh and scrub, telemetry. -/
def budgetReset : List Nat := [256, 256, 256, 192, 256, 256, 256, 256, 256, 256, 256, 256, 224, 16, 4]

/-- A budget register in force. -/
def State.budgetOf (s : State) (i : Nat) : BitVec 64 := (mget none s.budgets i).getD (BitVec.ofNat 64 ((budgetReset[i]?).getD 0))

/-- BUDGET_WRITE: in force from the next period on. -/
def execBudgetWrite (i : Nat) (v : BitVec 64) (s : State) : Out :=
  .next (if s.open1 ∧ i < budgetReset.length then { s with budNext := mset none s.budNext i (some (v &&& 0x1FF#64)) } else s)

/-- A write takes the place of what stands. -/
def overlay {α : Type} [DecidableEq α] (next : Map (Option α)) (m : Map (Option α)) : Map (Option α) :=
  next.foldl (fun t e => mset none t e.1 e.2) m

/-- BUDGET_PERIOD: 4,096 bc have passed (R390). -/
def execBudgetPeriod (s : State) : Out :=
  .next { s with budgets := overlay s.budNext s.budgets, budNext := [], arbw := overlay s.arbwNext s.arbw, arbwNext := [] }

/-- SCHEDULE_TICK: SCHT advances (R7), modulo 2^64 (DESIGN CHOICE, log 1). -/
def execScheduleTick (s : State) : Out := .next { s with scht := (s.scht + 1) % 2 ^ 64 }

/-- PATROL_SCRUB: it reads every byte of a channel; what it finds is an ECC_ERROR step. -/
def execPatrolScrub (_ch : Nat) (s : State) : Out := .next s

/-! ### Other registers of aperture 1 (R379, R394, R395, R407) -/

/-- Bits of QRING and QCOMP that a write sets, and of QCFG. -/
def ringMask : BitVec 64 := 0x800FFFFFFFFFFFC0#64
def cfgMask : BitVec 64 := 0xF0701#64

/-- REGISTER_WRITE. -/
def execRegisterWrite (r : ApReg) (v : BitVec 64) (s : State) : Out :=
  match r with
  | .bootaddr => .next { s with bootaddr := v }
  | .qring q => .next (if s.open1 ∧ q < 64 then s.setHq q { s.hq q with ring := v &&& ringMask } else s)
  | .qcomp q => .next (if s.open1 ∧ q < 64 then s.setHq q { s.hq q with comp := v &&& ringMask } else s)
  | .qcfg q =>
    .next (if s.open1 ∧ q < 64 then State.settleQueue ringMax (s.setHq q { s.hq q with cfg := v &&& cfgMask }) q else s)
  | .qprog _ => .next s
  | .jobTag a => .next (if s.open1 ∧ a < 2 ^ 11 then { s with jobTags := mset 0 s.jobTags a (v.setWidth 16) } else s)

/-- EXPORT_ENTRY_WRITE (R407). -/
def execExportEntryWrite (i : Nat) (w0 w1 : BitVec 64) (s : State) : Out :=
  .next (if s.open1 ∧ i < 256 then
      { s with exports := mset (0, 0) s.exports i (w0 &&& 0xFFFFE0000FFFFFFF#64, w1 &&& 0x000FFFFFFFFFF000#64) } else s)

/-! ### Aperture 0 (R115, R392, R393) -/

/-- HOST_STORE: appended to the system commit point; aperture 0 refuses it until firmware runs (R395). A byte outside device DRAM, and so
every byte past the aperture, changes nothing (log 26). -/
def execHostStore (pa n val : Nat) (s : State) : Out :=
  if !s.open1 then .next s
  else .next (State.writePaLong (n / 4096 + 2) s pa n val).keepShut

/-- Words of a capability entry (R336), and of its region record (R349). -/
def Cap.entryWord (e : Cap) (w : Nat) : Nat :=
  let bit (b : Bool) (k : Nat) : Nat := if b then 2 ^ k else 0
  if w = 0 then
    bit e.valid 63 + bit e.filter 62 + bit e.tick 61 + bit e.tap 60 + bit e.sample 59 + bit e.dot 58 + bit e.copy 57 +
      e.owner * 2 ^ 46 + e.gen * 2 ^ 30
  else e.ch * 2 ^ 59 + e.base * 2 ^ 34 + e.len * 2 ^ 9
def Cap.recordWord (e : Cap) (w : Nat) : Nat :=
  match w with
  | 0 => e.cb0 * 2 ^ 32 + e.cb1
  | 1 => e.cb2 * 2 ^ 32 + e.ca1
  | 2 =>
    e.ca2 * 2 ^ 32 + (e.ein % 256).toNat * 2 ^ 24 + (e.es % 256).toNat * 2 ^ 16 + e.xf * 2 ^ 14 +
      (if e.fx then 2 ^ 13 else 0) + (if e.rz then 2 ^ 12 else 0) + e.tfmt * 2 ^ 10
  | _ => e.t * 2 ^ 32 + e.lows

/-- BOOTSTAT by the state of the boot ROM: its values are the model's (log 11). -/
def Boot.code : Boot → Nat
  | .waiting => 0
  | .badKey => 1
  | .badSignature => 2
  | .oldVersion => 3
  | .running => 4

/-- Value of a register of aperture 1; none where there is no such register (R394). -/
def State.apValue (s : State) (r : ApRead) : Option Nat :=
  let below (i n v : Nat) : Option Nat := if i < n then some v else none
  match r with
  | .qring q => below q 64 (s.hq q).ring.toNat
  | .qcfg q => below q 64 (s.hq q).cfg.toNat
  | .qbell q => below q 64 (s.hq q).tail
  | .qprog q => below q 64 ((s.hq q).lcons * 2 ^ 32 + (s.hq q).lcomp)
  | .qcomp q => below q 64 (s.hq q).comp.toNat
  | .bootaddr => some s.bootaddr.toNat
  | .bootstat => some s.boot.code
  | .dcfg => some s.ncc
  | .evbase d => below d 2 (mget 0 s.evbase d).toNat
  | .fabcfg => some s.fabcfg.toNat
  | .budget i => below i budgetReset.length (s.budgetOf i).toNat
  | .arbw d => below d 2 (s.arbwOf d).toNat
  | .health w => below w 9 (s.health w)
  | .exportEntry i w => below i 256 (if w = 0 then (mget (0, 0) s.exports i).1.toNat else (mget (0, 0) s.exports i).2.toNat)
  | .jobTag a => below a (2 ^ 11) (mget 0 s.jobTags a).toNat
  | .slip d => below d 2 (mget 0 s.slip d)
  | .slipEntry d i => ((mget [] s.slipRing d)[i]?).map (fun e => e.1 + e.2.1 * 2 ^ 11 + e.2.2 * 2 ^ 47)
  | .relocEntry i w => (s.reloc.reverse[i]?).map (fun e => if w = 0 then e.1 else e.2)
  | .capEntry key w => below key (2 ^ 16) ((mget {} s.caps key).entryWord w)
  | .regionRecord key w => below key (2 ^ 16) ((mget {} s.caps key).recordWord w)
  | .expo x => below x 64 (mget {} s.expos x).word.toNat
  | .corrected => some s.eccCount
  | .serial => some Config.serial.toNat
  | .publicKey => some (ecdsaPublic Config.identityKey).toNat
  | .certificate => some Config.certificate

/-- Registers that aperture 1 holds before firmware runs (R395). -/
def earlyReg : ApRead → Bool
  | .bootaddr | .bootstat => true
  | _ => false

/-- HOST_LOAD: memory through aperture 0 as the latest write of the system commit point leaves it (R115, R393), with its poison mark
(R331), or the current value of a register of aperture 1, which is read whole (R394). Where there is no such byte or register the
value is free (log 26). -/
def execHostLoad (p : HostPlace) (n : Nat) (s : State) : Out :=
  match p with
  | .mem pa =>
    if !s.open1 then .next s
    else .next { s.draw with reports := s.reports ++ [.load p n (s.readHost pa n) (s.physBad (n / 4096 + 2) pa n)] }
  | .reg r =>
    if !s.open1 && !(earlyReg r) then .next s
    else
      match s.apValue r with
      | some v => .next { s with reports := s.reports ++ [.load p n v false] }
      | none => .next { s.draw with reports := s.reports ++ [.load p n (s.free % 2 ^ 64) false] }

/-! ### Errors and retirement (R331, R399, R400) -/

/-- The word of memory is one of the device's: DRAM, scratchpads, vector registers. -/
def ownPlace (a : Nat) : Bool := decide (a < 2 ^ 39 + 2 ^ 30 + 2 ^ 31) || decide (vregLoc 0 0 ≤ a)

/-- ECC_ERROR: corrected and counted, or the 64-byte unit is marked. A place that is no word of the device has no error to find. -/
def execEccError (loc : Nat) (correctable : Bool) (s : State) : Out :=
  if !(ownPlace loc) then .next s
  else if correctable then .next { s with eccCount := s.eccCount + 1 }
  else .next (s.taint loc 1)

/-- A channel is retired: its contents are lost (R331). -/
def State.retireChannel (s : State) (ch : Nat) : State :=
  { s with deadChs := (s.deadChs.filter (fun c => decide (c < ch))) ++ ch :: s.deadChs.filter (fun c => decide (ch < c))
           reports := s.reports ++ [.retired (.channel ch)] }

/-- UNIT_RETIREMENT, at a boot test or at run time. -/
def execUnitRetirement (u : HwUnit) (s : State) : Out :=
  match u with
  | .bench d b => .next (if d < 2 ∧ b < 4 ∧ !(s.bench d b).retired then s.failBench d b else s)
  | .channel c => .next (if c < 256 ∧ !(s.deadChs.contains c) then s.retireChannel c else s)
  | .port p => .next (if p < 32 ∧ !(s.port p).retired then s.retirePort p else s)

/-! ### Reset and boot (R395, R396) -/

/-- Host memory as the system commit point leaves it: it is no part of the device. -/
def State.hostBytes (s : State) : Memory :=
  let host (a : Nat) : Bool := decide (hostLoc 0 ≤ a ∧ a < remoteLoc 0 0)
  (s.order 131).foldl (fun m w => if host w.loc then writeRun m w.loc w.n w.val else m) (s.mem.filter (fun e => host e.1))

/-- DEVICE_RESET: every SRAM and register at its reset value; the boot tests find the retired units again (R400). Free
values, the count of cycles and what outside parties will do are no part of the device. -/
def execDeviceReset (s : State) : Out :=
  .next { State.reset with
    cycle := s.cycle, freeCtr := s.freeCtr, agenda := s.agenda, mem := s.hostBytes, deadChs := s.deadChs
    benches := (s.benches.filter (fun e => e.2.retired)).map (fun e => (e.1, ({ retired := true } : Bench)))
    ports := (s.ports.filter (fun e => e.2.retired)).map (fun e => (e.1, ({ retired := true } : Port)))
    reports := s.reports }

/-- Bytes of the firmware image at the host address in BOOTADDR (R395, R396). -/
def State.imageBytes (s : State) (n : Nat) : Nat := s.readSysBlock (hostLoc s.bootaddr.toNat) n

/-- Length of its header and payload. -/
def State.imageLen (s : State) : Nat := 256 + Config.bootLength (s.imageBytes 256)

/-- What the boot ROM finds of the image (R396). -/
def State.imageVerdict (s : State) : Boot :=
  let head := s.imageBytes 256
  let n := s.imageLen
  let sig := s.imageBytes (n + 64) / 256 ^ n
  let r := bigEndian 32 (sig % 256 ^ 32)
  let t := bigEndian 32 (sig / 256 ^ 32)
  if sha256 64 (Config.bootKey head).toNat ≠ Config.rootKeyDigest then .badKey
  else if !(ecdsaVerify (Config.bootKey head) (sha256 n (s.imageBytes n)) r t) then .badSignature
  else if Config.bootVersion head < Config.minSecurityVersion then .oldVersion
  else .running

/-- BOOT_IMAGE_CHECK, with the length of header and payload that the header gives: firmware runs only if all three hold; else BOOTSTAT
gives the reason and the device waits (R395, R396). -/
def execBootImageCheck (len : Nat) (s : State) : Out :=
  if s.open1 ∨ len ≠ s.imageLen then .next s
  else
    let n := len + 64
    .next (if s.imageVerdict = .running then
        { s with boot := .running, image := (sha256 n (s.imageBytes n), Config.bootVersion (s.imageBytes 256)) }
      else { s with boot := s.imageVerdict })

end Sys2Proof.Machine
end

