-- ==== Sys2Proof/Machine/Dispatch.lean ====
section
/-! DEFINITION. The meaning of every step: one arm per constructor of `Instr`. -/

namespace Sys2Proof.Machine

def exec (i : Instr) (s : State) : Host.Outcome State Fault Refusal :=
  match i with
  | .fetchLineArrival c => Sys2Proof.Machine.execFetchLineArrival c s
  | .tdwHeaderRead c => Sys2Proof.Machine.execTdwHeaderRead c s
  | .fenceComplete c => Sys2Proof.Machine.execFenceComplete c s
  | .commitPropagate dom => Sys2Proof.Machine.execCommitPropagate dom s
  | .viewAdvance p sc pos => Sys2Proof.Machine.execViewAdvance p sc pos s
  | .tagWaitComplete c => Sys2Proof.Machine.execTagWaitComplete c s
  | .swaitComplete c => Sys2Proof.Machine.execSwaitComplete c s
  | .swaitTimeout c => Sys2Proof.Machine.execSwaitTimeout c s
  | .signalUpdate id => Sys2Proof.Machine.execSignalUpdate id s
  | .putqDelivery id => Sys2Proof.Machine.execPutqDelivery id s
  | .preemptRequest c => Sys2Proof.Machine.execPreemptRequest c s
  | .contextFreeze c => Sys2Proof.Machine.execContextFreeze c s
  | .resourceRelease c => Sys2Proof.Machine.execResourceRelease c s
  | .contextResume c z => Sys2Proof.Machine.execContextResume c z s
  | .priorityPreemption q => Sys2Proof.Machine.execPriorityPreemption q s
  | .benchFailure d b => Sys2Proof.Machine.execBenchFailure d b s
  | .benchThrottle d b => Sys2Proof.Machine.execBenchThrottle d b s
  | .benchPowerOn d b => Sys2Proof.Machine.execBenchPowerOn d b s
  | .benchPowerOff d b => Sys2Proof.Machine.execBenchPowerOff d b s
  | .copyCommandStart cluster => Sys2Proof.Machine.execCopyCommandStart cluster s
  | .commandCompletion id => Sys2Proof.Machine.execCommandCompletion id s
  | .pageFault id => Sys2Proof.Machine.execPageFault id s
  | .faultRetry id => Sys2Proof.Machine.execFaultRetry id s
  | .faultFail id => Sys2Proof.Machine.execFaultFail id s
  | .cmigPageArrival id page => Sys2Proof.Machine.execCmigPageArrival id page s
  | .kernelAdmission q => Sys2Proof.Machine.execKernelAdmission q s
  | .admissionHold q => Sys2Proof.Machine.execAdmissionHold q s
  | .gridCompletion kid => Sys2Proof.Machine.execGridCompletion kid s
  | .nmCommandArrival id => Sys2Proof.Machine.execNmCommandArrival id s
  | .nmCommandStart ch => Sys2Proof.Machine.execNmCommandStart ch s
  | .forwardedTick id => Sys2Proof.Machine.execForwardedTick id s
  | .collStart die => Sys2Proof.Machine.execCollStart die s
  | .collReady id => Sys2Proof.Machine.execCollReady id s
  | .ringHandshake id tok => Sys2Proof.Machine.execRingHandshake id tok s
  | .ringStep id recv => Sys2Proof.Machine.execRingStep id recv s
  | .collDelivery id => Sys2Proof.Machine.execCollDelivery id s
  | .ringAbort id => Sys2Proof.Machine.execRingAbort id s
  | .collTimeout id => Sys2Proof.Machine.execCollTimeout id s
  | .linkQueueDeliver plane dev => Sys2Proof.Machine.execLinkQueueDeliver plane dev s
  | .remoteAccess wr exp off job n data => Sys2Proof.Machine.execRemoteAccess wr exp off job n data s
  | .remoteTimeout id => Sys2Proof.Machine.execRemoteTimeout id s
  | .flitCrcError port => Sys2Proof.Machine.execFlitCrcError port s
  | .ackTimeout port => Sys2Proof.Machine.execAckTimeout port s
  | .linkRetrain port => Sys2Proof.Machine.execLinkRetrain port s
  | .qbellWrite q v => Sys2Proof.Machine.execQbellWrite q v s
  | .launchCommand q => Sys2Proof.Machine.execLaunchCommand q s
  | .wait q => Sys2Proof.Machine.execWait q s
  | .waitSatisfied q => Sys2Proof.Machine.execWaitSatisfied q s
  | .signalCommand q => Sys2Proof.Machine.execSignalCommand q s
  | .expclose q => Sys2Proof.Machine.execExpclose q s
  | .expset q => Sys2Proof.Machine.execExpset q s
  | .inval q => Sys2Proof.Machine.execInval q s
  | .asidBind q => Sys2Proof.Machine.execAsidBind q s
  | .asidRelease q => Sys2Proof.Machine.execAsidRelease q s
  | .capCreate q => Sys2Proof.Machine.execCapCreate q s
  | .capRevoke q => Sys2Proof.Machine.execCapRevoke q s
  | .revocationComplete handle => Sys2Proof.Machine.execRevocationComplete handle s
  | .attest q => Sys2Proof.Machine.execAttest q s
  | .preempt q => Sys2Proof.Machine.execPreempt q s
  | .resumeCommand q => Sys2Proof.Machine.execResumeCommand q s
  | .abort q => Sys2Proof.Machine.execAbort q s
  | .cresume q => Sys2Proof.Machine.execCresume q s
  | .dcfgWrite v => Sys2Proof.Machine.execDcfgWrite v s
  | .evbaseWrite d v => Sys2Proof.Machine.execEvbaseWrite d v s
  | .fabcfgWrite v => Sys2Proof.Machine.execFabcfgWrite v s
  | .arbwWrite d v => Sys2Proof.Machine.execArbwWrite d v s
  | .budgetWrite n v => Sys2Proof.Machine.execBudgetWrite n v s
  | .registerWrite r v => Sys2Proof.Machine.execRegisterWrite r v s
  | .patrolScrub ch => Sys2Proof.Machine.execPatrolScrub ch s
  | .bootImageCheck len => Sys2Proof.Machine.execBootImageCheck len s
  | .eccError loc correctable => Sys2Proof.Machine.execEccError loc correctable s
  | .unitRetirement u => Sys2Proof.Machine.execUnitRetirement u s
  | .hostStore pa n val => Sys2Proof.Machine.execHostStore pa n val s
  | .hostLoad p n => Sys2Proof.Machine.execHostLoad p n s
  | .add g sd sa b => Sys2Proof.Machine.execAdd g sd sa b s
  | .sub g sd sa b => Sys2Proof.Machine.execSub g sd sa b s
  | .mul g sd sa b => Sys2Proof.Machine.execMul g sd sa b s
  | .mulh g n sd sa b => Sys2Proof.Machine.execMulh g n sd sa b s
  | .and g sd sa b => Sys2Proof.Machine.execAnd g sd sa b s
  | .or g sd sa b => Sys2Proof.Machine.execOr g sd sa b s
  | .xor g sd sa b => Sys2Proof.Machine.execXor g sd sa b s
  | .shl g sd sa b => Sys2Proof.Machine.execShl g sd sa b s
  | .shr g sd sa b => Sys2Proof.Machine.execShr g sd sa b s
  | .sra g sd sa b => Sys2Proof.Machine.execSra g sd sa b s
  | .min g n sd sa b => Sys2Proof.Machine.execMin g n sd sa b s
  | .max g n sd sa b => Sys2Proof.Machine.execMax g n sd sa b s
  | .clz g sd sa => Sys2Proof.Machine.execClz g sd sa s
  | .popc g sd sa => Sys2Proof.Machine.execPopc g sd sa s
  | .set g cc sd sa b => Sys2Proof.Machine.execSet g cc sd sa b s
  | .sel g sd sc sa sb => Sys2Proof.Machine.execSel g sd sc sa sb s
  | .li g sd v => Sys2Proof.Machine.execLi g sd v s
  | .lih g sd sa v => Sys2Proof.Machine.execLih g sd sa v s
  | .mova g f => Sys2Proof.Machine.execMova g f s
  | .adda g ad aa b => Sys2Proof.Machine.execAdda g ad aa b s
  | .br g cc sa sb off => Sys2Proof.Machine.execBr g cc sa sb off s
  | .jmp g sa off => Sys2Proof.Machine.execJmp g sa off s
  | .call g sd sa off => Sys2Proof.Machine.execCall g sd sa off s
  | .ret g sa => Sys2Proof.Machine.execRet g sa s
  | .loop g rot stg cnt => Sys2Proof.Machine.execLoop g rot stg cnt s
  | .exit g code => Sys2Proof.Machine.execExit g code s
  | .trap g code => Sys2Proof.Machine.execTrap g code s
  | .wnext g sd => Sys2Proof.Machine.execWnext g sd s
  | .wnextField g sd k => Sys2Proof.Machine.execWnextField g sd k s
  | .mfc g sd crn => Sys2Proof.Machine.execMfc g sd crn s
  | .mtc g crn sa => Sys2Proof.Machine.execMtc g crn sa s
  | .shw g cls n fld v => Sys2Proof.Machine.execShw g cls n fld v s
  | .tdw g tid fld v => Sys2Proof.Machine.execTdw g tid fld v s
  | .tdr g sd tid fld immForm => Sys2Proof.Machine.execTdr g sd tid fld immForm s
  | .spmark g sd name => Sys2Proof.Machine.execSpmark g sd name s
  | .spdrop g sa name => Sys2Proof.Machine.execSpdrop g sa name s
  | .spdepth g sd => Sys2Proof.Machine.execSpdepth g sd s
  | .vadd f => Sys2Proof.Machine.execVadd f s
  | .vsub f => Sys2Proof.Machine.execVsub f s
  | .vmul f => Sys2Proof.Machine.execVmul f s
  | .vfma f => Sys2Proof.Machine.execVfma f s
  | .vfms f => Sys2Proof.Machine.execVfms f s
  | .vmin f => Sys2Proof.Machine.execVmin f s
  | .vmax f => Sys2Proof.Machine.execVmax f s
  | .vabs f => Sys2Proof.Machine.execVabs f s
  | .vneg f => Sys2Proof.Machine.execVneg f s
  | .viadd f => Sys2Proof.Machine.execViadd f s
  | .visub f => Sys2Proof.Machine.execVisub f s
  | .vimul f => Sys2Proof.Machine.execVimul f s
  | .vimad f => Sys2Proof.Machine.execVimad f s
  | .vimin f => Sys2Proof.Machine.execVimin f s
  | .vimax f => Sys2Proof.Machine.execVimax f s
  | .viabs f => Sys2Proof.Machine.execViabs f s
  | .vshl f => Sys2Proof.Machine.execVshl f s
  | .vshr f => Sys2Proof.Machine.execVshr f s
  | .vsra f => Sys2Proof.Machine.execVsra f s
  | .vand f => Sys2Proof.Machine.execVand f s
  | .vor f => Sys2Proof.Machine.execVor f s
  | .vxor f => Sys2Proof.Machine.execVxor f s
  | .vcmp f => Sys2Proof.Machine.execVcmp f s
  | .vsel f => Sys2Proof.Machine.execVsel f s
  | .vmop f => Sys2Proof.Machine.execVmop f s
  | .vrcp f => Sys2Proof.Machine.execVrcp f s
  | .vrsq f => Sys2Proof.Machine.execVrsq f s
  | .vsqrt f => Sys2Proof.Machine.execVsqrt f s
  | .vexp2 f => Sys2Proof.Machine.execVexp2 f s
  | .vlog2 f => Sys2Proof.Machine.execVlog2 f s
  | .vtanh f => Sys2Proof.Machine.execVtanh f s
  | .verf f => Sys2Proof.Machine.execVerf f s
  | .vcvt f => Sys2Proof.Machine.execVcvt f s
  | .vwiden f => Sys2Proof.Machine.execVwiden f s
  | .vunpk f => Sys2Proof.Machine.execVunpk f s
  | .vnarrow f => Sys2Proof.Machine.execVnarrow f s
  | .vqmx f => Sys2Proof.Machine.execVqmx f s
  | .vdqmx f => Sys2Proof.Machine.execVdqmx f s
  | .vperm f => Sys2Proof.Machine.execVperm f s
  | .vslide f => Sys2Proof.Machine.execVslide f s
  | .vbcast f => Sys2Proof.Machine.execVbcast f s
  | .vextr f => Sys2Proof.Machine.execVextr f s
  | .vins f => Sys2Proof.Machine.execVins f s
  | .vred f => Sys2Proof.Machine.execVred f s
  | .vrdrn f => Sys2Proof.Machine.execVrdrn f s
  | .vrclr f => Sys2Proof.Machine.execVrclr f s
  | .vdot f => Sys2Proof.Machine.execVdot f s
  | .raddf f => Sys2Proof.Machine.execRaddf f s
  | .unaddf f => Sys2Proof.Machine.execUnaddf f s
  | .rsubf f => Sys2Proof.Machine.execRsubf f s
  | .unsubf f => Sys2Proof.Machine.execUnsubf f s
  | .rmulf f => Sys2Proof.Machine.execRmulf f s
  | .unmulf f => Sys2Proof.Machine.execUnmulf f s
  | .rnarw f => Sys2Proof.Machine.execRnarw f s
  | .unnarw f => Sys2Proof.Machine.execUnnarw f s
  | .rshr f => Sys2Proof.Machine.execRshr f s
  | .unshr f => Sys2Proof.Machine.execUnshr f s
  | .rscl f => Sys2Proof.Machine.execRscl f s
  | .unscl f => Sys2Proof.Machine.execUnscl f s
  | .rimul f => Sys2Proof.Machine.execRimul f s
  | .unimul f => Sys2Proof.Machine.execUnimul f s
  | .mrun g idx sh sw rep inc => Sys2Proof.Machine.execMrun g idx sh sw rep inc s
  | .mrunF g idx sh sw rep inc => Sys2Proof.Machine.execMrunF g idx sh sw rep inc s
  | .mpload g idx bank off => Sys2Proof.Machine.execMpload g idx bank off s
  | .mploadP g k sa => Sys2Proof.Machine.execMploadP g k sa s
  | .lend g k => Sys2Proof.Machine.execLend g k s
  | .recl g k => Sys2Proof.Machine.execRecl g k s
  | .mstrOpen g e tile save => Sys2Proof.Machine.execMstrOpen g e tile save s
  | .mstrPause g e => Sys2Proof.Machine.execMstrPause g e s
  | .mstrResume g e => Sys2Proof.Machine.execMstrResume g e s
  | .mstrReset g e => Sys2Proof.Machine.execMstrReset g e s
  | .mstrClose g e => Sys2Proof.Machine.execMstrClose g e s
  | .feeda m lb k => Sys2Proof.Machine.execFeeda m lb k s
  | .feedb m lb k => Sys2Proof.Machine.execFeedb m lb k s
  | .mac t => Sys2Proof.Machine.execMac t s
  | .chain t last => Sys2Proof.Machine.execChain t last s
  | .aclr t => Sys2Proof.Machine.execAclr t s
  | .emit t g st m => Sys2Proof.Machine.execEmit t g st m s
  | .scale a b => Sys2Proof.Machine.execScale a b s
  | .bias v => Sys2Proof.Machine.execBias v s
  | .adv mask => Sys2Proof.Machine.execAdv mask s
  | .loopk n len => Sys2Proof.Machine.execLoopk n len s
  | .loopkMh f len => Sys2Proof.Machine.execLoopkMh f len s
  | .stream e u cl => Sys2Proof.Machine.execStream e u cl s
  | .endR m nb => Sys2Proof.Machine.execEnd m nb s
  | .vld f => Sys2Proof.Machine.execVld f s
  | .vldg f => Sys2Proof.Machine.execVldg f s
  | .sld f => Sys2Proof.Machine.execSld f s
  | .mld f => Sys2Proof.Machine.execMld f s
  | .vldt f => Sys2Proof.Machine.execVldt f s
  | .vldb f => Sys2Proof.Machine.execVldb f s
  | .vst f => Sys2Proof.Machine.execVst f s
  | .sst f => Sys2Proof.Machine.execSst f s
  | .mst f => Sys2Proof.Machine.execMst f s
  | .vstx f => Sys2Proof.Machine.execVstx f s
  | .putq g vs ben ctx q wait => Sys2Proof.Machine.execPutq g vs ben ctx q wait s
  | .cpyLd f mc spa => Sys2Proof.Machine.execCpyLd f mc spa s
  | .cpySt f spa => Sys2Proof.Machine.execCpySt f spa s
  | .cpytLd f spa => Sys2Proof.Machine.execCpytLd f spa s
  | .cpytSt f spa => Sys2Proof.Machine.execCpytSt f spa s
  | .cgath f ib spa => Sys2Proof.Machine.execCgath f ib spa s
  | .cpair f spa => Sys2Proof.Machine.execCpair f spa s
  | .cmig f host dl => Sys2Proof.Machine.execCmig f host dl s
  | .nmcopy f dpitch => Sys2Proof.Machine.execNmcopy f dpitch s
  | .nmdot f spa => Sys2Proof.Machine.execNmdot f spa s
  | .fsamp f ty spa => Sys2Proof.Machine.execFsamp f ty spa s
  | .ftap f spa => Sys2Proof.Machine.execFtap f spa s
  | .ftick f n1 => Sys2Proof.Machine.execFtick f n1 s
  | .ftickG f gn1 n1 => Sys2Proof.Machine.execFtickG f gn1 n1 s
  | .freset f => Sys2Proof.Machine.execFreset f s
  | .fresetIn f => Sys2Proof.Machine.execFresetIn f s
  | .collRs f spa => Sys2Proof.Machine.execCollRs f spa s
  | .collAg f spa => Sys2Proof.Machine.execCollAg f spa s
  | .collAr f spa => Sys2Proof.Machine.execCollAr f spa s
  | .fence g sc ord => Sys2Proof.Machine.execFence g sc ord s
  | .qadvH g q k => Sys2Proof.Machine.execQadvH g q k s
  | .qadvT g q k => Sys2Proof.Machine.execQadvT g q k s
  | .twait g sa => Sys2Proof.Machine.execTwait g sa s
  | .twany g sa => Sys2Proof.Machine.execTwany g sa s
  | .tfind g sd sa => Sys2Proof.Machine.execTfind g sd sa s
  | .tclr g sa => Sys2Proof.Machine.execTclr g sa s
  | .bar g sc id => Sys2Proof.Machine.execBar g sc id s
  | .signalAdd g sc sa sb => Sys2Proof.Machine.execSignalAdd g sc sa sb s
  | .signalStore g sc sa sb => Sys2Proof.Machine.execSignalStore g sc sa sb s
  | .swait g sc sd sa sb ticks => Sys2Proof.Machine.execSwait g sc sd sa sb ticks s
  | .launch g sd sa => Sys2Proof.Machine.execLaunch g sd sa s
  | .expose g sa => Sys2Proof.Machine.execExpose g sa s
  | .yield g => Sys2Proof.Machine.execYield g s
  | .flitAcknowledgement port n => Sys2Proof.Machine.execFlitAcknowledgement port n s
  | .retrainingEnd port ok => Sys2Proof.Machine.execRetrainingEnd port ok s
  | .throttleRelease d b => Sys2Proof.Machine.execThrottleRelease d b s
  | .exportEntryWrite n w0 w1 => Sys2Proof.Machine.execExportEntryWrite n w0 w1 s
  | .bundleIssue => Sys2Proof.Machine.execBundleIssue s
  | .resultWriteback => Sys2Proof.Machine.execResultWriteback s
  | .storePerform => Sys2Proof.Machine.execStorePerform s
  | .latchUpdate => Sys2Proof.Machine.execLatchUpdate s
  | .matrixRoutineTrap => Sys2Proof.Machine.execMatrixRoutineTrap s
  | .routineTimeLimit => Sys2Proof.Machine.execRoutineTimeLimit s
  | .barComplete => Sys2Proof.Machine.execBarComplete s
  | .spoilSpill => Sys2Proof.Machine.execSpoilSpill s
  | .spoilRefill => Sys2Proof.Machine.execSpoilRefill s
  | .contactSheetReplay => Sys2Proof.Machine.execContactSheetReplay s
  | .budgetPeriod => Sys2Proof.Machine.execBudgetPeriod s
  | .scheduleTick => Sys2Proof.Machine.execScheduleTick s
  | .deviceReset => Sys2Proof.Machine.execDeviceReset s

end Sys2Proof.Machine
end

