-- ==== Sys2Proof/Machine/Schedule.lean ====
section
/-! DEFINITION. Which step the machine takes next. A cycle c goes through three parts: before the issue stage, the issue stage
(BUNDLE_ISSUE), and the engines and the end of the cycle; when nothing of a cycle is left, the clock moves on (log 3, log 6).
Each function of a part answers the step that is due, with the state in which it is taken. -/

namespace Sys2Proof.Machine

/-- What is due: a step and the state in which it is taken. -/
abbrev Due := Option (Instr × State)

/-- The first of a list of functions that has a step due. -/
def firstDue : List (State → Due) → State → Due
  | [], _ => none
  | f :: l, s =>
    match f s with
    | some r => some r
    | none => firstDue l s

/-- A step that is due when a test holds. -/
def dueIf (i : Instr) (p : State → Bool) (s : State) : Due := if p s then some (i, s) else none

/-- A step of the first context for which a test holds. -/
def dueCtx (i : Nat → Instr) (p : State → Nat → Bool) (s : State) : Due :=
  ((s.ctxs.map Prod.fst).find? (fun u => p s u)).map (fun u => (i u, s))

/-- A step of the oldest command for which a test holds. -/
def dueCmd (i : Nat → Instr) (p : State → Cmd → Bool) (s : State) : Due :=
  (s.cmdList.find? (fun c => p s c)).map (fun c => (i c.id, s))

/-- A step of the first hardware queue that has one. -/
def dueQueue (f : State → Nat → Option Instr) (s : State) : Due :=
  ((s.hqs.map Prod.fst).findSome? (fun q => f s q)).map (fun i => (i, s))

/-! ### Before the issue stage -/

/-- A routine's next micro-word acts in this cycle: the core, and the word where its encoding is good (R252). -/
def State.wordDue (s : State) (k : Nat) : Option Instr :=
  match (s.core k).routine with
  | some r => if r.at_ ≤ s.cycle ∧ r.pc < r.len then s.microAt (coreCluster k) (r.start + r.pc) else none
  | none => none

/-- The core's bench owns this cycle's frame slot of its kernel (R285): its accesses go first, so that riders see them
(R287). -/
def State.ownsFrame (s : State) (k : Nat) : Bool :=
  match (s.core k).routine with
  | some r => (s.kernel (s.ctx r.ctx).kernel).slotOwner s.cycle == coreBench k
  | none => false

/-- The micro-word that acts next in this cycle. -/
def dueWord (s : State) : Due :=
  let ks := s.cores.map Prod.fst
  (ks.filter s.ownsFrame ++ ks.filter (fun k => !(s.ownsFrame k))).findSome? (fun k =>
    (s.wordDue k).map (fun i => (i, { s with rcore := k })))

/-- A FENCE completes (R117). -/
def fenceOver (s : State) (u : Nat) : Bool :=
  let c := s.ctx u
  match c.pend with
  | .fence sc ord at_ => (c.life == .running || c.life == .exited) && s.fenceReady u sc ord at_
  | _ => false

/-- A TWAIT or TWANY is met (R199). -/
def tagsOver (s : State) (u : Nat) : Bool :=
  match (s.ctx u).pend with
  | .twait any m => s.active u && (s.ctx u).tagsMet any m
  | _ => false

/-- A SWAIT is met, or its page no longer allows it (R324). -/
def swaitOver (s : State) (u : Nat) : Bool :=
  let c := s.ctx u
  match c.pend with
  | .swait _ _ w _ _ _ at_ =>
    s.active u && (s.swaitMet u || ((s.signalHome c.kernel c.core .wait w).isNone && decide (at_ ≤ s.cycle)))
  | _ => false

/-- A header read arrives (R143); one that R70 refuses by now traps at the next bundle, which the Y slot's wait holds back. -/
def headerOver (s : State) (u : Nat) : Bool :=
  let c := s.ctx u
  match c.hdrRead with
  | some (_, a, at_) => s.active u && decide (at_ ≤ s.cycle) && (c.pend == .none || s.headerAt u a)
  | none => false

/-- The steps before the issue stage, in order. -/
def beforeIssue : List (State → Due) := [
  dueCtx .contextFreeze (fun s u => s.freezeDue u || s.doomDue u),
  dueIf .storePerform (fun s => s.stores.any (fun x => decide (x.due ≤ s.cycle))),
  dueIf .latchUpdate (fun s => s.inflight.any (fun r => decide (r.due ≤ s.cycle) && r.isLatch)),
  dueIf .contactSheetReplay (fun s => (s.replayDue true).isSome),
  dueIf .routineTimeLimit (fun s => s.lateCore.isSome),
  dueWord,
  dueIf .matrixRoutineTrap (fun s => (s.ctxs.map Prod.fst).any (fun u => s.matrixTrapDue u)),
  dueCtx .fenceComplete fenceOver,
  dueCtx .tagWaitComplete tagsOver,
  dueCtx .swaitComplete swaitOver,
  dueCtx .swaitTimeout (fun s u => s.active u && s.swaitLate u),
  dueCtx .tdwHeaderRead headerOver]

/-! ### Outside parties -/

/-- Steps that an outside party or firmware brings about, and the free moves of the ordering machine: the agenda says
when. -/
def outside : Instr → Bool
  | .commitPropagate _ | .viewAdvance .. | .preemptRequest _ | .benchFailure .. | .benchThrottle .. | .throttleRelease ..
  | .benchPowerOff .. | .faultRetry _ | .faultFail _ | .cmigPageArrival .. | .ringHandshake .. | .ringStep .. | .ringAbort _
  | .linkQueueDeliver .. | .remoteAccess .. | .remoteTimeout _ | .flitCrcError _ | .ackTimeout _ | .linkRetrain _
  | .flitAcknowledgement .. | .retrainingEnd .. | .qbellWrite .. | .dcfgWrite _ | .evbaseWrite .. | .fabcfgWrite _
  | .arbwWrite .. | .budgetWrite .. | .registerWrite .. | .patrolScrub _ | .bootImageCheck _ | .eccError ..
  | .unitRetirement _ | .hostStore .. | .hostLoad .. | .deviceReset | .exportEntryWrite .. => true
  | _ => false

/-- Take the first entry of the agenda that is due out of it. -/
def takeAgenda (now : Nat) : List (Nat × Instr) → Option (Instr × List (Nat × Instr))
  | [] => none
  | e :: l =>
    if e.1 ≤ now ∧ outside e.2 then some (e.2, l)
    else (takeAgenda now l).map (fun r => (r.1, e :: r.2))

/-- The agenda's next step. -/
def dueAgenda (s : State) : Due := (takeAgenda s.cycle s.agenda).map (fun r => (r.1, { s with agenda := r.2 }))

/-! ### Engines and units -/

/-- A cluster's copy engine starts a command, or makes an access of one. -/
def dueCopy (s : State) : Due :=
  ((s.cmdList.map (fun c => coreCluster c.core)).find? (fun k => (s.copyNext k).isSome || (s.accessNext k).isSome)).map (fun k => (.copyCommandStart k, s))

/-- A command reaches its base die or its unit (R341, R372). -/
def arrives (s : State) (c : Cmd) : Bool :=
  c.stage == .sent && decide (c.due ≤ s.cycle) &&
    (!c.left.isEmpty || (!(s.arrivesLater c) && (s.staleCap (c.word 0) || s.deadChs.contains (s.capChan (c.word 0)) ||
      decide (s.unitLoad (s.capChan (c.word 0)) < 64))))

/-- A command is the oldest arrival at its unit, and its time has come. -/
def headOfUnit (s : State) (c : Cmd) : Bool :=
  match c.stage with
  | .atUnit ch _ => s.isHead ch c && decide (c.due ≤ s.cycle)
  | _ => false

/-- A unit starts a command. -/
def dueUnit (s : State) : Due :=
  (s.cmdList.find? (fun c => c.left.isEmpty && headOfUnit s c && s.padGranted c)).map (fun c =>
    (match c.stage with | .atUnit ch _ => .nmCommandStart ch | _ => .nmCommandStart 0, s))

/-- A forwarded tick of a group. -/
def ticks (s : State) (c : Cmd) : Bool := !c.left.isEmpty && headOfUnit s c

/-- The page on which a command stalls is present again (R314). -/
def retries (s : State) (c : Cmd) : Bool :=
  match c.stage with
  | .stalled va _ true =>
    decide (c.due ≤ s.cycle) &&
      (match s.walk c.asid va with
       | .absent => false
       | .malformed => true
       | .leaf e _ size => !(s.inMotion e size))
  | _ => false

/-- A stalled command's fault record goes out. -/
def faults (s : State) (c : Cmd) : Bool :=
  match c.stage with
  | .stalled _ _ false => decide (c.due ≤ s.cycle)
  | _ => false

/-- A page of a CMIG arrives. -/
def duePage (s : State) : Due :=
  (s.cmdList.find? (fun c => c.stage == .moving && decide (c.due ≤ s.cycle) && !c.pages.isEmpty)).map (fun c =>
    (.cmigPageArrival c.id ((c.pages.head?).getD 0), s))

/-- A collective's ready word has reached its value. -/
def ringReady (s : State) (c : Cmd) : Bool :=
  c.stage == .ring && c.ring.phase == .ready && decide (c.due ≤ s.cycle) && s.collIsReady c && s.ringOpen c 32

/-- The token of a member whose PREV is on this device has circled, or differs (R417). -/
def ringAgrees (s : State) (c : Cmd) : Bool :=
  c.stage == .ring && c.ring.phase == .handshake && decide (c.due ≤ s.cycle) && s.prevHere c && (s.tokenHere c).isSome

/-- A member can send its segment, or receive one that has come (R418). -/
def ringGoes (s : State) (c : Cmd) : Bool := c.stage == .ring && c.inRing && decide (c.due ≤ s.cycle) && (!c.ring.sent || !c.ring.inq.isEmpty)

/-- An abort has reached a member (R422). -/
def ringAborts (_s : State) (c : Cmd) : Bool := c.collActive (coreDie c.core) && c.ring.abort.isSome

/-- Handshakes of members of this device. -/
def dueToken (s : State) : Due := (s.cmdList.find? (fun c => ringAgrees s c)).map (fun c => (.ringHandshake c.id c.token, s))

/-- A link queue sends its oldest entry. -/
def dueLink (s : State) : Due :=
  (s.links.find? (fun l => match s.canDeliver (l.1 / 512) (l.1 % 512) with | some e => decide (e.due ≤ s.cycle) | none => false)).map
    (fun l => (.linkQueueDeliver (l.1 / 512) (l.1 % 512), s))

/-- A signal update reaches its home; a PUTQ delivery is performed. -/
def dueSignal (s : State) : Due :=
  (s.sigs.find? (fun x => decide (x.due ≤ s.cycle) && s.sigFirst x)).map (fun x => (.signalUpdate x.id, s))
def duePutq (s : State) : Due := (s.putqs.find? (fun p => s.putqDue p)).map (fun p => (.putqDelivery p.id, s))

/-! ### The command processor -/

/-- What a pending WAIT, PREEMPT, RESUME or INVAL waits for has come about. -/
def heldStep (s : State) (q : Nat) : Option Instr :=
  match (s.hq q).held with
  | .none => none
  | .wait .. => if s.waitMetQ q then some (.waitSatisfied q) else none
  | .preempt _ t => if (s.queueCtxs t).all s.away then some (.preempt q) else none
  | .resume _ t => if s.queueBack t then some (.resumeCommand q) else none
  | .inval _ ids => if s.sigsDone ids then some (.inval q) else none

/-- An ABORT or CRESUME is taken ahead of its turn. -/
def earlyStep (s : State) (q : Nat) : Option Instr :=
  if (s.takingEarly q 0x0C).isSome then some (.abort q) else if s.cresumeDue q then some (.cresume q) else none

/-- The step of a command by its OP and words. -/
def commandStep (q : Nat) (ws : List Nat) : Option Instr :=
  match cOp ws with
  | 0x01 => some (.launchCommand q)
  | 0x02 => some (.wait q)
  | 0x03 => some (.signalCommand q)
  | 0x04 => some (.expclose q)
  | 0x05 => some (.expset q)
  | 0x06 => some (.inval q)
  | 0x07 => some (if (cword ws 3).testBit 0 then .asidRelease q else .asidBind q)
  | 0x08 => some (if (cword ws 1).testBit 63 then .capRevoke q else .capCreate q)
  | 0x09 => some (.attest q)
  | 0x0A => some (.preempt q)
  | 0x0B => some (.resumeCommand q)
  | _ => none

/-- The next command is consumed, or a LAUNCH comes to the head. -/
def takeStep (s : State) (q : Nat) : Option Instr :=
  match s.pending q with
  | some ws => if (s.taking q (cOp ws)).isSome then commandStep q ws else none
  | none => none

/-- A launch that fits is admitted, once the benches it needs are on (R325). -/
def dueAdmission (s : State) : Due :=
  match s.admitNext with
  | none => none
  | some q =>
    let cores := ((s.headWords q).bind (fun ws => s.place ws noneIgnored)).getD []
    let lack := ((s.headWords q).map (fun ws => slotsLack ws cores)).getD true
    match (if lack then none else cores.find? (fun c => !((s.bench (coreDie c) (coreBench c)).powered))) with
    | some c => (s.nextOff (coreDie c)).map (fun b => (.benchPowerOn (coreDie c) b, s))
    | none => some (.kernelAdmission q, s)

/-- A bench that no allocated bank, no context and no launch to be admitted needs goes off (R325). -/
def dueOff (s : State) : Due :=
  let wanted : List Nat := match s.admitNext with
    | some q => ((s.headWords q).bind (fun ws => s.place ws noneIgnored)).getD []
    | none => []
  ([0, 1, 2, 3, 4, 5, 6, 7].find? (fun i =>
    s.offDue (i / 4) (i % 4) && !(wanted.any (fun c => coreDie c == i / 4 && coreBench c == i % 4)))).map
      (fun i => (.benchPowerOff (i / 4) (i % 4), s))

/-- A kernel is complete. -/
def dueGrid (s : State) : Due := ((s.kernels.map Prod.fst).find? (fun k => s.gridDone k)).map (fun k => (.gridCompletion k, s))

/-- A waiting launch of higher priority needs contexts of a kernel (R388). -/
def State.outranked (s : State) (key : Nat) : Bool :=
  (s.hqs.map Prod.fst).any (fun q => s.lower q key && (s.hq q).en &&
    (match s.headWords q with
     | some ws => (s.place ws noneIgnored).isNone && (s.place ws (fun u => s.freezing u || s.lower q (s.ctx u).kernel)).isSome
     | none => false))

/-- A frozen context resumes on its core, from a cycle that is free (R217, R388). -/
def dueResume (s : State) : Due :=
  ((s.ctxs.map Prod.fst).find? (fun u =>
    let c := s.ctx u
    c.life == .frozen && s.canResume u && !((s.hq (s.kernel c.kernel).queue).frozen) && !(s.outranked c.kernel))).map
      (fun u => (.contextResume u (s.cycle + 1 + s.free), s.draw))

/-- A context of a kernel whose queue is kept frozen is to be frozen (R388). -/
def freezeWanted (s : State) (u : Nat) : Bool :=
  s.active u && (s.ctx u).pre == .none && (s.hq (s.kernel (s.ctx u).kernel).queue).frozen && s.freezeFree u

/-- The steps of engines, units, the command processor and outside parties, in order. -/
def afterIssue : List (State → Due) := [
  dueAgenda,
  dueIf (.commitPropagate 132) (fun s => s.inboundDue.isSome),
  dueCtx .fetchLineArrival State.fetchDue,
  dueSignal, duePutq, dueCopy,
  dueIf (.collStart 0) (fun s => (s.collNext 0).isSome),
  dueIf (.collStart 1) (fun s => (s.collNext 1).isSome),
  dueCmd .nmCommandArrival arrives,
  dueUnit,
  dueCmd .forwardedTick ticks,
  dueCmd .collReady ringReady,
  dueCmd .ringAbort ringAborts,
  dueToken,
  dueCmd (fun id => .ringStep id none) ringGoes,
  dueCmd .collDelivery State.deliveryDue,
  dueCmd .collTimeout State.collLate,
  dueLink,
  dueCmd .commandCompletion State.canComplete,
  dueCmd .pageFault faults,
  dueCmd .faultRetry retries,
  duePage,
  dueCtx .resourceRelease (fun s u => s.releaseDue u || s.streamsDue u),
  dueQueue heldStep, dueQueue earlyStep, dueQueue takeStep,
  fun s => (s.revokes.find? (fun r => s.revokeOver r)).map (fun r => (.revocationComplete (BitVec.ofNat 32 r.handle), s)),
  dueGrid,
  dueAdmission,
  dueQueue (fun s q => if s.holdDue q then some (.admissionHold q) else none),
  dueQueue (fun s q => if s.wantsContexts q && (s.victim q).isSome then some (.priorityPreemption q) else none),
  dueCtx .preemptRequest freezeWanted,
  dueResume,
  dueOff]

/-! ### The end of the cycle -/

/-- The steps at the end of a cycle, in order. -/
def endOfCycle : List (State → Due) := [
  dueIf .barComplete (fun s => (s.ctxs.map Prod.fst).any (fun u => s.barDone u)),
  dueIf .spoilSpill (fun s => (s.moveNext true).isSome),
  dueIf .spoilRefill (fun s => (s.moveNext false).isSome),
  dueIf .contactSheetReplay (fun s => (s.replayDue false).isSome),
  dueIf .resultWriteback (fun s => !s.ends.isEmpty || s.inflight.any (Res.due? s.cycle))]

/-- A context at the clock edge: payloads of its spoil stack that are due are written (R228), a move that it asks for is
noted (R223), and a freeze that waits for its routine goes on to the bundle after it (R211). -/
def Ctx.tick (c : Ctx) (now : Nat) (runs : Bool) : Ctx :=
  { c with sp := (c.sp.land now).arm now
           pre := if c.pre = .afterRoutine ∧ !runs then .afterIssue else c.pre }

/-- The clock moves on by one arithmetic cycle (R7). -/
def State.advance (s : State) : State :=
  { s with
    ctxs := s.ctxs.map (fun e => (e.1, e.2.tick s.cycle (s.runsRoutine e.1)))
    cycle := s.cycle + 1, issued := false }

/-- Cycles of a schedule tick, and of a budget period of 4,096 bc (R7, R390); log 3 gives their phase. -/
def tickCycles : Nat := 2700
def periodCycles : Nat := 8192
def periodPhase : Nat := 2

/-- What comes with a new cycle before anything else in it. -/
def newCycle : List (State → Due) := [
  dueIf .scheduleTick (fun s => s.cycle % tickCycles == 0),
  dueIf .budgetPeriod (fun s => s.cycle % periodCycles == periodPhase)]

/-- What stands before the issue stage, else the issue stage. -/
def startOfCycle (s : State) : Instr × State := ((firstDue beforeIssue s).getD (.bundleIssue, s))

/-- The step that is taken next, and the state in which it is taken. -/
def nextStep (s : State) : Instr × State :=
  if s.issued then
    match firstDue afterIssue s with
    | some r => r
    | none =>
      match firstDue endOfCycle s with
      | some r => r
      | none =>
        match firstDue newCycle s.advance with
        | some r => r
        | none => startOfCycle s.advance
  else startOfCycle s

end Sys2Proof.Machine
end

