-- ==== Sys2Proof/Machine/Step.lean ====
section
/-! DEFINITION. One step of the machine, and the placement of one instruction where the next step runs it (log 3). -/

namespace Sys2Proof.Machine

/-- One step: the step that is due, taken in the state in which it is due. -/
def step (s : State) : Host.Outcome State Fault Refusal :=
  let n := nextStep s
  exec n.1 n.2

/-- A bundle of context 0, bound on core 0 in a kernel whose X window 0 maps address 0 on: its bytes stand in device
memory and have arrived in the fetch queue. -/
def State.withBundle (s : State) (w : Nat) : State :=
  let line : FLine := { base := 0, outside := false, data := w }
  let c : Ctx := { life := .running, fq := [line], fetchAt := s.cycle + 1 }
  let k : Kernel := { alive := true, windows := [(3#64, 1#64)], cores := [0], ctxN := 1 }
  { (s.setCtx 0 c).setKernel 0 k with mem := writeRun s.mem (dramLoc 0 0) 16 w, issued := false }

/-- A micro-word at word 0 of cluster 0's store, with a routine of context 0 on core 0 that runs it in this cycle. -/
def State.withWord (s : State) (w : Nat) : State :=
  let r : Routine := { ctx := 0, issued := s.cycle, start := 0, len := 64, at_ := s.cycle }
  let s1 := s.setCore 0 { s.core 0 with routine := some r }
  let s2 := s1.setCluster 0 { s1.cluster 0 with store := mset 0 (s1.cluster 0).store 0 (BitVec.ofNat 32 w) }
  { s2 with issued := false }

/-- The state in which the next step runs the instruction of a table word: 32 bits are a micro-word, others a bundle. -/
def State.withFetchWord (s : State) (nbits w : Nat) : State := if nbits = 32 then s.withWord w else s.withBundle w

end Sys2Proof.Machine
end

