-- ==== Sys2Proof/Safety.lean ====
section
/-! DEFINITION. What a safe run is, the invariant of every step, and the terms in which statements say what a slot
instruction changes. -/

namespace Sys2Proof

/-- The stage guard of a slot instruction (R47, R48); none for a micro-word and for a step that is no instruction. -/
def Instr.guard : Instr → Option (BitVec 3)
  | .add (g := g) .. | .sub (g := g) .. | .mul (g := g) .. | .mulh (g := g) .. | .and (g := g) .. | .or (g := g) ..
  | .xor (g := g) .. | .shl (g := g) .. | .shr (g := g) .. | .sra (g := g) .. | .min (g := g) .. | .max (g := g) ..
  | .clz (g := g) .. | .popc (g := g) .. | .set (g := g) .. | .sel (g := g) .. | .li (g := g) .. | .lih (g := g) ..
  | .mova (g := g) .. | .adda (g := g) .. | .br (g := g) .. | .jmp (g := g) .. | .call (g := g) ..
  | .ret (g := g) .. | .loop (g := g) .. | .exit (g := g) .. | .trap (g := g) .. | .wnext (g := g) ..
  | .wnextField (g := g) .. | .mfc (g := g) .. | .mtc (g := g) .. | .shw (g := g) .. | .tdw (g := g) ..
  | .tdr (g := g) .. | .spmark (g := g) .. | .spdrop (g := g) .. | .spdepth (g := g) .. | .mrun (g := g) ..
  | .mrunF (g := g) .. | .mpload (g := g) .. | .mploadP (g := g) .. | .lend (g := g) .. | .recl (g := g) ..
  | .mstrOpen (g := g) .. | .mstrPause (g := g) .. | .mstrResume (g := g) .. | .mstrReset (g := g) ..
  | .mstrClose (g := g) .. | .putq (g := g) .. | .fence (g := g) .. | .qadvH (g := g) .. | .qadvT (g := g) ..
  | .twait (g := g) .. | .twany (g := g) .. | .tfind (g := g) .. | .tclr (g := g) .. | .bar (g := g) ..
  | .signalAdd (g := g) .. | .signalStore (g := g) .. | .swait (g := g) .. | .launch (g := g) ..
  | .expose (g := g) .. | .yield (g := g) .. => some g
  | .vadd (f := f) .. | .vsub (f := f) .. | .vmul (f := f) .. | .vfma (f := f) .. | .vfms (f := f) ..
  | .vmin (f := f) .. | .vmax (f := f) .. | .vabs (f := f) .. | .vneg (f := f) .. | .viadd (f := f) ..
  | .visub (f := f) .. | .vimul (f := f) .. | .vimad (f := f) .. | .vimin (f := f) .. | .vimax (f := f) ..
  | .viabs (f := f) .. | .vshl (f := f) .. | .vshr (f := f) .. | .vsra (f := f) .. | .vand (f := f) ..
  | .vor (f := f) .. | .vxor (f := f) .. | .vcmp (f := f) .. | .vsel (f := f) .. | .vmop (f := f) ..
  | .vrcp (f := f) .. | .vrsq (f := f) .. | .vsqrt (f := f) .. | .vexp2 (f := f) .. | .vlog2 (f := f) ..
  | .vtanh (f := f) .. | .verf (f := f) .. | .vcvt (f := f) .. | .vwiden (f := f) .. | .vunpk (f := f) ..
  | .vnarrow (f := f) .. | .vqmx (f := f) .. | .vdqmx (f := f) .. | .vperm (f := f) .. | .vslide (f := f) ..
  | .vbcast (f := f) .. | .vextr (f := f) .. | .vins (f := f) .. | .vred (f := f) .. | .vrdrn (f := f) ..
  | .vrclr (f := f) .. | .vdot (f := f) .. | .raddf (f := f) .. | .unaddf (f := f) .. | .rsubf (f := f) ..
  | .unsubf (f := f) .. | .rmulf (f := f) .. | .unmulf (f := f) .. | .rnarw (f := f) .. | .unnarw (f := f) ..
  | .rshr (f := f) .. | .unshr (f := f) .. | .rscl (f := f) .. | .unscl (f := f) .. | .rimul (f := f) ..
  | .unimul (f := f) .. | .vld (f := f) .. | .vldg (f := f) .. | .sld (f := f) .. | .mld (f := f) ..
  | .vldt (f := f) .. | .vldb (f := f) .. | .vst (f := f) .. | .sst (f := f) .. | .mst (f := f) ..
  | .vstx (f := f) .. | .cpyLd (f := f) .. | .cpySt (f := f) .. | .cpytLd (f := f) .. | .cpytSt (f := f) ..
  | .cgath (f := f) .. | .cpair (f := f) .. | .cmig (f := f) .. | .nmcopy (f := f) .. | .nmdot (f := f) ..
  | .fsamp (f := f) .. | .ftap (f := f) .. | .ftick (f := f) .. | .ftickG (f := f) .. | .freset (f := f) ..
  | .fresetIn (f := f) .. | .collRs (f := f) .. | .collAg (f := f) .. | .collAr (f := f) .. => some f.g
  | _ => none

end Sys2Proof

namespace Sys2Proof.Machine

/-- `n` steps from `s` neither fault nor are refused. -/
def SafeRun (s : State) (n : Nat) : Prop := ∀ k, k ≤ n → ∃ t, Host.Core.run core k s = .next t

/-- The invariant of every step: memory is in its canonical form, so that equal memories are equal data. -/
def State.Inv (s : State) : Prop := Memory.wf s.mem = true

/-- The guard of a slot is open: G = 0, or stage predicate G is true (R48). -/
def State.Runs (s : State) (g : BitVec 3) : Prop := g = 0#3 ∨ s.me.stage.getLsbD g.toNat = true

/-- The guard of a slot is closed. -/
def State.Idles (s : State) (g : BitVec 3) : Prop := g ≠ 0#3 ∧ s.me.stage.getLsbD g.toNat = false

/-- A result of the running slot: it reaches its register `lat` cycles after issue (R208). -/
def State.result (s : State) (lat : Nat) (v : RVal) (fl : Flags) : Res :=
  { ctx := s.cur, due := s.cycle + lat, issued := s.cycle, slot := s.iss.slot, val := v, flags := fl }

/-- The state in which nothing has changed but that the results `l` are in flight. -/
def State.plus (s : State) (l : List Res) : State := { s with inflight := s.inflight ++ l }

/-- The scalar result `v` for SD, one cycle after issue, without flags. -/
def State.plusS (s : State) (sd : BitVec 6) (v : BitVec 64) : State := s.plus [s.result 1 (.s sd v) 0#7]

/-- The state in which nothing has changed but that the running context's own record is `c`. -/
def State.withMe (s : State) (c : Ctx) : State := { s with ctxs := mset {} s.ctxs s.cur c }

/-- The state in which nothing has changed but that a write waits for the end of the cycle (R208). -/
def State.plusEnd (s : State) (w : EndWrite) : State := { s with ends := s.ends ++ [(s.cur, s.iss.slot, w)] }

/-- No V register of the list lies in a lent bank (R273). -/
def State.NotLent (s : State) (regs : List Nat) : Prop :=
  ∀ n, n ∈ regs → s.me.lent.getLsbD (physV s.me.vrot n / 128) = false

/-- Lane `i` of a V register's value for the type `t` (R20, R21). -/
def lane (t : ETy) (v : VReg) (i : Nat) : Nat := v.toNat / 2 ^ (t.width * i) % 2 ^ t.width

/-- The guard of a V slot is open, and no V register it names lies in a lent bank. -/
def State.RunsV (s : State) (f : VF) (regs : List Nat) : Prop := s.Runs f.g ∧ s.NotLent regs

/-- V registers of a slot with two sources, and with one; a source taken from FL names none (R53). -/
def regs3 (f : VF) : List Nat := [f.opd.toNat] ++ f.regA ++ f.regB
def regs2 (f : VF) : List Nat := [f.opd.toNat] ++ f.regA

/-- Lane `k` is active under the slot's mask register (R26). -/
def State.on (s : State) (f : VF) (k : Nat) : Bool := (s.me.mask f.msk).getLsbD k

/-- Lane `k` of the first and of the second source and of the destination, of the slot's type. -/
def State.laneA (s : State) (f : VF) (k : Nat) : Nat := lane f.ty (s.srcA f) k
def State.laneB (s : State) (f : VF) (k : Nat) : Nat := lane f.ty (s.srcB f) k
def State.laneD (s : State) (f : VF) (k : Nat) : Nat := lane f.ty (s.me.vr f.opd.toNat) k

/-- The state with the step of SRCTR that an SR operation takes (R82). -/
def State.afterRo (s : State) (ro : BitVec 2) : State :=
  if ro = 3#2 then s.withMe { s.me with srctr := s.me.srctr + 1 } else s

/-! ### Frames -/

/-- Every byte of memory reads in `t` as in `s`. -/
def MemSame (s t : State) : Prop := ∀ a, readByte t.mem a = readByte s.mem a

/-- Every context but `u` is as before. -/
def OthersSame (u : Nat) (s t : State) : Prop := ∀ v, v ≠ u → t.ctx v = s.ctx v

/-- The registers of a context that instructions compute with, and its status registers (R120 to R122). -/
structure RegsSame (c d : Ctx) : Prop where
  v      : d.v = c.v
  sr     : d.sr = c.sr
  ar     : d.ar = c.ar
  m      : d.m = c.m
  mp     : d.mp = c.mp
  fpcr   : d.fpcr = c.fpcr
  fpstat : d.fpstat = c.fpstat
  mstat  : d.mstat = c.mstat
  vrot   : d.vrot = c.vrot
  wid    : d.wid = c.wid

/-! ### Results that reach their registers -/

/-- `s` is at the end of a cycle in which the result `r` is due, alone, for a running context. -/
structure Ready (s : State) (r : Res) : Prop where
  ends     : s.ends = []
  inflight : s.inflight = [r]
  due      : r.due ≤ s.cycle
  life     : (s.ctx r.ctx).life = .running

/-- RESULT_WRITEBACK of `r` alone leaves the context's record `d` for which `P` holds of the records before and after;
its flags are ORed into FPSTAT, memory and every other context stay as they are. -/
def AtWriteback (r : Res) (P : Ctx → Ctx → Prop) : Prop :=
  ∀ s, Ready s r → ∃ t, exec .resultWriteback s = .next t ∧ P (s.ctx r.ctx) (t.ctx r.ctx) ∧
    (t.ctx r.ctx).fpstat = (s.ctx r.ctx).fpstat ||| r.flags ∧ MemSame s t ∧ OthersSame r.ctx s t

/-- The write `w` at the end of a cycle, alone, leaves its context a record for which `P` holds of the records before and
after; memory and every other context stay as they are. -/
def EndLands (w : EndWrite) (P : Ctx → Ctx → Prop) : Prop :=
  ∀ (s : State) (u slot : Nat), s.ends = [(u, slot, w)] → s.inflight = [] →
    ∃ t, exec .resultWriteback s = .next t ∧ P (s.ctx u) (t.ctx u) ∧ t.ends = [] ∧ MemSame s t ∧ OthersSame u s t

/-- In the state `s` the instruction `i` changes nothing but that a write waits for the end of the cycle, with the effect `P`
on its context's record (R208). -/
def WritesAtEnd (i : Instr) (s : State) (w : EndWrite) (P : Ctx → Ctx → Prop) : Prop :=
  exec i s = .next (s.plusEnd w) ∧ EndLands w P

/-- In the state `s` the instruction `i` answers the state `b` with one more result in flight, `lat` cycles after issue, that
writes SD ← v: S0 discards it, every other S register stays. -/
def WritesS (i : Instr) (s b : State) (lat : Nat) (sd : BitVec 6) (v : BitVec 64) : Prop :=
  exec i s = .next (b.plus [s.result lat (.s sd v) 0#7]) ∧
  AtWriteback (s.result lat (.s sd v) 0#7) (fun c d =>
    (∀ n, d.s n = if n = 0#6 then 0#64 else if n = sd then v else c.s n) ∧ d.v = c.v ∧ d.ar = c.ar ∧ d.m = c.m)

/-- The same for an address register. -/
def WritesA (i : Instr) (s : State) (lat : Nat) (ad : BitVec 4) (v : BitVec 32) : Prop :=
  exec i s = .next (s.plus [s.result lat (.a ad v) 0#7]) ∧
  AtWriteback (s.result lat (.a ad v) 0#7) (fun c d =>
    (∀ n, d.a n = if n = ad then v else c.a n) ∧ d.v = c.v ∧ d.sr = c.sr ∧ d.m = c.m)

/-- OR of the flags of the lanes below `n` that are on. -/
def orLanes (on : Nat → Bool) (fl : Nat → Flags) : Nat → Flags
  | 0 => 0#7
  | n + 1 => orLanes on fl n ||| (if on n then fl n else 0#7)

/-- A result of the running slot that, `lat` cycles after issue, writes in V register `d` (a logical number, mapped at issue,
R126) each lane `k` of type `t` that is on with `val k`, keeps the other lanes, and sets the flags of the lanes that are on. -/
def VResult (s : State) (r : Res) (lat d : Nat) (t : ETy) (on : Nat → Bool) (val : Nat → Nat) (fl : Nat → Flags) : Prop :=
  r.ctx = s.cur ∧ r.issued = s.cycle ∧ r.due = s.cycle + lat ∧ r.slot = s.iss.slot ∧ r.flags = orLanes on fl t.lanes ∧
  AtWriteback r (fun c e =>
    (∀ k, k < t.lanes → lane t (mget 0#4096 e.v (physV s.me.vrot d)) k =
      if on k then val k % 2 ^ t.width else lane t (mget 0#4096 c.v (physV s.me.vrot d)) k) ∧
    (∀ n, n ≠ physV s.me.vrot d → mget 0#4096 e.v n = mget 0#4096 c.v n) ∧ e.sr = c.sr ∧ e.ar = c.ar ∧ e.m = c.m)

/-- In `s` the instruction answers the state `b` with one more result, of `VResult`. -/
def WritesV (i : Instr) (s b : State) (lat d : Nat) (t : ETy) (on : Nat → Bool) (val : Nat → Nat) (fl : Nat → Flags) : Prop :=
  ∃ r, exec i s = .next (b.plus [r]) ∧ VResult s r lat d t on val fl

/-- The same for a group of `n` registers from `d` on (R147). -/
def WritesGroup (i : Instr) (s b : State) (lat n d : Nat) (t : ETy) (on : Nat → Nat → Bool) (val : Nat → Nat → Nat)
    (fl : Nat → Nat → Flags) : Prop :=
  ∃ l : List Res, exec i s = .next (b.plus l) ∧ l.length = n ∧
    ∀ q r, l[q]? = some r → VResult s r lat (d + q) t (on q) (val q) (fl q)

/-- In `s` the instruction answers `s` with one more result, that writes the bits of M register `md` that are on; M0 discards
it. -/
def WritesM (i : Instr) (s : State) (lat : Nat) (md : BitVec 4) (on val : Nat → Bool) (fl : Flags) : Prop :=
  ∃ r, exec i s = .next (s.plus [r]) ∧ r.ctx = s.cur ∧ r.due = s.cycle + lat ∧ r.slot = s.iss.slot ∧ r.flags = fl ∧
    AtWriteback r (fun c d =>
      (∀ k, k < 1024 → md ≠ 0#4 → (d.mask md).getLsbD k = if on k then val k else (c.mask md).getLsbD k) ∧
      (∀ n, n ≠ md → d.mask n = c.mask n) ∧ d.mask 0#4 = BitVec.allOnes 1024 ∧ d.v = c.v ∧ d.sr = c.sr ∧ d.ar = c.ar)

/-- What a trap taken by the running slot leaves (R145): the context stops at its bundle's address with the trap's
number, cause, slot, information and address. -/
structure Trapped (s t : State) (code cause info addr : Nat) : Prop where
  life   : (t.ctx s.cur).life = .trapped
  trap   : (t.ctx s.cur).trap = some { code := code, cause := cause, slot := s.iss.slot, info := info, addr := addr }
  pc     : (t.ctx s.cur).trapPc = s.iss.pc
  resume : (t.ctx s.cur).resumePc = s.iss.pc
  yield  : (t.ctx s.cur).yielded = false
  regs   : RegsSame (s.ctx s.cur) (t.ctx s.cur)
  others : OthersSame s.cur s t
  mem    : MemSame s t
  mark   : (t.kernel (s.ctx s.cur).kernel).trapped = true

/-- A frame with check word `word` keeps, for each of `n` lanes, `w` bits at the bit position `pos k` of its payload, namely
the residual `res k`; its bitmap says which lanes escaped, and the escape image holds `img k` for those (R226). -/
structure FrameHolds (fr : Frame) (n w : Nat) (pos : Nat → Nat) (len word : Nat) (res : Nat → Nat) (esc : Nat → Bool)
    (img : Nat → Nat) : Prop where
  plen   : fr.plen = len
  check  : fr.check = word
  below  : fr.below = 0
  count  : fr.esc = (List.range n).countP esc
  pay    : len ≠ 0 → ∀ k, k < n → fr.pay / 2 ^ pos k % 2 ^ w = res k % 2 ^ w
  bitmap : ∀ k, k < n → fr.bitmap.testBit k = esc k
  image  : ∀ k, k < n → esc k = true → fr.image / 2 ^ pos k % 2 ^ w = img k % 2 ^ w

/-- In `s` the forward instruction `i` pushes the frame `fr` (R228, R229), where the top has room for the bundle's frames at
their largest (R224): one more result in flight, of `VResult`, and the stack with the frame on it; where the stack has no
room for the frame it takes the spoil-overflow trap (R230). -/
def Forwards (i : Instr) (s : State) (f : VF) (lat : Nat) (fr : Frame) (y : Nat → Nat) (fl : Nat → Flags) : Prop :=
  pushWaits s.me.sp s.iss.depth0 (s.iss.pushMax + frameMax fr.plen) = false →
  (s.me.sp.depth + fr.size ≤ 65536 + 512 * (s.me.sp.lim - s.me.sp.base) →
    ∃ t r, exec i s = .next t ∧ t.inflight = s.inflight ++ [r] ∧
      VResult s r lat f.opd.toNat f.ty (s.on f) y fl ∧
      t.me = { s.me with sp := s.me.sp.push fr (s.cycle + lat) } ∧ MemSame s t ∧ OthersSame s.cur s t) ∧
  (65536 + 512 * (s.me.sp.lim - s.me.sp.base) < s.me.sp.depth + fr.size →
    ∃ t, exec i s = .next t ∧ Trapped s t 0x07 0x01 s.iss.depth0 0)

/-! ### Accesses of the L and S slots (R181 to R188) -/

/-- Bank and offset of a scratchpad operand, aligned, with ORG in units of 64 bytes (R54, R181). -/
def place (c : Ctx) (consumer : Bool) (spa : Spa) (org align : Nat) : Nat × Nat :=
  let p : Nat × Nat := match spa with
    | .bank b au an _ off =>
      let w := if au then (c.a an).toNat else 0
      ((b.toNat + w / 2 ^ 18) % 16, 8 * off.toNat + w % 2 ^ 18)
    | .queue q k _ =>
      let h := c.qh q.toNat
      (h.bank, 64 * h.base + 64 * h.size * (((if consumer then h.head else h.tail) + k.toNat) % h.count))
  (p.1, (p.2 + 64 * org) % 2 ^ 18 / align * align)

/-- The operand's handle has the slots it names (R54, R187); a bank form has no handle. -/
def HandleFits (c : Ctx) (spa : Spa) : Prop :=
  ∀ q k w, spa = .queue q k w → (c.qh q.toNat).count ≠ 0 ∧ k.toNat ≤ (c.qh q.toNat).count ∧ w.toNat ≤ (c.qh q.toNat).count

/-- The operand's wait is met (R187). -/
def WaitMet (c : Ctx) (consumer : Bool) (spa : Spa) : Prop :=
  ∀ q k w, spa = .queue q k w → w.toNat ≤ if consumer then (c.qh q.toNat).fill else (c.qh q.toNat).count - (c.qh q.toNat).fill

/-- The slot's bank is in use by a matrix feed of this cycle, is the spoil bank, or, for a store, is the L slot's (R184). -/
def BankTaken (s : State) (consumer : Bool) (bank : Nat) : Prop :=
  (consumer = false ∧ s.iss.lBank = some bank) ∨ bank ∈ s.feedBanks s.me.core ∨ (s.kernel s.me.kernel).spoil = some bank

/-- The result that carries a post-increment of An, one cycle after issue (R123, R181). -/
def incResults (s : State) (spa : Spa) : List Res :=
  match spa with
  | .bank _ true an true _ =>
    let w := (s.me.a an).toNat
    let o := (((w % 2 ^ 18 : Nat) : Int) + 64 * (BitVec.ofNat 10 (w / 2 ^ 22)).toInt) % (2 : Int) ^ 18
    [s.result 1 (.a an (BitVec.ofNat 32 (w / 2 ^ 18 * 2 ^ 18 + o.toNat))) 0#7]
  | _ => []

/-- The access of an L slot (consumer) or an S slot runs, at `bank` and `off`. -/
structure Accesses (s : State) (f : LF) (consumer : Bool) (org align : Nat) (regs : List Nat) (bank off : Nat) : Prop where
  runs   : s.Runs f.g
  free   : s.NotLent regs
  handle : HandleFits s.me f.spa
  wait   : WaitMet s.me consumer f.spa
  place  : (bank, off) = place s.me consumer f.spa org align
  bank   : ¬ BankTaken s consumer bank
  clean  : s.poison = []
  fresh  : s.iss.trapped = none

/-- STORE_PERFORM of `x` alone leaves at each byte `o` of its bank a byte for which `P o` holds of the bytes before and
after, and changes no other byte and no context. -/
def Performs (x : Store) (P : Nat → BitVec 8 → BitVec 8 → Prop) : Prop :=
  ∀ s : State, s.stores = [x] → x.due ≤ s.cycle → ∃ t, exec .storePerform s = .next t ∧ t.stores = [] ∧ t.ctxs = s.ctxs ∧
    (∀ o, o < 2 ^ 18 → P o (readByte s.mem (unitLoc x.core x.bank o)) (readByte t.mem (unitLoc x.core x.bank o))) ∧
    ∀ a, (∀ o, a ≠ unitLoc x.core x.bank o) → readByte t.mem a = readByte s.mem a

/-! ### The ordering machine (R96 to R105) -/

/-- What Publish at the level `L` of its commit points (0 cluster, 3 system) has done for context `u` (R104, R410): its pending
writes stand at every commit point up to that of the level, a remote write at the system's alone; what its view held at a level
stands one point wider; it has lost no write and its view has not moved back. -/
structure Published (s t : State) (u L : Nat) : Prop where
  writes : ∀ w ∈ (s.ctx u).outbox, ∀ j, j ≤ L → (w.remote = false ∨ j = 3) →
    ∃ x ∈ t.order (domainOf (s.ctx u).core j), x.id = w.id
  kept   : ∀ w ∈ (t.ctx u).outbox, w.remote = true ∧ L < 3 ∧ w ∈ (s.ctx u).outbox
  seen   : ∀ j, j < L → ∀ w ∈ (s.order (domainOf (s.ctx u).core j)).take ((s.ctx u).view.at j), w.n ≠ 0 →
    ∃ x ∈ t.order (domainParent (domainOf (s.ctx u).core j)), x.id = w.id
  view   : ∀ j, (s.ctx u).view.at j ≤ (t.ctx u).view.at j

/-- Acquire has moved the view of `u` to the end of each commit point of its core up to the level `L` (R105). -/
def Acquired (t : State) (u L : Nat) : Prop := ∀ j, j ≤ L → (t.order (domainOf (t.ctx u).core j)).length ≤ (t.ctx u).view.at j

/-- The table of contexts lists each context once, or the same each time. -/
def State.Keyed (s : State) : Prop := ∀ e ∈ s.ctxs, s.ctx e.1 = e.2

/-- A wait of context `u` has ended: it issues from the next cycle on, and only its view may have moved (R129). -/
def Resumed (s t : State) (u : Nat) : Prop :=
  t.ctx u = { s.ctx u with pend := .none, readyAt := max (s.ctx u).readyAt (s.cycle + 1), view := (t.ctx u).view } ∧
  (∀ j, (s.ctx u).view.at j ≤ (t.ctx u).view.at j)

/-- The context is bound and not stopped (R203). -/
def Live (s : State) (u : Nat) : Prop := (s.ctx u).life = .running ∧ (s.ctx u).resumeAt ≤ s.cycle

/-! ### Commands and the command processor -/

/-- The table of commands lists each command under its own identifier, once or the same each time. -/
def State.CmdsKeyed (s : State) : Prop := ∀ e ∈ s.cmds, ∀ c, e.2 = some c → s.cmd? c.id = some c

/-- The transfer that a running copy command makes next: its memory side, its address there and its length, and the scratchpad offset
of each of its bytes (R304, R305, R307 to R310). A CPYT moves a line of dimension 0 at a time where its stride is 1, else an
element; a store to kind 4 begins with its header (R70, R308). -/
def CopyMove (s : State) (c : Cmd) (m : MemSide) (addr len : Nat) (pad : Nat → Nat) : Prop :=
  let ch := c.ch.toNat
  let rows := ch / 2 ^ 52
  let rlen := ch / 2 ^ 39 % 2 ^ 13
  let mp := ch / 2 ^ 14 % 2 ^ 25
  let es := 2 ^ (ch / 2 ^ 12 % 4)
  let sp := ch % 2 ^ 12
  let k := c.run.move
  let row (i : Nat) : Prop := k < rows ∧ ∃ base, s.memSide c (c.word 0) = some (m, base) ∧ addr = base + 64 * mp * i ∧
    len = 64 * rlen ∧ pad = fun p => c.off + 64 * sp * k + p
  match c.job with
  | .cpy _ _ => row k
  | .cgath _ => c.run.idx.length = rows ∧ ∃ i, c.run.idx[k]? = some i ∧ row i
  | .cpair => (k < rows → row k) ∧ (rows ≤ k → k - rows < 64 * rlen / es ∧ ∃ base, s.memSide c (c.word 1) = some (m, base) ∧
      addr = base + 64 * mp * (k - rows) ∧ len = es * rows ∧ pad = fun p => c.off + es * (k - rows) + 64 * sp * (p / es) + p % es)
  | .cpyt ld e =>
    let w := e.fmt.width
    let x (d : Nat) : Nat := if d < e.rank then (e.ext[d]?).getD 1 else 1
    let line := if e.str[0]? = some 1 then x 0 else 1
    let q := (k - if ld = false ∧ e.kind = 4 then 1 else 0) * line
    let at_ : List Nat := [q % x 0, q / x 0 % x 1, q / x 0 / x 1 % x 2, q / x 0 / x 1 / x 2]
    let a : Int := (e.loc.toNat + (if e.kind = 4 then 64 else 0) : Nat) + ((at_.zip e.str).map (fun p => (p.1 : Int) * p.2)).sum * w / 8
    (ld = false → e.kind = 4 → 1 ≤ k) ∧ q < x 0 * x 1 * x 2 * x 3 ∧ m = s.entrySide c e.kind ∧ len = line * w / 8 ∧
      (if e.kind = 4 then addr = (a % (2 : Int) ^ 48).toNat else (addr : Int) = a) ∧ pad = fun p => c.off + q * w / 8 + p
  | _ => False

/-- Checks in their order, each with the STATUS and DETAIL of its failure: the first that fails is the answer, and where none does
`rest` holds. -/
def FirstFails (answer : Option (Nat × Nat)) : List (Nat × Nat × Prop) → Prop → Prop
  | [], rest => rest
  | (st, det, p) :: l, rest => (p → answer = some (st, det)) ∧ (¬ p → FirstFails answer l rest)

/-- The bound test of a STATUS on operands, each its index, the offset it must stay below and the offsets of its bytes: the first that
crosses it is the answer, with its lowest offending offset (R338, R339); where none does `rest` holds. -/
def FirstCrosses (answer : Option (Nat × Nat)) (st : Nat) : List (Nat × Nat × (Nat → Prop)) → Prop → Prop
  | [], rest => rest
  | (i, lim, has) :: l, rest =>
    (∀ a, has a → lim ≤ a → (∀ b, has b → lim ≤ b → a ≤ b) → answer = some (st, i + a % 2 ^ 32 * 2 ^ 16)) ∧
    ((∀ a, has a → a < lim) → FirstCrosses answer st l rest)

/-- Both tests of R339 on operands, each its capability word and index, its lowest offset and the offsets of its bytes. -/
def State.Bounded (s : State) (answer : Option (Nat × Nat)) (ops : List (BitVec 64 × Nat × Nat × (Nat → Prop))) : Prop :=
  FirstCrosses answer 0x19 (ops.map (fun o => (o.2.1, 64 * (s.capOf o.1).len, o.2.2.2))) <|
  FirstCrosses answer 0x1A (ops.map (fun o =>
    let b := 64 * (s.capOf o.1).base
    (o.2.1, ((b + o.2.2.1) / 2 ^ 21 + 1) * 2 ^ 21 - b, o.2.2.2))) (answer = none)

/-- Checks 0x10 to 0x14 of capability words, each with its index from SA, for a command of an address space that needs a KIND and a
right (R338). -/
def State.capConds (s : State) (asid : Nat) (filter : Bool) (right : Cap → Bool) (ws : List (BitVec 64 × Nat)) : List (Nat × Nat × Prop) :=
  let on (st : Nat) (p : BitVec 64 → Cap → Prop) : List (Nat × Nat × Prop) := ws.map (fun w => (st, w.2, p w.1 (s.capOf w.1)))
  on 0x10 (fun w e => e.valid = false ∨ e.gen ≠ w.toNat / 2 ^ 32 % 2 ^ 16) ++
  on 0x11 (fun w e => 32 * (w.toNat / 2 ^ 61) + e.ch ∈ s.deadChs) ++
  on 0x12 (fun _ e => e.owner ≠ asid) ++ on 0x13 (fun _ e => e.filter ≠ filter) ++ on 0x14 (fun _ e => right e = false)

/-- `k` is m·2^d rounded to an integer: toward zero, or to nearest with ties to even (R76). -/
def RoundsTo (rz : Bool) (m : Nat) (d : Int) (k : Nat) : Prop :=
  if 0 ≤ d then k = m * 2 ^ d.toNat
  else
    let D := 2 ^ (-d).toNat
    if rz then k = m / D
    else 2 * k * D ≤ 2 * m + D ∧ 2 * m ≤ 2 * k * D + D ∧ (2 * m = 2 * k * D + D ∨ 2 * k * D = 2 * m + D → k % 2 = 0)

/-- A byte of a bank as a command may find it (R99): the one that stands there, or one that a store younger than the command has
overwritten. -/
def MayRead (s : State) (c : Cmd) (bank off b : Nat) : Prop :=
  b = (readByte s.mem (unitLoc c.core bank (off % 2 ^ 18))).toNat ∨
  ∃ o ∈ c.older, o.bank = bank ∧ ∃ i, i < o.n ∧ (o.off + i) % 2 ^ 18 = off % 2 ^ 18 ∧ b = o.val / 256 ^ i % 256

/-- The completion record of a command of queue `q` stands at its place in the completion ring (R382). -/
def Recorded (s t : State) (q seq op status detail : Nat) : Prop :=
  ∀ loc, s.ringLoc (s.hq q).comp (16 * (seq % (s.hq q).slots)) = some loc →
    ∃ w ∈ t.order 131, w.loc = loc ∧ w.n = 16 ∧
      w.val = seq % 2 ^ 32 * 2 ^ 32 + status * 2 ^ 8 + op + detail % 2 ^ 64 * 2 ^ 64

/-- Nothing but the hardware queues, the commit points and the identifiers differs (a command's completion, R380 and R382). -/
def QueuesOnly (s t : State) : Prop := t = { s with hqs := t.hqs, orders := t.orders, nextId := t.nextId }

end Sys2Proof.Machine
end

