-- ==== Sys2Proof/Certificates/Slice0/Obligations.lean ====
section
/-! DEFINITION. The statements for the provers. A definition `Claim.<Name>` is one part of the statement that
names it; each statement stands as `Obligations.<Name>`. -/

open Sys2Proof Sys2Proof.Machine

/-! ### X slot: scalar instructions -/

/-- R131: "Each instruction computes SD ← f(a, b) with a = S[SA] and b = S[SB] in X-R, or b = SignExt(IMM) in X-I." The
table's f and latencies, for every register and immediate; the result reaches SD (S0 discards it) and nothing else. -/
def Obligations.ScalarArithmeticWritesItsFunction : Prop :=
  ∀ (g : BitVec 3) (sd sa : BitVec 6) (src : XSrc) (s : State), s.Runs g →
    let a := s.me.s sa
    let b := match src with | .reg r => s.me.s r | .imm v => v.signExtend 64
    WritesS (.add g sd sa src) s s 1 sd (BitVec.ofInt 64 (a.toInt + b.toInt)) ∧
    WritesS (.sub g sd sa src) s s 1 sd (BitVec.ofInt 64 (a.toInt - b.toInt)) ∧
    WritesS (.mul g sd sa src) s s 3 sd (BitVec.ofInt 64 (a.toInt * b.toInt)) ∧
    WritesS (.mulh g false sd sa src) s s 3 sd (BitVec.ofInt 64 (a.toInt * b.toInt / 2 ^ 64)) ∧
    WritesS (.mulh g true sd sa src) s s 3 sd (BitVec.ofNat 64 (a.toNat * b.toNat / 2 ^ 64)) ∧
    WritesS (.and g sd sa src) s s 1 sd (a &&& b) ∧
    WritesS (.or g sd sa src) s s 1 sd (a ||| b) ∧
    WritesS (.xor g sd sa src) s s 1 sd (a ^^^ b) ∧
    WritesS (.shl g sd sa src) s s 1 sd (BitVec.ofNat 64 (a.toNat * 2 ^ (b.toNat % 64))) ∧
    WritesS (.shr g sd sa src) s s 1 sd (BitVec.ofNat 64 (a.toNat / 2 ^ (b.toNat % 64))) ∧
    WritesS (.sra g sd sa src) s s 1 sd (BitVec.ofInt 64 (a.toInt / 2 ^ (b.toNat % 64))) ∧
    WritesS (.min g false sd sa src) s s 1 sd (BitVec.ofInt 64 (min a.toInt b.toInt)) ∧
    WritesS (.min g true sd sa src) s s 1 sd (BitVec.ofNat 64 (min a.toNat b.toNat)) ∧
    WritesS (.max g false sd sa src) s s 1 sd (BitVec.ofInt 64 (max a.toInt b.toInt)) ∧
    WritesS (.max g true sd sa src) s s 1 sd (BitVec.ofNat 64 (max a.toNat b.toNat))

/-- R132: "CLZ writes SD ← the number of leading zero bits of S[SA], which is 64 for zero. POPC writes SD ← the number of
one bits of S[SA]. Latency is 1 c." -/
def Obligations.BitCountsCountBits : Prop :=
  ∀ (g : BitVec 3) (sd sa : BitVec 6) (s : State), s.Runs g →
    let a := s.me.s sa
    WritesS (.clz g sd sa) s s 1 sd (BitVec.ofNat 64 (if a = 0#64 then 64 else 63 - Nat.log2 a.toNat)) ∧
    WritesS (.popc g sd sa) s s 1 sd (BitVec.ofNat 64 ((List.range 64).countP (fun j => a.getLsbD j)))

/-- R133: "SET.cc writes SD ← 1 if S[SA] cc b holds, and 0 otherwise. Here b is S[SB], or SignExt(IMM) in X-I. The signed
conditions read both operands as signed and the unsigned ones as unsigned. Latency is 1 c." R134: "SEL writes
SD ← S[SA] if S[SX] ≠ 0, and SD ← S[SB] otherwise. Latency is 1 c." -/
def Sys2Proof.Claim.SetAndSelectFollowTheirConditions : Prop :=
  ∀ (g : BitVec 3) (sd sa : BitVec 6) (src : XSrc) (s : State), s.Runs g →
    let a := s.me.s sa
    let b := match src with | .reg r => s.me.s r | .imm v => v.signExtend 64
    let one (p : Bool) : BitVec 64 := if p then 1#64 else 0#64
    WritesS (.set g .eq sd sa src) s s 1 sd (one (decide (a = b))) ∧
    WritesS (.set g .ne sd sa src) s s 1 sd (one (decide (a ≠ b))) ∧
    WritesS (.set g .lt sd sa src) s s 1 sd (one (decide (a.toInt < b.toInt))) ∧
    WritesS (.set g .ge sd sa src) s s 1 sd (one (decide (b.toInt ≤ a.toInt))) ∧
    WritesS (.set g .le sd sa src) s s 1 sd (one (decide (a.toInt ≤ b.toInt))) ∧
    WritesS (.set g .gt sd sa src) s s 1 sd (one (decide (b.toInt < a.toInt))) ∧
    WritesS (.set g .lo sd sa src) s s 1 sd (one (decide (a.toNat < b.toNat))) ∧
    WritesS (.set g .hs sd sa src) s s 1 sd (one (decide (b.toNat ≤ a.toNat))) ∧
    WritesS (.set g .ls sd sa src) s s 1 sd (one (decide (a.toNat ≤ b.toNat))) ∧
    WritesS (.set g .hi sd sa src) s s 1 sd (one (decide (b.toNat < a.toNat))) ∧
    ∀ sc sb, WritesS (.sel g sd sc sa sb) s s 1 sd (if s.me.s sc ≠ 0#64 then a else s.me.s sb)

/-- R135: "LI writes SD ← SignExt(IMM). LIH writes SD ← IMM[31:0] ‖ S[SA][31:0]." and the forms of R136: MOVA to and from an
address register and with an immediate; ADDA adds to OFFSET modulo 2^18 and keeps BANK and STEP. Latency 1 c. -/
def Sys2Proof.Claim.ImmediatesAndAddressRegisters : Prop :=
  ∀ (g : BitVec 3) (sd sa : BitVec 6) (ad aa : BitVec 4) (v : BitVec 32) (src : XSrc) (s : State), s.Runs g →
    let b := match src with | .reg r => s.me.s r | .imm v => v.signExtend 64
    WritesS (.li g sd v) s s 1 sd (v.signExtend 64) ∧
    WritesS (.lih g sd sa v) s s 1 sd (BitVec.ofNat 64 (v.toNat * 2 ^ 32 + (s.me.s sa).toNat % 2 ^ 32)) ∧
    WritesA (.mova g (.toA ad sa)) s 1 ad (BitVec.ofNat 32 (s.me.s sa).toNat) ∧
    WritesS (.mova g (.fromA sd aa)) s s 1 sd (BitVec.ofNat 64 (s.me.a aa).toNat) ∧
    WritesA (.mova g (.immA ad v)) s 1 ad v ∧
    WritesA (.adda g ad aa src) s 1 ad (BitVec.ofNat 32
      ((s.me.a aa).toNat / 2 ^ 18 * 2 ^ 18 + ((s.me.a aa).toNat % 2 ^ 18 + b.toNat) % 2 ^ 18))

/-- R48 and R129: a slot whose guard is closed issues as a no-operation: nothing whatever changes. That it then takes neither the
loop trap of R127 nor cause 0x09 of R61 either is read from R48 by inference (DEDUCED, log 28). -/
def Obligations.ClosedGuardIsNoOperation : Prop :=
  ∀ (i : Instr) (g : BitVec 3) (s : State), i.guard = some g → s.Idles g → exec i s = .next s

/-! ### X slot: control transfer, loops, work items -/

/-- R137, outside a loop body: a taken transfer puts the context at its target, a 64-bit address, no earlier than
t + 2 + GAP; an untaken BR changes nothing; CALL links PC + ln at t + 1. -/
def Sys2Proof.Claim.TransfersReachTheirTargets : Prop :=
  ∀ (g : BitVec 3) (sd sa sb : BitVec 6) (off : BitVec 30) (cc : Cond) (s : State), s.Runs g → s.me.loop = none →
    let rel (base : Nat) : Nat := (((base : Int) + 4 * off.toInt) % (2 : Int) ^ 64).toNat
    let base := if sa = 0#6 then s.iss.pc else (s.me.s sa).toNat
    let jumped (a : Nat) (t : State) : Prop :=
      t.me.pc = a ∧ t.me.readyAt = s.cycle + 2 + s.iss.gap ∧ RegsSame s.me t.me ∧ MemSame s t ∧ OthersSame s.cur s t ∧
      t.iss = s.iss ∧ t.ends = s.ends
    (condHolds cc (s.me.s sa) (s.me.s sb) = true →
      ∃ t, exec (.br g cc sa sb off) s = .next t ∧ jumped (rel s.iss.pc) t ∧ t.inflight = s.inflight) ∧
    (condHolds cc (s.me.s sa) (s.me.s sb) = false → exec (.br g cc sa sb off) s = .next s) ∧
    (∃ t, exec (.jmp g sa off) s = .next t ∧ jumped (rel base) t ∧ t.inflight = s.inflight) ∧
    (∃ t, exec (.call g sd sa off) s = .next t ∧ jumped (rel base) t ∧
      t.inflight = s.inflight ++ [s.result 1 (.s sd (BitVec.ofNat 64 (s.iss.pc + s.iss.len))) 0#7]) ∧
    (∃ t, exec (.ret g sa) s = .next t ∧ jumped (s.me.s sa).toNat t ∧ t.inflight = s.inflight)

/-- R125 and R138, outside a loop body, for a count N below 2^32: LOOP starts a body at the next bundle with I = N + s − 1
iterations and STAGE as iteration 0 has it; with N = 0 the body is stepped over and STAGE stays. -/
def Sys2Proof.Claim.LoopStartsItsBody : Prop :=
  ∀ (g : BitVec 3) (rot : Bool) (stg : BitVec 3) (cnt : XSrc) (s : State), s.Runs g → s.me.loop = none →
    let n := match cnt with | .reg r => (s.me.s r).toNat | .imm v => v.toNat
    n < 2 ^ 32 →
    ∃ t l, exec (.loop g rot stg cnt) s = .next t ∧ t = s.withMe t.me ∧ t.me.loop = some l ∧
      t.me = { s.me with loop := some l, stage := t.me.stage } ∧
      l.start = s.iss.pc + s.iss.len ∧ l.rot = rot ∧ l.iter = 0 ∧ l.cnt = n ∧ l.stg = stg.toNat ∧ l.met = 0 ∧ l.buf = [] ∧
      (n = 0 → l.skip = true ∧ t.me.stage = s.me.stage) ∧
      (n ≠ 0 → l.skip = false ∧ l.total = n + stg.toNat - 1 ∧
        ∀ j, 1 ≤ j → j ≤ 7 → t.me.stage.getLsbD j = (decide (j - 1 ≤ 0 ∧ 2 ≤ j + n)))

/-- R127: in a loop body BR, JMP, CALL, RET and LOOP take the loop trap with cause 0x02, MTC to STAGE or VROT takes it with
cause 0x03, and a LOOP whose register count is above 2^32 − 1 takes it with cause 0x04. -/
def Sys2Proof.Claim.LoopTrapsAreTaken : Prop :=
  ∀ (g : BitVec 3) (sd sa sb : BitVec 6) (off : BitVec 30) (cc : Cond) (rot : Bool) (stg : BitVec 3) (cnt : XSrc) (s : State),
    s.Runs g →
    (s.me.loop.isSome = true →
      ∀ i, i ∈ ([.br g cc sa sb off, .jmp g sa off, .call g sd sa off, .ret g sa, .loop g rot stg cnt] : List Instr) →
        ∃ t, exec i s = .next t ∧ Trapped s t 0x05 0x02 0 0) ∧
    (s.me.loop.isSome = true → ∀ crn : BitVec 4, crn = 5#4 ∨ crn = 7#4 →
      ∃ t, exec (.mtc g crn sa) s = .next t ∧ Trapped s t 0x05 0x03 0 0) ∧
    (s.me.loop = none → 2 ^ 32 ≤ (s.me.s sa).toNat →
      ∃ t, exec (.loop g rot stg (.reg sa)) s = .next t ∧ Trapped s t 0x05 0x04 0 0)

/-- R139, first half: WNEXT advances the context's position while the range holds a next one and writes 1, with WID at t + 1;
at the end of the range it writes 0 and leaves the context as it is. The second form reads field k of WID, zero-extended; 0
where the field is not declared. -/
def Obligations.WorkItemsAdvanceInTheirRange : Prop :=
  ∀ (g : BitVec 3) (sd : BitVec 6) (k : BitVec 3) (s : State), s.Runs g →
    let work := (s.kernel s.me.kernel).work
    (s.me.next < s.me.rangeHi → exec (.wnext g sd) s =
      .next ((s.withMe { s.me with next := s.me.next + 1 }).plus [s.result 1 (.s sd 1#64) 0#7,
        s.result 1 (.wid (BitVec.ofNat 64 (widOf work (s.kernel s.me.kernel).nest s.me.next 0))) 0#7])) ∧
    (s.me.rangeHi ≤ s.me.next → WritesS (.wnext g sd) s s 1 sd 0#64) ∧
    (∀ f, work[k.toNat]? = some f → WritesS (.wnextField g sd k) s s 1 sd
      (BitVec.ofNat 64 (s.me.wid.toNat / 2 ^ (((work.take k.toNat).map Prod.fst).sum) % 2 ^ f.1))) ∧
    (work[k.toNat]? = none → WritesS (.wnextField g sd k) s s 1 sd 0#64)

/-- R140: EXIT ORs the low 32 bits of its operand into the kernel's exit-status word and ends the context (R130); TRAP takes
the software trap with its 32-bit value in INFO, and resumes at PC + length. -/
def Obligations.ExitAndTrapEndOrStop : Prop :=
  ∀ (g : BitVec 3) (code : XSrc) (s : State), s.Runs g →
    let v := match code with | .reg r => (s.me.s r).toNat % 2 ^ 32 | .imm v => v.toNat
    (∃ t, exec (.exit g code) s = .next t ∧ t.me.life = .exited ∧
      (t.kernel s.me.kernel).exit = (s.kernel s.me.kernel).exit ||| BitVec.ofNat 32 v ∧
      t.me.sp.depth = 0 ∧ t.me.loop = none ∧ (∀ r ∈ t.inflight, r.ctx = s.cur → r.due ≤ s.cycle) ∧ MemSame s t) ∧
    (∃ t, exec (.trap g code) s = .next t ∧ t.me.life = .trapped ∧
      t.me.trap = some { code := 0x0B, cause := 0, slot := s.iss.slot, info := v, addr := 0 } ∧
      t.me.trapPc = s.iss.pc ∧ t.me.resumePc = s.iss.pc + s.iss.len ∧ RegsSame s.me t.me ∧ MemSame s t)

/-- `Claim.SetAndSelectFollowTheirConditions` and `Claim.ImmediatesAndAddressRegisters`. -/
def Obligations.ScalarConditionsAndImmediates : Prop :=
  Sys2Proof.Claim.SetAndSelectFollowTheirConditions ∧ Sys2Proof.Claim.ImmediatesAndAddressRegisters

/-- `Claim.TransfersReachTheirTargets`, `Claim.LoopStartsItsBody` and `Claim.LoopTrapsAreTaken`. -/
def Obligations.TransfersAndLoopsReachTheirTargets : Prop :=
  Sys2Proof.Claim.TransfersReachTheirTargets ∧ Sys2Proof.Claim.LoopStartsItsBody ∧ Sys2Proof.Claim.LoopTrapsAreTaken

/-! ### X slot: control registers, shape registers, tensor-table entries, spoil markers -/

/-- R141, first sentence, with the layouts of R72, R73, R121, R122, R221 and R283: MFC writes SD ← the register's value as it
stands, with a latency of 1 c; PC is the MFC bundle's own address. -/
def Sys2Proof.Claim.ControlRegistersAreRead : Prop :=
  ∀ (g : BitVec 3) (sd : BitVec 6) (s : State), s.Runs g →
    let reads (crn : BitVec 4) (v : BitVec 64) : Prop := WritesS (.mfc g sd crn) s s 1 sd v
    reads 0#4 (BitVec.ofNat 64 s.iss.pc) ∧ reads 1#4 (s.me.fpcr.setWidth 64) ∧ reads 2#4 (s.me.fpstat.setWidth 64) ∧
    reads 3#4 s.me.seed ∧ reads 4#4 s.me.srctr ∧ reads 5#4 (s.me.stage.setWidth 64) ∧
    (s.me.loop = none → reads 6#4 0#64) ∧
    (∀ l, s.me.loop = some l → reads 6#4 (BitVec.ofNat 64 (l.total - l.iter))) ∧
    reads 7#4 (BitVec.ofNat 64 s.me.vrot) ∧ reads 8#4 s.me.tagSet ∧
    reads 9#4 (BitVec.ofNat 64 (s.me.sp.depth + s.me.sp.frames * 2 ^ 20 + s.me.sp.spill * 2 ^ 36)) ∧
    reads 10#4 (BitVec.ofNat 64 (s.me.sp.base * 2 ^ 9 + s.me.sp.bank * 2 ^ 18)) ∧
    reads 11#4 (BitVec.ofNat 64 (s.me.sp.lim * 2 ^ 9)) ∧ reads 12#4 s.me.wid ∧ reads 13#4 s.me.mstat ∧
    ((s.kernel s.me.kernel).expo = none → reads 14#4 0#64) ∧
    (∀ x, (s.kernel s.me.kernel).expo = some x → reads 14#4 (BitVec.ofInt 64 (mget {} s.expos x).lsexp)) ∧
    reads 15#4 (BitVec.ofNat 64 (s.cycle - s.me.born))

/-- R141 (MTC) with R122, R221, R222 and R283: MTC writes its register at the end of its issue cycle, keeping the register's own
bits, in MSTAT all but its reserved ones; a spoil register takes its value only with an empty stack and an area that does not end
before it starts, and else the bundle takes the spoil-overflow trap with cause 0x02. A LIM above 512 is held as it is written, a
choice of the model (log 49). -/
def Sys2Proof.Claim.ControlRegistersAreWritten : Prop :=
  ∀ (g : BitVec 3) (sa : BitVec 6) (s : State), s.Runs g →
    let v := s.me.s sa
    let writes (crn : BitVec 4) (f : Ctx → Ctx) : Prop :=
      WritesAtEnd (.mtc g crn sa) s (.mtc crn.toNat v) (fun c d => d = f c)
    writes 1#4 (fun c => { c with fpcr := v.setWidth 5 }) ∧ writes 2#4 (fun c => { c with fpstat := v.setWidth 7 }) ∧
    writes 3#4 (fun c => { c with seed := v }) ∧ writes 4#4 (fun c => { c with srctr := v }) ∧
    (s.me.loop = none → writes 5#4 (fun c => { c with stage := v.setWidth 8 &&& 0xFE#8 })) ∧
    (s.me.loop = none → writes 7#4 (fun c => { c with vrot := v.toNat % 1024 })) ∧
    (s.me.sp.depth = 0 → v.toNat / 2 ^ 9 % 2 ^ 9 ≤ s.me.sp.lim →
      writes 10#4 (fun c => { c with sp := { c.sp with base := v.toNat / 2 ^ 9 % 2 ^ 9 } })) ∧
    (s.me.sp.depth = 0 → s.me.sp.base ≤ v.toNat / 2 ^ 9 % 2 ^ 10 →
      writes 11#4 (fun c => { c with sp := { c.sp with lim := v.toNat / 2 ^ 9 % 2 ^ 10 } })) ∧
    (∃ w, writes 13#4 (fun c => { c with mstat := w }) ∧ ∀ b, b < 64 →
      w.getLsbD b = (v.getLsbD b && decide (b ∉ [2, 3, 8, 9, 10, 42, 43, 44]))) ∧
    (∀ crn : BitVec 4, s.me.sp.depth ≠ 0 ∧ (crn = 10#4 ∨ crn = 11#4) ∨
        (crn = 10#4 ∧ s.me.sp.lim < v.toNat / 2 ^ 9 % 2 ^ 9) ∨ (crn = 11#4 ∧ v.toNat / 2 ^ 9 % 2 ^ 10 < s.me.sp.base) →
      ∃ t, exec (.mtc g crn sa) s = .next t ∧ Trapped s t 0x07 0x02 s.iss.depth0 0)

/-- R142 with the fields of R182, R254 and R305: SHW writes the low bits of its value, to the field's width, into that field
of the shadow copy at the end of the cycle; the copy's other bits and every other copy stay; a field that the class does not
define takes the illegal-instruction trap with cause 0x07. -/
def Sys2Proof.Claim.ShapeFieldsAreWritten : Prop :=
  ∀ (g : BitVec 3) (cls n : BitVec 2) (fld : BitVec 6) (src : XSrc) (s : State), s.Runs g →
    let v := match src with | .reg r => (s.me.s r).toNat | .imm v => v.toNat
    let table : List (Nat × Nat × Nat × Nat) :=
      [(0, 0, 0, 13), (0, 1, 13, 2), (0, 2, 15, 12), (1, 0, 0, 13), (1, 2, 15, 12), (2, 0, 52, 12), (2, 1, 39, 13),
       (2, 2, 14, 25), (2, 3, 0, 12), (2, 4, 12, 2), (3, 0, 0, 16), (3, 1, 16, 16), (3, 2, 32, 16), (3, 3, 48, 16)]
    let key := 8 * cls.toNat + 2 * n.toNat + 1
    (∀ lo w, (cls.toNat, fld.toNat, lo, w) ∈ table → ∃ e, WritesAtEnd (.shw g cls n fld src) s e (fun c d =>
      let old := (mget 0#64 c.shape key).toNat
      let new := (mget 0#64 d.shape key).toNat
      new % 2 ^ lo = old % 2 ^ lo ∧ new / 2 ^ lo % 2 ^ w = v % 2 ^ w ∧ new / 2 ^ (lo + w) = old / 2 ^ (lo + w) ∧
      (∀ k, k ≠ key → mget 0#64 d.shape k = mget 0#64 c.shape k) ∧ d = { c with shape := d.shape })) ∧
    ((∀ lo w, (cls.toNat, fld.toNat, lo, w) ∉ table) →
      ∃ t, exec (.shw g cls n fld src) s = .next t ∧ Trapped s t 0x01 0x07 0 0)

/-- R143: TDR reads each field of its entry, 1 c after issue; an index of 17 to 63 takes cause 0x07. -/
def Sys2Proof.Claim.TensorFieldsAreRead : Prop :=
  ∀ (g : BitVec 3) (sd tid fld : BitVec 6) (imm : Bool) (s : State), s.Runs g →
    let e := s.me.te tid.toNat
    let reads (k : BitVec 6) (v : BitVec 64) : Prop := WritesS (.tdr g sd tid k imm) s s 1 sd v
    reads 0#6 (BitVec.ofNat 64 e.fmt.code) ∧ reads 1#6 (BitVec.ofNat 64 e.rank) ∧ reads 2#6 (BitVec.ofNat 64 e.kd) ∧
    reads 3#6 (if e.mx then 1#64 else 0#64) ∧ reads 4#6 (BitVec.ofInt 64 e.bias) ∧ reads 5#6 (BitVec.ofNat 64 e.kind) ∧
    reads 6#6 e.loc ∧ reads 7#6 e.scale ∧
    (∀ j x, e.ext[j]? = some x → j < 4 → reads (BitVec.ofNat 6 (8 + j)) (BitVec.ofNat 64 x)) ∧
    (∀ j x, e.str[j]? = some x → j < 4 → reads (BitVec.ofNat 6 (12 + j)) (BitVec.ofInt 64 x)) ∧
    (1 ≤ e.rank → e.rank ≤ 4 → reads 16#6 (BitVec.ofNat 64 (2 ^ 24 + (if e.mx then 2 ^ 16 else 0) +
      (e.bias % 256).toNat * 2 ^ 8 + e.kd % 4 * 2 ^ 6 + (e.rank - 1) * 2 ^ 4 + e.fmt.code))) ∧
    (16 < fld.toNat → ∃ t, exec (.tdr g sd tid fld imm) s = .next t ∧ Trapped s t 0x01 0x07 0 0)

/-- R143: a TDW whose value lies in its field's range writes that field alone, at the end of its cycle; one outside it, or a
LOC or SCALE with an unused bit set, takes the illegal-instruction trap with cause 0x07. -/
def Sys2Proof.Claim.TensorFieldsAreWritten : Prop :=
  ∀ (g : BitVec 3) (tid fld : BitVec 6) (src : XSrc) (s : State), s.Runs g → fld.toNat < 16 →
    let v := match src with | .reg r => s.me.s r | .imm v => v.signExtend 64
    let kind := (s.me.te tid.toNat).kind
    let fits : Prop := match fld.toNat with
      | 0 => v.toNat ≤ 14
      | 1 => 1 ≤ v.toNat ∧ v.toNat ≤ 4
      | 2 => v.toNat ≤ 3
      | 3 => v.toNat ≤ 1
      | 4 => (-128 : Int) ≤ v.toInt ∧ v.toInt ≤ (127 : Int)
      | 5 => v.toNat ≤ 4
      | 6 | 7 => (kind ≤ 1 → v.toNat < 2 ^ 22) ∧ (kind = 2 → v.toNat < 2 ^ 28)
      | 8 | 9 | 10 | 11 => v.toNat < 2 ^ 32
      | _ => -(2 ^ 47 : Int) ≤ v.toInt ∧ v.toInt < (2 : Int) ^ 47
    (fits → ∃ w, WritesAtEnd (.tdw g tid fld src) s w (fun c d =>
      ((c.te tid.toNat).ext.length = 4 → (c.te tid.toNat).str.length = 4 →
        ∀ k, k < 16 → (d.te tid.toNat).read k = if k = fld.toNat then v else (c.te tid.toNat).read k) ∧
      (∀ n, n ≠ tid.toNat → d.te n = c.te n) ∧ d = { c with t := d.t })) ∧
    (¬ fits → ∃ t, exec (.tdw g tid fld src) s = .next t ∧ Trapped s t 0x01 0x07 0 0)

/-- R143 (HDR): a TDW to HDR whose address an R window translates waits for the header word, and TDW_HEADER_READ then sets
FMT, RANK, KD, MX and BIAS from it and nothing else of the entry; another address takes the tensor-header trap with cause
0x01, a header that R70 refuses with cause 0x02. -/
def Sys2Proof.Claim.TensorHeadersAreRead : Prop :=
  (∀ (g : BitVec 3) (tid : BitVec 6) (src : XSrc) (s : State), s.Runs g →
    let a := match src with | .reg r => s.me.s r | .imm v => v.signExtend 64
    let pa := windowPa (s.kernel s.me.kernel).windows 1 a.toNat
    (pa = none ∨ a.toNat % 8 ≠ 0 →
      ∃ t, exec (.tdw g tid 16#6 src) s = .next t ∧ Trapped s t 0x0C 0x01 0 a.toNat) ∧
    (∀ p, pa = some p → a.toNat % 8 = 0 → headerOk (s.readPa p 8) = false →
      ∃ t, exec (.tdw g tid 16#6 src) s = .next t ∧ Trapped s t 0x0C 0x02 0 a.toNat) ∧
    (∀ p, pa = some p → a.toNat % 8 = 0 → headerOk (s.readPa p 8) = true →
      ∃ t at_, exec (.tdw g tid 16#6 src) s = .next t ∧ t.me = { s.me with hdrRead := some (tid.toNat, a, at_) } ∧
        OthersSame s.cur s t ∧ MemSame s t ∧ t.inflight = s.inflight ∧ t.ends = s.ends)) ∧
  (∀ (u : Nat) (s : State) (tid p at_ : Nat) (a : BitVec 64), (s.ctx u).hdrRead = some (tid, a, at_) →
    windowPa (s.kernel (s.ctx u).kernel).windows 1 a.toNat = some p →
    let h := s.readPa p 8
    headerOk h = true →
    ∃ t e, exec (.tdwHeaderRead u) s = .next t ∧ t.ctx u = { s.ctx u with
        t := (t.ctx u).t, hdrRead := none, pre := (s.ctx u).pre.later s.cycle } ∧
      OthersSame u s t ∧ MemSame s t ∧ (∀ n, n ≠ tid → (t.ctx u).te n = (s.ctx u).te n) ∧ (t.ctx u).te tid = e ∧
      e = { (s.ctx u).te tid with fmt := e.fmt, rank := e.rank, kd := e.kd, mx := e.mx, bias := e.bias } ∧
      e.fmt.code = h % 16 ∧ e.rank = h / 2 ^ 4 % 4 + 1 ∧ e.kd = h / 2 ^ 6 % 4 ∧
      e.mx = decide (h / 2 ^ 16 % 2 = 1) ∧ e.bias = (BitVec.ofNat 8 (h / 2 ^ 8)).toInt)

/-- R242: "SPMARK pushes a 16-byte marker frame with OPC 0x01, NAME and BELOW = FRAMES, under SpoilPush. It writes SD ← the
DEPTH before the push at t + 1." where the top has room for the bundle's frames (R224) and the stack for the marker. -/
def Sys2Proof.Claim.MarkersArePushed : Prop :=
  ∀ (g : BitVec 3) (sd : BitVec 6) (src : XSrc) (s : State), s.Runs g →
    let p := s.me.sp
    let name := match src with | .reg r => (s.me.s r).toNat | .imm v => v.toNat
    (¬ (65536 - (s.iss.depth0 - p.spill) < s.iss.pushMax + 16 ∧ p.spill < 512 * (p.lim - p.base)) →
      (p.depth + 16 ≤ 65536 + 512 * (p.lim - p.base) → p.spill ≤ p.depth →
        ∃ t, exec (.spmark g sd src) s = .next t ∧ t.me = { s.me with sp := t.me.sp } ∧
          t.inflight = s.inflight ++ [s.result 1 (.s sd (BitVec.ofNat 64 p.depth)) 0#7] ∧
          t.me.sp = { p with depth := p.depth + 16, frames := p.frames + 1, top := t.me.sp.top } ∧
          t.me.sp.peek p.depth 8 = 1 * 2 ^ 56 + name % 2 ^ 16 ∧
          t.me.sp.peek (p.depth + 8) 8 = p.frames % 2 ^ 16 * 2 ^ 16 + 16 ∧
          MemSame s t ∧ OthersSame s.cur s t) ∧
      (65536 + 512 * (p.lim - p.base) < p.depth + 16 →
        ∃ t, exec (.spmark g sd src) s = .next t ∧ Trapped s t 0x07 0x01 s.iss.depth0 0)) ∧
    WritesS (.spdepth g sd) s s 1 sd (BitVec.ofNat 64 (p.frames * 2 ^ 20 + p.depth))

/-- R243: SPDROP to a stack position d above DEPTH takes underflow cause 0x02; where the top holds, at d, a well-formed marker
of its name, it discards every frame above d together with the marker; where the 16 bytes there are another, it takes LIFO
cause 0x03. Every frame's payload has been written (else the bundle waits, R224). -/
def Sys2Proof.Claim.MarkersAreDropped : Prop :=
  ∀ (g : BitVec 3) (sa : BitVec 6) (src : XSrc) (s : State), s.Runs g →
    let p := s.me.sp
    let d := (s.me.s sa).toNat
    let name := (match src with | .reg r => (s.me.s r).toNat | .imm v => v.toNat) % 2 ^ 16
    let below := p.peek (d + 8) 8 / 2 ^ 16 % 2 ^ 16
    let marker : Prop := p.peek d 8 = 1 * 2 ^ 56 + name ∧ p.peek (d + 8) 8 = below * 2 ^ 16 + 16 ∧ below < p.frames
    (p.depth < d → ∃ t, exec (.spdrop g sa src) s = .next t ∧ Trapped s t 0x08 0x02 s.iss.depth0 0) ∧
    (d + 16 ≤ p.depth → p.spill ≤ d → p.pay = [] →
      (marker → ∃ t, exec (.spdrop g sa src) s = .next t ∧ t.me = { s.me with sp := t.me.sp } ∧
        t = s.withMe t.me ∧ t.me.sp = { p with depth := d, frames := below, top := t.me.sp.top } ∧
        ∀ a n, p.spill ≤ a → a + n ≤ d → t.me.sp.peek a n = p.peek a n) ∧
      (¬ marker → ∃ t, exec (.spdrop g sa src) s = .next t ∧ Trapped s t 0x09 0x03 s.iss.depth0 0))

/-- `Claim.ControlRegistersAreRead` and `Claim.ControlRegistersAreWritten`. -/
def Obligations.ControlRegistersAreReadAndWritten : Prop :=
  Sys2Proof.Claim.ControlRegistersAreRead ∧ Sys2Proof.Claim.ControlRegistersAreWritten

/-- `Claim.ShapeFieldsAreWritten`, `Claim.TensorFieldsAreRead`, `Claim.TensorFieldsAreWritten` and `Claim.TensorHeadersAreRead`. -/
def Obligations.ShapeAndTensorFieldsAreReadAndWritten : Prop :=
  Sys2Proof.Claim.ShapeFieldsAreWritten ∧ Sys2Proof.Claim.TensorFieldsAreRead ∧ Sys2Proof.Claim.TensorFieldsAreWritten ∧ Sys2Proof.Claim.TensorHeadersAreRead

/-- `Claim.MarkersArePushed` and `Claim.MarkersAreDropped`. -/
def Obligations.MarkersFollowTheSpoilStack : Prop :=
  Sys2Proof.Claim.MarkersArePushed ∧ Sys2Proof.Claim.MarkersAreDropped

/-! ### V slots: arithmetic -/

/-- R151: VADD, VSUB, VMUL, VFMA and VFMS read their operands at issue (an FZI-flushed read, R77), combine them exactly and
round once in each active lane; flags under R66, R76 and R77; an SR operation steps SRCTR (R82). -/
def Sys2Proof.Claim.FloatingArithmeticRoundsOnce : Prop :=
  ∀ (f : VF) (s : State), s.RunsV f (regs3 f) →
    let m := captureModes s.me.fpcr f.ro s.me.seed s.me.srctr
    let rd := m.mode == .rd
    let a k := readVal m f.ty (s.laneA f k)
    let b k := readVal m f.ty (s.laneB f k)
    let c k := readVal m f.ty (s.laneD f k)
    let writes (i : Instr) (lat : Nat) (x : Nat → Ext × Bool) (fl : Nat → Flags) : Prop :=
      WritesV i s (s.afterRo f.ro) lat f.opd.toNat f.ty (s.on f) (fun k => (roundTo m f.ty k (x k).1).1)
        (fun k => fl k ||| (if (x k).2 then fNV else 0#7) ||| (roundTo m f.ty k (x k).1).2)
    let two k := (a k).2 ||| (b k).2
    let three k := (a k).2 ||| (b k).2 ||| (c k).2
    writes (.vadd f) 3 (fun k => addExt rd (a k).1 (b k).1) two ∧
    writes (.vsub f) 3 (fun k => addExt rd (a k).1 (negExt (b k).1)) two ∧
    writes (.vmul f) 5 (fun k => mulExt (a k).1 (b k).1) two ∧
    writes (.vfma f) 5 (fun k => ((addExt rd (c k).1 (mulExt (a k).1 (b k).1).1).1,
      (mulExt (a k).1 (b k).1).2 || (addExt rd (c k).1 (mulExt (a k).1 (b k).1).1).2)) three ∧
    writes (.vfms f) 5 (fun k => ((addExt rd (c k).1 (negExt (mulExt (a k).1 (b k).1).1)).1,
      (mulExt (a k).1 (b k).1).2 || (addExt rd (c k).1 (negExt (mulExt (a k).1 (b k).1).1)).2)) three

/-- R152: "If an operand is a NaN, the result is the default NaN, and NV is set when that NaN is signalling." Else VMIN gives
the smaller and VMAX the larger operand, −0 below +0, VABS clears and VNEG flips the sign, of a read that FZI flushes to a
zero of its sign; no result is rounded. (RO is 0 in every encoding, R146.) -/
def Sys2Proof.Claim.FloatingSelectionAndSign : Prop :=
  ∀ (f : VF) (s : State), f.ro = 0#2 →
    let m := captureModes s.me.fpcr 0#2 s.me.seed s.me.srctr
    let h := 2 ^ (f.ty.width - 1)
    let flushed k x := if m.fzi && isSub f.ty x then x / h * h else k
    let a k := flushed (s.laneA f k) (s.laneA f k)
    let b k := flushed (s.laneB f k) (s.laneB f k)
    let flA k := (if m.fzi && isSub f.ty (s.laneA f k) then fDI else 0#7) ||| (if isSNaN f.ty (s.laneA f k) then fNV else 0#7)
    let flB k := (if m.fzi && isSub f.ty (s.laneB f k) then fDI else 0#7) ||| (if isSNaN f.ty (s.laneB f k) then fNV else 0#7)
    let less x y := ltSel (valOf f.ty x) (valOf f.ty y)
    let nan2 k := isNaN f.ty (s.laneA f k) || isNaN f.ty (s.laneB f k)
    (f.ty = .fp16 ∨ f.ty = .bf16 ∨ f.ty = .fp32) →
    (s.RunsV f (regs3 f) →
      WritesV (.vmin f) s s 3 f.opd.toNat f.ty (s.on f)
        (fun k => if nan2 k then defaultNaN f.ty else if less (b k) (a k) then b k else a k) (fun k => flA k ||| flB k) ∧
      WritesV (.vmax f) s s 3 f.opd.toNat f.ty (s.on f)
        (fun k => if nan2 k then defaultNaN f.ty else if less (a k) (b k) then b k else a k) (fun k => flA k ||| flB k)) ∧
    (s.RunsV f (regs2 f) →
      WritesV (.vabs f) s s 3 f.opd.toNat f.ty (s.on f)
        (fun k => if isNaN f.ty (s.laneA f k) then defaultNaN f.ty else a k % h) flA ∧
      WritesV (.vneg f) s s 3 f.opd.toNat f.ty (s.on f)
        (fun k => if isNaN f.ty (s.laneA f k) then defaultNaN f.ty else a k + h) flA)

/-- R153 (arithmetic): the exact integer result of each active lane, clamped to the type with SAT, which sets FPSTAT.SAT for a
lane that clamps (R79), and taken modulo 2^w without. -/
def Sys2Proof.Claim.IntegerArithmeticFitsItsType : Prop :=
  ∀ (f : VF) (s : State), f.ro = 0#2 → f.ty.isInt = true →
    let clamp (z : Int) : Int := max (intMin f.ty) (min (intMax f.ty) z)
    let pat (z : Int) : Nat := (z % (2 : Int) ^ f.ty.width).toNat
    let fit (z : Int) : Nat := if f.opx.getLsbD 0 then pat (clamp z) else pat z
    let fl (z : Int) : Flags := if f.opx.getLsbD 0 && decide (clamp z ≠ z) then fSAT else 0#7
    let a k := intOf f.ty (s.laneA f k)
    let b k := intOf f.ty (s.laneB f k)
    let writes (i : Instr) (lat : Nat) (z : Nat → Int) : Prop :=
      WritesV i s s lat f.opd.toNat f.ty (s.on f) (fun k => fit (z k)) (fun k => fl (z k))
    (s.RunsV f (regs3 f) →
      writes (.viadd f) 3 (fun k => a k + b k) ∧ writes (.visub f) 3 (fun k => a k - b k) ∧
      writes (.vimul f) 5 (fun k => a k * b k) ∧
      WritesV (.vimin f) s s 3 f.opd.toNat f.ty (s.on f) (fun k => pat (min (a k) (b k))) (fun _ => 0#7) ∧
      WritesV (.vimax f) s s 3 f.opd.toNat f.ty (s.on f) (fun k => pat (max (a k) (b k))) (fun _ => 0#7)) ∧
    (s.RunsV f (regs2 f) → writes (.viabs f) 3 (fun k => ((a k).natAbs : Int)))

/-- R153 (shifts and logic): the count is Lane(Vb) or the immediate; VSHR reads its lane as unsigned and VSRA as signed; a
count at or above the width gives what the formula gives. -/
def Sys2Proof.Claim.ShiftsAndLogicActOnLanes : Prop :=
  ∀ (f : VF) (s : State), f.ro = 0#2 →
    let pat (z : Int) : Nat := (z % (2 : Int) ^ f.ty.width).toNat
    let count k := if f.opx.getLsbD 1 then f.opb.toNat % 64 else s.laneB f k
    let shl k : Int := intOf f.ty (s.laneA f k) * 2 ^ count k
    let clamp (z : Int) : Int := max (intMin f.ty) (min (intMax f.ty) z)
    let sat := f.opx.getLsbD 0
    let signed (x : Nat) : Int := if 2 ^ (f.ty.width - 1) ≤ x then (x : Int) - 2 ^ f.ty.width else x
    let writes (i : Instr) (v : Nat → Nat) : Prop := WritesV i s s 3 f.opd.toNat f.ty (s.on f) v (fun _ => 0#7)
    (f.ty.isInt = true → s.RunsV f (regs2 f ++ (if f.opx.getLsbD 1 then [] else f.regB)) →
      WritesV (.vshl f) s s 3 f.opd.toNat f.ty (s.on f) (fun k => pat (if sat then clamp (shl k) else shl k))
        (fun k => if sat && decide (clamp (shl k) ≠ shl k) then fSAT else 0#7) ∧
      writes (.vshr f) (fun k => s.laneA f k / 2 ^ count k) ∧
      writes (.vsra f) (fun k => pat (signed (s.laneA f k) / (2 : Int) ^ count k))) ∧
    (s.RunsV f (regs3 f) →
      writes (.vand f) (fun k => s.laneA f k &&& s.laneB f k) ∧ writes (.vor f) (fun k => s.laneA f k ||| s.laneB f k) ∧
      writes (.vxor f) (fun k => s.laneA f k ^^^ s.laneB f k))

/-- R154: each source lane i = 2k + r that is active accumulates, exactly, in lane k of register d + r of the pair, of the
type of twice the width; the sum is clamped with SAT (which sets FPSTAT.SAT) and wrapped without. -/
def Sys2Proof.Claim.WideningMultiplyAdd : Prop :=
  ∀ (f : VF) (t2 : ETy) (s : State),
    (f.ty, t2) ∈ ([(.i4, .i8), (.n4, .n8), (.i8, .i16), (.n8, .n16), (.i16, .i32), (.n16, .n32)] : List (ETy × ETy)) →
    s.RunsV f ([f.opd.toNat, f.opd.toNat + 1] ++ f.regA ++ f.regB) →
    let clamp (z : Int) : Int := max (intMin t2) (min (intMax t2) z)
    let sat := f.opx.getLsbD 0
    let x r k : Int := intOf t2 (lane t2 (s.me.vr (f.opd.toNat + r)) k) +
      intOf f.ty (s.laneA f (2 * k + r)) * intOf f.ty (s.laneB f (2 * k + r))
    WritesGroup (.vimad f) s s 5 2 f.opd.toNat t2 (fun r k => s.on f (2 * k + r))
      (fun r k => ((if sat then clamp (x r k) else x r k) % (2 : Int) ^ t2.width).toNat)
      (fun r k => if sat && decide (clamp (x r k) ≠ x r k) then fSAT else 0#7)

/-- R155 to R157: VCMP writes the condition's truth in each active lane's bit of Md and keeps the other bits; VSEL writes
every lane from Va where the mask bit is 1, else from Vb; VMOP acts on all 1,024 bits. -/
def Obligations.CompareSelectAndMasks : Prop :=
  ∀ (f : VF) (s : State), f.ro = 0#2 →
    let m := captureModes s.me.fpcr 0#2 s.me.seed s.me.srctr
    let a k := readVal m f.ty (s.laneA f k)
    let b k := readVal m f.ty (s.laneB f k)
    let un k := (a k).1 == .nan || (b k).1 == .nan
    let less k := !un k && ltExt (a k).1 (b k).1
    let more k := !un k && ltExt (b k).1 (a k).1
    let holds k : Bool := match f.opx.toNat with
      | 0 => !un k && !less k && !more k
      | 1 => un k || less k || more k
      | 2 => less k
      | 3 => !un k && !less k
      | 4 => !un k && !more k
      | 5 => more k
      | 6 => un k
      | _ => !un k
    let md : BitVec 4 := f.opd.setWidth 4
    let ma := s.me.mask (f.opa.setWidth 4)
    let mb := s.me.mask (f.opb.setWidth 4)
    let all : Nat → Bool := fun _ => true
    (s.RunsV f (f.regA ++ f.regB) → WritesM (.vcmp f) s 3 md (fun k => decide (k < f.ty.lanes) && s.on f k) holds
      (orLanes (s.on f) (fun k => (a k).2 ||| (b k).2) f.ty.lanes)) ∧
    (s.RunsV f (regs3 f) → WritesV (.vsel f) s s 3 f.opd.toNat f.ty all
      (fun k => if s.on f k then s.laneA f k else s.laneB f k) (fun _ => 0#7)) ∧
    (s.Runs f.g →
      let op (c : BitVec 8) (v : Nat → Bool) : Prop := f.opx = c → WritesM (.vmop f) s 3 md all v 0#7
      op 0#8 (fun k => ma.getLsbD k && mb.getLsbD k) ∧ op 1#8 (fun k => ma.getLsbD k || mb.getLsbD k) ∧
      op 2#8 (fun k => ma.getLsbD k ^^ mb.getLsbD k) ∧ op 3#8 (fun k => ma.getLsbD k && !mb.getLsbD k) ∧
      op 4#8 (fun k => !ma.getLsbD k) ∧ op 5#8 (fun k => decide (k < (s.me.s (f.opa.setWidth 6)).toNat)))

/-- R158 with R85: in each active lane a special function gives F of its flushed input rounded once to FP32, with the flags of
R84 and R85; zeros, infinities, negatives and NaNs as R85 has them. For VEXP2, VLOG2, VTANH and VERF the F of other inputs is the
model's series `specVal` (DEDUCED, log 14). The F of VRCP, VRSQ and VSQRT is the exact value, or, where that does not end within its
bits, an odd significand of more than 250 bits between whose two even neighbours the exact value lies (R84). -/
def Obligations.SpecialFunctionsRoundOnce : Prop :=
  (∀ (f : VF) (s : State), f.ty = .fp32 → s.RunsV f (regs2 f) →
    let m := captureModes s.me.fpcr f.ro s.me.seed s.me.srctr
    let a k := readVal m .fp32 (s.laneA f k)
    let writes (i : Instr) (fn : SpecFn) : Prop :=
      WritesV i s (s.afterRo f.ro) 12 f.opd.toNat .fp32 (s.on f) (fun k => (roundTo m .fp32 k (specVal fn (a k).1).1).1)
        (fun k => (a k).2 ||| (specVal fn (a k).1).2 ||| (roundTo m .fp32 k (specVal fn (a k).1).1).2)
    writes (.vrcp f) .rcp ∧ writes (.vrsq f) .rsq ∧ writes (.vsqrt f) .sqrt ∧ writes (.vexp2 f) .exp2 ∧
    writes (.vlog2 f) .log2 ∧ writes (.vtanh f) .tanh ∧ writes (.verf f) .erf) ∧
  (∀ (n : Bool) (e : Int),
    let zero := Ext.num n 0 e
    specVal .rcp zero = (.inf n, fDZ) ∧ specVal .rsq zero = (.inf n, fDZ) ∧ specVal .sqrt zero = (.num n 0 0, 0#7) ∧
    specVal .exp2 zero = (.num false 1 0, 0#7) ∧ specVal .log2 zero = (.inf true, fDZ) ∧
    specVal .tanh zero = (.num n 0 0, 0#7) ∧ specVal .erf zero = (.num n 0 0, 0#7) ∧
    specVal .rcp (.inf n) = (.num n 0 0, 0#7) ∧ specVal .tanh (.inf n) = (.num n 1 0, 0#7) ∧
    specVal .erf (.inf n) = (.num n 1 0, 0#7) ∧ specVal .exp2 (.inf true) = (.num false 0 0, 0#7) ∧
    specVal .sqrt (.inf true) = (.nan, fNV) ∧ specVal .rsq (.inf true) = (.nan, fNV) ∧ specVal .log2 (.inf true) = (.nan, fNV) ∧
    ∀ m, m ≠ 0 → specVal .sqrt (.num true m e) = (.nan, fNV) ∧ specVal .rsq (.num true m e) = (.nan, fNV) ∧
      specVal .log2 (.num true m e) = (.nan, fNV) ∧
      specVal .log2 (.num false (2 ^ m) e) = (.num (decide (m + e < 0)) (m + e).natAbs 0, 0#7)) ∧
  (∀ (n : Bool) (m : Nat) (e : Int), m ≠ 0 →
    let pinned (q : Nat) (f : Nat → Nat) (x : Nat) : Prop := 2 ^ 250 ≤ q ∧ (f q = x ∨ (q % 2 = 1 ∧ f (q - 1) < x ∧ x < f (q + 1)))
    (∃ q g, ∃ K : Nat, specVal .rcp (.num n m e) = (.num n q g, 0#7) ∧ g + e = -(K : Int) ∧ pinned q (fun z => z * m) (2 ^ K)) ∧
    (∃ q g, ∃ K : Nat, specVal .rsq (.num false m e) = (.num false q g, 0#7) ∧ 2 * g + e = -(K : Int) ∧
      pinned q (fun z => z * z * m) (2 ^ K)) ∧
    (∃ q g, ∃ K : Nat, specVal .sqrt (.num false m e) = (.num false q g, 0#7) ∧ e - 2 * g = (K : Int) ∧
      pinned q (fun z => z * z) (m * 2 ^ K)))

/-! ### V slots: conversions and permutes -/

/-- R160 to R162: VCVT converts lanes 0 to min(n(st), n(dt)) − 1 in place; VWIDEN and VUNPK convert exactly, interleaved over
a group (R147) or from one part of the source; VNARROW takes lane ⌊i/r⌋ of register a + (i mod r). -/
def Sys2Proof.Claim.ConversionsMoveTheirLanes : Prop :=
  ∀ (f : VF) (st : ETy) (s : State), f.src = st →
    let m := captureModes s.me.fpcr f.ro s.me.seed s.me.srctr
    let w := { captureModes s.me.fpcr 0#2 s.me.seed s.me.srctr with mode := .rne, fzo := false }
    let sat := f.opx.getLsbD 4
    let d := f.opd.toNat
    (s.RunsV f (regs2 f) →
      let y k := convert m st f.ty sat k (lane st (s.srcA f) k)
      WritesV (.vcvt f) s (s.afterRo f.ro) 3 d f.ty (fun k => decide (k < min st.lanes f.ty.lanes) && s.on f k)
        (fun k => (y k).1) (fun k => (y k).2)) ∧
    (∀ r, r = 2 ∨ r = 4 → f.ty.width = r * st.width →
      (s.RunsV f ((List.range r).map (fun q => d + q) ++ f.regA) →
        let y q k := convert w st f.ty false k (lane st (s.srcA f) (r * k + q))
        WritesGroup (.vwiden f) s s 3 r d f.ty (fun q k => s.on f (r * k + q)) (fun q k => (y q k).1) (fun q k => (y q k).2)) ∧
      (s.RunsV f (regs2 f) → f.ro = 0#2 →
        let h := f.opx.toNat / 16 % 4
        let y k := convert w st f.ty false k (lane st (s.srcA f) (h * f.ty.lanes + k))
        WritesV (.vunpk f) s s 3 d f.ty (fun k => s.on f (h * f.ty.lanes + k)) (fun k => (y k).1) (fun k => (y k).2))) ∧
    (∀ r, r = 2 ∨ r = 4 → st.width = r * f.ty.width → s.RunsV f ([d] ++ (List.range r).map (fun q => f.opa.toNat + q)) →
      let y k := convert m st f.ty sat k (lane st (s.me.vr (f.opa.toNat + k % r)) (k / r))
      WritesV (.vnarrow f) s (s.afterRo f.ro) 3 d f.ty (s.on f) (fun k => (y k).1) (fun k => (y k).2))

/-- R163 and R164: VQMX writes, for block b of 32 lanes, the scale of R69 at byte 4p + b of Vs and the elements at lanes 128p
on of Vd (+0 under scale 0xFF); VDQMX multiplies each element by 2^(X − 127) and rounds. -/
def Sys2Proof.Claim.BlockScalesQuantise : Prop :=
  ∀ (f : VF) (s : State),
    let m := captureModes s.me.fpcr f.ro s.me.seed s.me.srctr
    let p := f.opx.toNat % 8
    let x j := readVal m .fp32 (lane .fp32 (s.srcA f) j)
    let scale b := mxScale f.ty ((List.range 32).map (fun j => (x (32 * b + j)).1))
    let elem j := roundFloat m true f.ty (128 * p + j) (shiftExt (127 - ((scale (j / 32)).1 : Int)) (x j).1)
    let w k := lane .e8m0 (s.srcB f) (4 * p + k / 32)
    let e k := lane f.ty (s.srcA f) (128 * p + k)
    let y k := roundTo m .fp32 k (shiftExt ((w k : Int) - 127) (valOf f.ty (e k)))
    (s.RunsV f (regs2 f ++ [f.opb.toNat]) → ∃ r0 r1, exec (.vqmx f) s = .next ((s.afterRo f.ro).plus [r0, r1]) ∧
      VResult s r0 3 f.opd.toNat f.ty (fun k => decide (128 * p ≤ k ∧ k < 128 * p + 128))
        (fun k => if (scale ((k - 128 * p) / 32)).1 = 255 then 0 else (elem (k - 128 * p)).1)
        (fun k => (x (k - 128 * p)).2 ||| (if (scale ((k - 128 * p) / 32)).1 = 255 then (scale ((k - 128 * p) / 32)).2
          else (elem (k - 128 * p)).2)) ∧
      VResult s r1 3 f.opb.toNat .e8m0 (fun k => decide (4 * p ≤ k ∧ k < 4 * p + 4)) (fun k => (scale (k - 4 * p)).1)
        (fun k => (scale (k - 4 * p)).2)) ∧
    (s.RunsV f (regs3 f) → WritesV (.vdqmx f) s (s.afterRo f.ro) 3 f.opd.toNat .fp32 (s.on f)
      (fun k => if w k = 255 ∨ isNaN f.ty (e k) = true then 0x7FC00000 else (y k).1)
      (fun k => if w k = 255 ∨ isNaN f.ty (e k) = true then 0#7 else (y k).2))

/-- R165: "The permutes copy lane bits without conversion and set no flag. S registers are read at issue." with the table of
effects. -/
def Obligations.PermutesCopyLaneBits : Prop :=
  ∀ (f : VF) (s : State), f.ro = 0#2 →
    let n := f.ty.lanes
    let g := min (2 ^ f.ty.width) n
    let sb := (s.me.s (f.opb.setWidth 6)).toNat
    let j := if f.opx.getLsbD 0 then sb % n else f.opb.toNat
    let writes (i : Instr) (on : Nat → Bool) (v : Nat → Nat) : Prop := WritesV i s s 4 f.opd.toNat f.ty on v (fun _ => 0#7)
    (s.RunsV f (regs3 f) →
      writes (.vperm f) (s.on f) (fun k => s.laneA f (g * (k / g) + s.laneB f k % g)) ∧
      writes (.vslide f) (s.on f) (fun k => if k + f.opx.toNat < n then s.laneA f (k + f.opx.toNat)
        else s.laneB f (k + f.opx.toNat - n))) ∧
    (s.RunsV f ([f.opd.toNat] ++ (if f.opx.getLsbD 0 then [] else f.regA)) →
      writes (.vbcast f) (s.on f) (fun _ => if f.opx.getLsbD 0 then sb else s.laneA f f.opb.toNat)) ∧
    (s.RunsV f f.regA → WritesS (.vextr f) s s 4 (f.opd.setWidth 6)
      (if f.ty.isSigned then BitVec.ofInt 64 (intOf f.ty (s.laneA f j)) else BitVec.ofNat 64 (s.laneA f j))) ∧
    (s.RunsV f [f.opd.toNat] →
      writes (.vins f) (fun k => decide (k = j) && s.on f k) (fun _ => (s.me.s (f.opa.setWidth 6)).toNat))

/-! ### V slots: latches and dot products -/

/-- R169 and R170: VRCLR clears its latch at issue under the profile it names; VRED forms the chunk sum of the active lanes
under the latch's profile, for the latch at t + 6; no active lane, no effect; a floating type into an integer latch takes the
profile-mismatch trap. -/
def Sys2Proof.Claim.LatchesAreClearedAndFed : Prop :=
  ∀ (f : VF) (s : State),
    let k := f.opx.toNat % 4
    let l := s.me.latch k
    let integer (p : Nat) : Bool := p == 7 || p == 8
    let acc (p : Nat) (w : BitVec 32) : PSum := if integer p then .int w.toInt else .fp w
    let p := f.opx.toNat / 16
    let init := f.opx.getLsbD 2
    let lanes := ((List.range f.ty.lanes).filter (s.on f)).map (fun i =>
      let x := valOf f.ty (s.laneA f i)
      if init then (mulExt x x).1 else x)
    (s.RunsV f (if init then f.regA else []) →
      exec (.vrclr f) s = .next (s.withMe (s.me.setLatch k { l with
        prof := p, acc := acc p (if init then BitVec.ofNat 32 (lane .fp32 (s.srcA f) 0) else 0#32), q := 0, n := 0, stk := [] }))) ∧
    (s.RunsV f f.regA →
      (integer l.prof = true → f.ty.isInt = false → ∃ t, exec (.vred f) s = .next t ∧ Trapped s t 0x04 0 0 0) ∧
      ((integer l.prof = true → f.ty.isInt = true) → s.poison = [] →
        exec (.vred f) s = .next (if lanes = [] then s
          else s.plus [s.result 6 (.latch k (chunkSum l.prof lanes).1) 0#7])))

/-- R167, R170 and R171: a chunk sum that is due reaches its latch by LatchAdd; a latch that has taken 2^20 − 1 sums stays and
NV is set; VRDRN writes LatchValue to the active lanes at t + 2 and clears the latch, with its profile kept, unless KEEP. A
sum of a floating profile that meets an integer latch is the model's free value z (log 12). -/
def Sys2Proof.Claim.LatchesAddAndDrain : Prop :=
  (∀ (s : State) (u k due issued slot : Nat) (x : PSum), due ≤ s.cycle → (s.ctx u).life = .running →
    s.inflight = [{ ctx := u, due := due, issued := issued, slot := slot, val := .latch k x, flags := 0#7 }] →
    let l := (s.ctx u).latch k
    ∃ t z, exec .latchUpdate s = .next t ∧ t.inflight = [] ∧ MemSame s t ∧ OthersSame u s t ∧
      (l.n = 2 ^ 20 - 1 → t.ctx u = s.ctx u ∧ ∃ n, t.ends = s.ends ++ [(u, n, .flags fNV)]) ∧
      (l.n ≠ 2 ^ 20 - 1 → t.ctx u = (s.ctx u).setLatch k (latchAdd z l x).1)) ∧
  (∀ (f : VF) (s : State), s.RunsV f [f.opd.toNat] →
    let k := f.opx.toNat % 4
    let l := s.me.latch k
    let integer := l.prof == 7 || l.prof == 8
    (integer = (f.ty == .i32) → f.ty = .i32 ∨ f.ty = .fp32 →
      ∃ t r z, exec (.vrdrn f) s = .next t ∧ t.inflight = s.inflight ++ [r] ∧
        VResult s r 2 f.opd.toNat f.ty (s.on f) (fun _ => (latchValue z l).1.pat.toNat) (fun _ => 0#7) ∧
        OthersSame s.cur s t ∧ MemSame s t ∧
        t.me = if f.opx.getLsbD 2 then s.me else s.me.setLatch k { l with
          acc := if integer then .int 0 else .fp 0#32, q := 0, n := 0, stk := [] }) ∧
    (integer ≠ (f.ty == .i32) → ∃ t, exec (.vrdrn f) s = .next t ∧ Trapped s t 0x04 0 0 0))

/-- After R167: "A latch fed the chunk sums S_0 to S_{n−1} after a clear with accumulator c therefore yields exactly
Reduce(S, n, c, PROF, 4)." For every profile and fewer than 2^20 sums. -/
def Sys2Proof.Claim.LatchesReduceInTheFixedOrder : Prop :=
  ∀ (z : Int) (l : Latch) (prof : Nat) (c : PSum) (S : List PSum), S.length < 2 ^ 20 →
    (latchValue z (S.foldl (fun l x => (latchAdd z l x).1)
      { l with prof := prof, acc := c, q := 0, n := 0, stk := [] })).1 = (reduce z prof 4 c S).1

/-- R172: VDOT adds, in each active FP32 lane r, the chunk sum of the exact products of source lanes g·r to g·r + g − 1,
g = n(t)/128, to the lane of Vd by Add of the bundle's profile; it sets no flag, and under profile 7 or 8 it takes the
profile-mismatch trap. -/
def Sys2Proof.Claim.DotProductsAddToTheirLane : Prop :=
  ∀ (f : VF) (s : State), s.RunsV f (regs3 f) →
    let prof := s.iss.profile
    let g := f.ty.lanes / 128
    let p r := (List.range g).map (fun j => dotMul f.ty.isInt (valOf f.ty (s.laneA f (g * r + j))) (valOf f.ty (s.laneB f (g * r + j))))
    let c r := PSum.fp (BitVec.ofNat 32 (lane .fp32 (s.me.vr f.opd.toNat) r))
    (prof ≠ 7 → prof ≠ 8 → WritesV (.vdot f) s s 6 f.opd.toNat .fp32 (s.on f)
      (fun r => (addP 0 prof (c r) (chunkSum prof (p r)).1).1.pat.toNat) (fun _ => 0#7)) ∧
    (prof = 7 ∨ prof = 8 → ∃ t, exec (.vdot f) s = .next t ∧ Trapped s t 0x04 0 0 0)

/-- R149 and R273: a V slot with two sources that names a register of a lent bank takes the bank-lending trap with cause 0x02,
INFO the bank. -/
def Sys2Proof.Claim.LentRegistersTrap : Prop :=
  ∀ (f : VF) (s : State) (i : Instr), s.Runs f.g → ¬ s.NotLent (regs3 f) →
    i ∈ ([.vadd f, .vsub f, .vmul f, .vfma f, .vfms f, .vmin f, .vmax f, .viadd f, .visub f, .vimul f, .vimin f, .vimax f,
      .vand f, .vor f, .vxor f, .vsel f, .vdqmx f, .vperm f, .vslide f, .vdot f] : List Instr) →
    ∃ t b, exec i s = .next t ∧ Trapped s t 0x06 0x02 b 0 ∧ s.me.lent.getLsbD b = true ∧
      ∃ n, n ∈ regs3 f ∧ b = physV s.me.vrot n / 128

/-- `Claim.FloatingArithmeticRoundsOnce` and `Claim.FloatingSelectionAndSign`. -/
def Obligations.FloatingLanesAreComputed : Prop :=
  Sys2Proof.Claim.FloatingArithmeticRoundsOnce ∧ Sys2Proof.Claim.FloatingSelectionAndSign

/-- `Claim.IntegerArithmeticFitsItsType` and `Claim.ShiftsAndLogicActOnLanes`. -/
def Obligations.IntegerLanesAreComputed : Prop :=
  Sys2Proof.Claim.IntegerArithmeticFitsItsType ∧ Sys2Proof.Claim.ShiftsAndLogicActOnLanes

/-- `Claim.WideningMultiplyAdd` and `Claim.DotProductsAddToTheirLane`. -/
def Obligations.WideningProductsAndDotProducts : Prop :=
  Sys2Proof.Claim.WideningMultiplyAdd ∧ Sys2Proof.Claim.DotProductsAddToTheirLane

/-- `Claim.ConversionsMoveTheirLanes` and `Claim.BlockScalesQuantise`. -/
def Obligations.ConversionsAndBlockScales : Prop :=
  Sys2Proof.Claim.ConversionsMoveTheirLanes ∧ Sys2Proof.Claim.BlockScalesQuantise

/-- `Claim.LatchesAreClearedAndFed`, `Claim.LatchesAddAndDrain` and `Claim.LatchesReduceInTheFixedOrder`. -/
def Obligations.LatchesClearFeedAddAndReduce : Prop :=
  Sys2Proof.Claim.LatchesAreClearedAndFed ∧ Sys2Proof.Claim.LatchesAddAndDrain ∧ Sys2Proof.Claim.LatchesReduceInTheFixedOrder

/-! ### V slots: reversible instructions -/

/-- R234, R236, R239 to R241 (forwards of one register): each active lane gives its result and its flags and pushes its
residual, or escapes and stores a; a lane that is not active pushes a zero payload lane and does not escape (R232). -/
def Sys2Proof.Claim.ForwardsPushWhatTheyThrowAway : Prop :=
  ∀ (f : VF) (s : State),
    let t := f.ty
    let rne (x : Ext) := roundTo rneModes t 0 x
    let a k := readVal rneModes t (s.laneA f k)
    let b k := readVal rneModes t (s.laneB f k)
    let fin (x : Ext) : Bool := match x with | .num _ _ _ => true | _ => false
    let zero (x : Ext) : Bool := match x with | .num _ m _ => m == 0 | _ => false
    let only {α : Type} (k : Nat) (x d : α) : α := if s.on f k then x else d
    let rest (e : Nat → Ext) k : Ext := (addExt false (e k) (negExt (valOf t (rne (e k)).1))).1
    let forwards (i : Instr) (lat opc aux plen : Nat) (y : Nat → Nat) (fl : Nat → Flags) (res : Nat → Nat) (esc : Nat → Bool) : Prop :=
      ∃ fr, Forwards i s f lat fr y fl ∧ FrameHolds fr t.lanes t.width (fun k => t.width * k) plen
        (checkWord opc (physV s.me.vrot f.opd.toNat) t.code t.lanes aux 0)
        (fun k => only k (res k) 0) (fun k => only k (esc k) false) (s.laneA f)
    let adds (i : Instr) (opc : Nat) (e : Nat → Ext × Bool) : Prop :=
      forwards i 3 opc 0 512 (fun k => (rne (e k).1).1)
        (fun k => (a k).2 ||| (b k).2 ||| (if (e k).2 then fNV else 0#7) ||| (rne (e k).1).2)
        (fun k => if fin (a k).1 && fin (b k).1 && !zero (a k).1 && fin (valOf t (rne (e k).1).1) && !zero (rest (fun k => (e k).1) k)
          then (rne (rest (fun k => (e k).1) k)).1 else 0)
        (fun k => !fin (a k).1 || !fin (b k).1 || zero (a k).1 || !fin (valOf t (rne (e k).1).1))
    let count k := if f.opx.getLsbD 1 then f.opb.toNat % 64 else s.laneB f k
    let p k := mulExt (a k).1 (b k).1
    let stays k := fin (a k).1 && fin (b k).1 && !zero (a k).1 && !zero (b k).1 && fin (valOf t (rne (p k).1).1) &&
      !zero (valOf t (rne (p k).1).1)
    let q k := rest (fun k => (p k).1) k
    let c k := shiftExt f.opx.toInt (a k).1
    (t = .fp16 ∨ t = .bf16 ∨ t = .fp32 →
      (s.RunsV f (regs3 f) →
        adds (.raddf f) 0xA0 (fun k => addExt false (a k).1 (b k).1) ∧
        adds (.rsubf f) 0xA2 (fun k => addExt false (a k).1 (negExt (b k).1)) ∧
        forwards (.rmulf f) 5 0xA4 0 512 (fun k => (rne (p k).1).1)
          (fun k => (a k).2 ||| (b k).2 ||| (if (p k).2 then fNV else 0#7) ||| (rne (p k).1).2)
          (fun k => if stays k && !zero (q k) && decide ((rne (q k)).2 = 0#7) then (rne (q k)).1 else 0)
          (fun k => !stays k || (!zero (q k) && decide ((rne (q k)).2 ≠ 0#7)))) ∧
      (s.RunsV f (regs2 f) →
        forwards (.rscl f) 3 0xAA f.opx.toNat 0 (fun k => (rne (c k)).1) (fun k => (a k).2 ||| (rne (c k)).2) (fun _ => 0)
          (fun k => (a k).1 == .nan || (fin (a k).1 && !eqExt (valOf t (rne (c k)).1) (c k))))) ∧
    (t.isInt = true →
      (s.RunsV f (regs2 f ++ (if f.opx.getLsbD 1 then [] else f.regB)) →
        forwards (.rshr f) 3 0xA8 (if f.opx.getLsbD 1 then f.opb.toNat % 64 else 0xFF) 512
          (fun k => (intOf t (s.laneA f k) / (2 : Int) ^ count k % (2 : Int) ^ t.width).toNat) (fun _ => 0#7)
          (fun k => if count k < t.width then (intOf t (s.laneA f k) % (2 : Int) ^ count k).toNat else 0)
          (fun k => decide (t.width ≤ count k))) ∧
      (s.RunsV f (regs3 f) →
        forwards (.rimul f) 5 0xAC 0 0
          (fun k => (intOf t (s.laneA f k) * intOf t (s.laneB f k) % (2 : Int) ^ t.width).toNat) (fun _ => 0#7) (fun _ => 0)
          (fun k => s.laneB f k % 2 == 0)))

/-- R238: RNARW narrows each active narrow lane i from lane ⌊i/r⌋ of register a + (i mod r), and keeps, laid out as the source
group, the cleared source bits of an integer lane, or what a floating lane lost; a floating lane that is not finite, beyond
the maximum of dt, or rounded to an infinity escapes. -/
def Sys2Proof.Claim.NarrowingForwardKeepsItsLoss : Prop :=
  ∀ (f : VF) (st : ETy) (r : Nat) (s : State), f.src = st → r = 2 ∨ r = 4 → st.width = r * f.ty.width →
    (st.isInt = true ∧ f.ty.isInt = true) ∨ (st.isInt = false ∧ f.ty.isInt = false ∧ st ≠ .e8m0 ∧ f.ty ≠ .e8m0) →
    s.RunsV f ([f.opd.toNat] ++ (List.range r).map (fun q => f.opa.toNat + q)) →
    let dt := f.ty
    let x k := lane st (s.me.vr (f.opa.toNat + k % r)) (k / r)
    let v k := readVal rneModes st (x k)
    let y k := roundTo rneModes dt 0 (v k).1
    let rest k := (addExt false (v k).1 (negExt (valOf dt (y k).1))).1
    let fin (e : Ext) : Bool := match e with | .num _ _ _ => true | _ => false
    let zero (e : Ext) : Bool := match e with | .num _ m _ => m == 0 | _ => false
    let tooBig (e : Ext) : Bool := match e with | .num _ m g => beyondMax dt m g | _ => true
    let esc k := !st.isInt && (tooBig (v k).1 || !fin (valOf dt (y k).1))
    let res k := if st.isInt then x k / 2 ^ dt.width * 2 ^ dt.width
      else if esc k || zero (rest k) then 0 else (roundTo rneModes st 0 (rest k)).1
    ∃ fr, Forwards (.rnarw f) s f 3 fr (fun k => if st.isInt then x k else (y k).1)
        (fun k => if st.isInt then 0#7 else (v k).2 ||| (y k).2) ∧
      FrameHolds fr dt.lanes st.width (fun k => 4096 * (k % r) + st.width * (k / r)) (512 * r)
        (checkWord 0xA6 (physV s.me.vrot f.opd.toNat) dt.code dt.lanes st.code 0)
        (fun k => if s.on f k then res k else 0) (fun k => s.on f k && esc k) x

/-- R235, R236, R238 to R241 (undos): where SpoilPop finds the frame its check word names, an undo takes it off the stack and
writes each active lane: the image of an escaped lane, else the value of the undo's formula rounded once; no flag. R228 to R230: an
undo of VB after a push of VA's traps with LIFO cause 0x02, one that finds no frame with underflow cause 0x01, one whose frame does
not bear its check word or does not fit it with LIFO cause 0x01; while the frame is not whole in the top, or its payload still to
come, the bundle waits (R224; that this comes before the check of its words is DEDUCED, log 25). -/
def Obligations.UndosWriteTheirFormula : Prop :=
  ∀ (f : VF) (s : State) (fr : Frame) (rest : Spoil),
    let t := f.ty
    let w := t.width
    let pops (opc plen aux : Nat) : Prop :=
      s.me.sp.pop (checkWord opc (physV s.me.vrot f.opa.toNat) t.code t.lanes aux 0) plen = .frame fr rest
    let b := s.withMe { s.me with sp := rest }
    let gone k := fr.esc != 0 && fr.bitmap.testBit k
    let image k := fr.image / 2 ^ (w * k) % 2 ^ w
    let kept k := fr.pay / 2 ^ (w * k) % 2 ^ w
    let rne (x : Ext) : Nat := (roundTo rneModes t 0 x).1
    let y k := valOf t (s.laneA f k)
    let yr k := (addExt false (y k) (valOf t (kept k))).1
    let vb k := valOf t (s.laneB f k)
    let count k := if f.opx.getLsbD 1 then f.opb.toNat % 64 else s.laneB f k
    let undoes (i : Instr) (lat : Nat) (v : Nat → Nat) : Prop :=
      WritesV i s b lat f.opd.toNat t (s.on f) (fun k => if gone k then image k else v k) (fun _ => 0#7)
    let undos : List (Instr × List Nat × Nat × Nat × Nat) := [
      (.unaddf f, regs3 f, 0xA0, 512, 0), (.unsubf f, regs3 f, 0xA2, 512, 0), (.unmulf f, regs3 f, 0xA4, 512, 0),
      (.unimul f, regs3 f, 0xAC, 0, 0), (.unscl f, regs2 f, 0xAA, 0, f.opx.toNat),
      (.unshr f, regs2 f ++ (if f.opx.getLsbD 1 then [] else f.regB), 0xA8, 512, if f.opx.getLsbD 1 then f.opb.toNat % 64 else 0xFF),
      (.unnarw f, (List.range (f.src.width / w)).map (fun q => f.opd.toNat + q) ++ f.regA, 0xA6, 512 * (f.src.width / w), f.src.code)]
    (∀ i regs opc plen aux, (i, regs, opc, plen, aux) ∈ undos → s.RunsV f regs →
      let p := s.me.sp
      let info := p.peek (p.depth - 8) 8
      let size := info % 2 ^ 16
      let traps (code cause : Nat) : Prop := ∃ u, exec i s = .next u ∧ Trapped s u code cause s.iss.depth0 0
      let own : Prop := s.iss.vaPush = true ∧ s.iss.slot = 2
      let misfit : Prop := size < 16 ∨ size % 16 ≠ 0 ∨ p.depth < size
      let whole : Prop := p.spill + 16 ≤ p.depth ∧ (misfit ∨ (p.spill ≤ p.depth - size ∧ ∀ x ∈ p.pay, x.pos < p.depth - size))
      let fits : Prop := ¬ misfit ∧ p.peek (p.depth - 16) 8 = checkWord opc (physV s.me.vrot f.opa.toNat) t.code t.lanes aux 0 ∧
        size = frameSize plen (info / 2 ^ 32 % 2 ^ 16) ∧ info / 2 ^ 48 = 0 ∧ info / 2 ^ 16 % 2 ^ 16 = 0
      (own → traps 0x09 0x02) ∧ (¬ own → p.frames = 0 → traps 0x08 0x01) ∧
      (¬ own → p.frames ≠ 0 → ¬ whole → exec i s = .next s.block) ∧
      (¬ own → p.frames ≠ 0 → whole → ¬ fits → traps 0x09 0x01)) ∧
    (¬ (s.iss.vaPush = true ∧ s.iss.slot = 2) →
    (s.RunsV f (regs3 f) →
      (pops 0xA0 512 0 → undoes (.unaddf f) 3 (fun k => rne (addExt false (yr k) (negExt (vb k))).1)) ∧
      (pops 0xA2 512 0 → undoes (.unsubf f) 3 (fun k => rne (addExt false (yr k) (vb k)).1)) ∧
      (pops 0xA4 512 0 → undoes (.unmulf f) 12 (fun k => rne (divExt (yr k) (vb k)))) ∧
      (pops 0xAC 0 0 → t.isInt = true → ∃ u : Nat → Nat,
        (∀ k, s.laneB f k % 2 = 1 → u k < 2 ^ w ∧ u k * s.laneB f k % 2 ^ w = 1) ∧
        undoes (.unimul f) 5 (fun k => if s.laneB f k % 2 = 0 then s.laneA f k else s.laneA f k * u k))) ∧
    (s.RunsV f (regs2 f ++ (if f.opx.getLsbD 1 then [] else f.regB)) →
      pops 0xA8 512 (if f.opx.getLsbD 1 then f.opb.toNat % 64 else 0xFF) → t.isInt = true →
      undoes (.unshr f) 3 (fun k =>
        ((intOf t (s.laneA f k) * 2 ^ count k + intOf t (kept k)) % (2 : Int) ^ w).toNat)) ∧
    (s.RunsV f (regs2 f) → pops 0xAA 0 f.opx.toNat →
      undoes (.unscl f) 3 (fun k => rne (shiftExt (-f.opx.toInt) (y k)))) ∧
    (∀ st r, f.src = st → r = 2 ∨ r = 4 → st.width = r * w →
      s.RunsV f ((List.range r).map (fun q => f.opd.toNat + q) ++ f.regA) → pops 0xA6 (512 * r) st.code →
      let part (v q k : Nat) : Nat := v / 2 ^ (4096 * q + st.width * k) % 2 ^ st.width
      let r0 q k := part fr.pay q k
      let n q k := s.laneA f (r * k + q)
      WritesGroup (.unnarw f) s b 3 r f.opd.toNat st (fun q k => s.on f (r * k + q))
        (fun q k => if gone (r * k + q) then part fr.image q k
          else if st.isInt then r0 q k ||| n q k
          else (roundTo rneModes st 0 (match valOf st (r0 q k) with
            | .num _ 0 _ => valOf t (n q k)
            | x => (addExt false (valOf t (n q k)) x).1)).1)
        (fun _ _ => 0#7)))

/-- R228 and R229: a frame that has been pushed and whose payload has been written is the frame that the next pop of its check
word finds, and the stack is then as it was before the push. -/
def Obligations.SpoilStackIsLastInFirstOut : Prop :=
  ∀ (p : Spoil) (fr : Frame) (due : Nat), p.pay = [] → p.spill ≤ p.depth → p.top < 256 ^ (p.depth - p.spill) →
    fr.below = 0 → fr.plen % 16 = 0 → fr.plen ≤ 2048 → fr.esc ≤ 1024 → fr.check < 2 ^ 64 → fr.pay < 256 ^ fr.plen →
    (if fr.esc = 0 then fr.bitmap = 0 ∧ fr.image = 0 else fr.bitmap < 256 ^ 128 ∧ fr.image < 256 ^ imageLen fr.plen) →
    ((p.push fr due).land due).pop fr.check fr.plen = .frame fr p

/-- R233 for the integer pairs, on one lane: an undo gives back the bits of the forward's input, from its result and what it
kept, under the same count or multiplier. -/
def Sys2Proof.Claim.IntegerUndosRestoreTheirInput : Prop :=
  ∀ (t : ETy) (a m c : Nat), t.isInt = true → a < 2 ^ t.width → m < 2 ^ t.width →
    ((rshrLane t a c).esc = false → unshrLane t (rshrLane t a c).y c (rshrLane t a c).res = a) ∧
    ((rimulLane t a m).esc = false → unimulLane t (rimulLane t a m).y m = a) ∧
    ((rshrLane t a c).esc = true → (rshrLane t a c).img = a) ∧ ((rimulLane t a m).esc = true → (rimulLane t a m).img = a) ∧
    ∀ dt : ETy, dt.isInt = true → dt.width ≤ t.width →
      (rnarwLane t dt a).esc = false ∧ unnarwLane t dt (rnarwLane t dt a).y (rnarwLane t dt a).res = a

/-- R233 for the floating pairs, RNARW and UNNARW of the pairs of R237 among them, on one lane: what a lane that does not escape keeps
gives back the bits of a, the sign of a zero included; a lane that escapes keeps a itself. -/
def Sys2Proof.Claim.FloatingUndosRestoreTheirInput : Prop :=
  ∀ (t : ETy) (a b : Nat) (k : Int), t = .fp16 ∨ t = .bf16 ∨ t = .fp32 → a < 2 ^ t.width → b < 2 ^ t.width →
    (∀ sub, if (raddLane t sub a b).esc then (raddLane t sub a b).img = a
      else unaddLane t sub (raddLane t sub a b).y b (raddLane t sub a b).res = a) ∧
    (if (rmulLane t a b).esc then (rmulLane t a b).img = a
      else unmulLane t (rmulLane t a b).y b (rmulLane t a b).res = a) ∧
    (if (rsclLane t k a).esc then (rsclLane t k a).img = a
      else rnePat t (shiftExt (-k) (valOf t (rsclLane t k a).y)) = a) ∧
    (∀ dt, (t, dt) ∈ ([(.fp32, .fp16), (.fp32, .bf16), (.fp32, .e4m3), (.fp32, .e5m2), (.fp16, .e4m3), (.fp16, .e5m2),
        (.bf16, .e4m3), (.bf16, .e5m2)] : List (ETy × ETy)) →
      if (rnarwLane t dt a).esc then (rnarwLane t dt a).img = a
      else unnarwLane t dt (rnarwLane t dt a).y (rnarwLane t dt a).res = a)

/-- `Claim.ForwardsPushWhatTheyThrowAway` and `Claim.NarrowingForwardKeepsItsLoss`. -/
def Obligations.ForwardsKeepWhatTheyThrowAway : Prop :=
  Sys2Proof.Claim.ForwardsPushWhatTheyThrowAway ∧ Sys2Proof.Claim.NarrowingForwardKeepsItsLoss

/-- `Claim.IntegerUndosRestoreTheirInput` and `Claim.FloatingUndosRestoreTheirInput`. -/
def Obligations.UndosRestoreTheForwardsInput : Prop :=
  Sys2Proof.Claim.IntegerUndosRestoreTheirInput ∧ Sys2Proof.Claim.FloatingUndosRestoreTheirInput

/-! ### M slot -/

/-- R269 (with R248, R252, R277, R284): where the core's matrix slot is free and the entry is valid, MRUN binds a routine of
the running context whose word 0 acts in the next cycle, swaps MH as SW says, and sets every tile that no stream entry holds
to +0; MRUN.F also needs its bench's frame slot and, on the other live slices, no routine or MPLOAD, and captures the live-bench mask. An invalid entry
takes the matrix trap with cause 0x01, a floating operand under an integer profile the profile-mismatch trap; a busy slot
blocks the bundle. An entry is read as it stood before an MPLOAD of the same cycle (R271); an index past the kernel's range reads
as an invalid entry (DEDUCED, log 30). -/
def Sys2Proof.Claim.RoutinesAreBound : Prop :=
  ∀ (g : BitVec 3) (idx : BitVec 8) (sh : BitVec 2) (sw : Bool) (rep : BitVec 12) (inc : BitVec 8) (s : State), s.Runs g →
    let core := s.me.core
    let k := s.kernel s.me.kernel
    let cl := coreCluster core
    let at_ := k.tBase cl + idx.toNat
    let was := if (s.cluster cl).was.1 = s.cycle then (s.cluster cl).was.2.find? (fun x => x.1 == at_) else none
    let e := if idx.toNat < k.tLen then ((was.map Prod.snd).getD (mget 0#32 (s.cluster cl).table at_)).toNat else 0
    let clash := (s.iss.profile == 7 || s.iss.profile == 8) &&
      (List.range 8).any (fun j => (e / 2 ^ 22).testBit j && !(s.me.te (mpTid (s.me.mpr j))).fmt.isInt)
    let me' := if sw then s.me.swapShape 3 sh.toNat else s.me
    let bound (fold : Bool) (live : List Nat) (t : State) : Prop :=
      (∃ r, (t.core core).routine = some r ∧ r = {
        ctx := s.cur, issued := s.cycle, start := k.uBase cl + e % 2 ^ 11
        len := e / 2 ^ 11 % 2 ^ 11 + 1, at_ := s.cycle + 1, rep := rep.toNat, inc := inc, mh := me'.shapeOf 3 sh.toNat
        prof := s.iss.profile, fold := fold, live := live, ents := s.me.t
        d := if s.iss.profile = 1 ∨ s.iss.profile = 3 ∨ s.iss.profile = 6 then (if fold then live.length else 1) else 4 }) ∧
      t.me = me' ∧ (∀ n, (s.held core n) = none → t.tile core n = {}) ∧ MemSame s t ∧ OthersSame s.cur s t ∧
      t.inflight = s.inflight ∧ t.ends = s.ends
    (s.matrixBusy core = true → exec (.mrun g idx sh sw rep inc) s = .next s.block ∧
      exec (.mrunF g idx sh sw rep inc) s = .next s.block) ∧
    (s.matrixBusy core = false →
      (clash = true → ∃ t, exec (.mrun g idx sh sw rep inc) s = .next t ∧ Trapped s t 0x04 0 0 0) ∧
      (clash = false → e < 2 ^ 31 → ∃ t, exec (.mrun g idx sh sw rep inc) s = .next t ∧ Trapped s t 0x0D 0x01 0 0) ∧
      (clash = false → 2 ^ 31 ≤ e →
        (∃ t, exec (.mrun g idx sh sw rep inc) s = .next t ∧ bound false [coreBench core] t) ∧
        (k.ownsSlot (coreBench core) = false →
          ∃ t, exec (.mrunF g idx sh sw rep inc) s = .next t ∧ Trapped s t 0x0D 0x10 0 0) ∧
        (k.ownsSlot (coreBench core) = true → k.slotOwner s.cycle = coreBench core → s.foldRuns cl = false →
          (∀ b, b ∈ s.liveBenches core → (s.core (clusterCore cl b)).routine = none ∧ (s.core (clusterCore cl b)).mbusy ≤ s.cycle) →
          ∃ t, exec (.mrunF g idx sh sw rep inc) s = .next t ∧ bound true (s.liveBenches core) t)))

/-- R271 and R272: once the read of its block is complete, an MPLOAD of a sound block writes the block's words and its table
entry, with FMASK the mask of the MP registers its feeds name; while a routine of the cluster has words of the range in use, in the
cycle of its END too, it blocks its bundle (R271, R284); MPLOAD.P writes MPk at issue, bits [57:36] zero. Both need a
free matrix slot. -/
def Sys2Proof.Claim.RoutineBlocksAreLoaded : Prop :=
  (∀ (g : BitVec 3) (idx : BitVec 8) (bank : BitVec 4) (off : BitVec 12) (m : MRead) (s : State), s.Runs g →
    s.me.mread = some m → m.pc = s.iss.pc → m.complete = true →
    let core := s.me.core
    let cl := coreCluster core
    let k := s.kernel s.me.kernel
    let hdr := m.data % 2 ^ 32
    let n := hdr / 2 ^ 11 % 2 ^ 11 + 1
    let lo := k.uBase cl + hdr % 2 ^ 11
    let meets (start len : Nat) : Prop := start < lo + n ∧ lo < start + len
    let uses (x : Core) : Prop := (∃ r, x.routine = some r ∧ meets r.start r.len) ∨
      (x.ended.1 = s.cycle ∧ meets x.ended.2.1 x.ended.2.2)
    (s.matrixBusy core = true ∨ (∃ b, b < 4 ∧ uses (s.core (clusterCore cl b))) → exec (.mpload g idx bank off) s = .next s.block) ∧
    (s.matrixBusy core = false → (∀ b, b < 4 → ¬ uses (s.core (clusterCore cl b))) →
    (blockCause hdr m.words (decide (idx.toNat < k.tLen ∧ hdr % 2 ^ 11 + n ≤ k.uLen)) = 0 →
      ∃ t, exec (.mpload g idx bank off) s = .next t ∧ t.me = { s.me with mread := none } ∧
        (∀ j, mget 0#32 (t.cluster cl).store j = if lo ≤ j ∧ j < lo + n then
          BitVec.ofNat 32 (m.data / 2 ^ (32 * (j - lo + 1))) else mget 0#32 (s.cluster cl).store j) ∧
        (∀ j, j ≠ k.tBase cl + idx.toNat → mget 0#32 (t.cluster cl).table j = mget 0#32 (s.cluster cl).table j) ∧
        mget 0#32 (t.cluster cl).table (k.tBase cl + idx.toNat) =
          BitVec.ofNat 32 (hdr % 2 ^ 22 + feedMask m.words * 2 ^ 22 + hdr / 2 ^ 31 * 2 ^ 31) ∧
        MemSame s t ∧ OthersSame s.cur s t) ∧
    (∀ c, c ≠ 0 → blockCause hdr m.words (decide (idx.toNat < k.tLen ∧ hdr % 2 ^ 11 + n ≤ k.uLen)) = c →
      ∃ t, exec (.mpload g idx bank off) s = .next t ∧ Trapped s t 0x01 c 0 0))) ∧
  (∀ (g : BitVec 3) (k : BitVec 3) (sa : BitVec 6) (s : State), s.Runs g → s.matrixBusy s.me.core = false →
    ∃ mp, exec (.mploadP g k sa) s = .next (s.withMe { s.me with mp := mp }) ∧
      (mget 0#64 mp k.toNat).toNat = (s.me.s sa).toNat / 2 ^ 58 * 2 ^ 58 + (s.me.s sa).toNat % 2 ^ 36 ∧
      ∀ j, j ≠ k.toNat → mget 0#64 mp j = s.me.mpr j)

/-- R273: LEND lends a bank of V registers at the end of its cycle, unless a result of an earlier bundle is in flight to it
(cause 0x01) or it is lent already (0x04); RECL takes it back, unless it is not lent (0x03). That a result of the same bundle does
not count and one on the contact sheet does is read from R273 (DEDUCED, log 31). -/
def Sys2Proof.Claim.BanksAreLentAndReclaimed : Prop :=
  ∀ (g : BitVec 3) (k : BitVec 4) (s : State), s.Runs g → s.matrixBusy s.me.core = false →
    let lands (i : Instr) (b : Bool) : Prop := WritesAtEnd i s (.lend k.toNat b) (fun c d =>
      (∀ j, j < 16 → d.lent.getLsbD j = if j = k.toNat then b else c.lent.getLsbD j) ∧ d = { c with lent := d.lent })
    let traps (i : Instr) (cause : Nat) : Prop := ∃ t, exec i s = .next t ∧ Trapped s t 0x06 cause k.toNat 0
    let busy := (∃ r n v m ty, r ∈ s.inflight ∧ r.ctx = s.cur ∧ r.issued ≠ s.cycle ∧ r.val = .v n v m ty ∧ n / 128 = k.toNat) ∨
      (∃ e n v m ty, e ∈ s.me.sheet ∧ e.val = .v n v m ty ∧ n / 128 = k.toNat)
    (¬ busy → s.me.lent.getLsbD k.toNat = false → lands (.lend g k) true) ∧ (busy → traps (.lend g k) 0x01) ∧
    (¬ busy → s.me.lent.getLsbD k.toNat = true → traps (.lend g k) 0x04) ∧
    (s.me.lent.getLsbD k.toNat = true → lands (.recl g k) false) ∧ (s.me.lent.getLsbD k.toNat = false → traps (.recl g k) 0x03)

/-- R294: the requirement and the effect of each MSTR on its entry of the cluster's stream table; PAUSE and CLOSE save an open
tile as a pending write of 4,096 bytes in the entry's save area, RESUME restores it; an unmet requirement takes the matrix
trap with cause 0x08. For a kernel that does not use the table no requirement holds (R292; DEDUCED, log 32), and OPEN leaves a free
value in its tile (R252). -/
def Sys2Proof.Claim.StreamEntriesFollowTheirStates : Prop :=
  ∀ (g e tile : BitVec 3) (save : BitVec 10) (s : State), s.Runs g → s.matrixBusy s.me.core = false →
    let core := s.me.core
    let k := s.kernel s.me.kernel
    let x := s.sentry core e.toNat
    let addr := clLoc (coreCluster core) (k.clBase (coreCluster core) + 4096 * x.save)
    let mine : Prop := x.ctx = s.cur
    let entry (i : Instr) (y : SEntry) : Prop := ∃ t, exec i s = .next t ∧ t.sentry core e.toNat = y ∧
      (∀ n, n ≠ e.toNat → t.sentry core n = s.sentry core n) ∧ MemSame s t ∧ OthersSame s.cur s t ∧ RegsSame s.me t.me ∧
      t.inflight = s.inflight ∧ t.ends = s.ends ∧ t.iss = s.iss
    let saved (i : Instr) (y : SEntry) : Prop := ∃ t w, exec i s = .next t ∧ t.sentry core e.toNat = y ∧
      w.loc = addr ∧ w.n = 4096 ∧ w.val = (s.tile core x.tile).acc.toNat ∧ t.me = { s.me with outbox := s.me.outbox ++ [w] } ∧
      s.cycle + 16 ≤ (t.core core).mhold ∧ MemSame s t ∧ OthersSame s.cur s t
    let traps (i : Instr) : Prop := ∃ t, exec i s = .next t ∧ Trapped s t 0x0D 0x08 0 0
    let openOk : Prop := x.state = .closed ∧ s.held core tile.toNat = none ∧ 4096 * save.toNat + 4096 ≤ k.clLen
    let resumeOk : Prop := x.state = .paused ∧ mine ∧ x.bench = coreBench core ∧ s.held core x.tile = none
    (k.strm = false → ∀ i, i ∈ ([.mstrOpen g e tile save, .mstrPause g e, .mstrResume g e, .mstrReset g e, .mstrClose g e] :
      List Instr) → traps i) ∧
    (k.strm = true →
    (openOk → entry (.mstrOpen g e tile save) {
        state := .opened, bench := coreBench core, ctx := s.cur, tile := tile.toNat, rst := true, save := save.toNat } ∧
      ∃ t, exec (.mstrOpen g e tile save) s = .next t ∧ t.tile core tile.toNat = { acc := Config.freeTile s.freeCtr } ∧
        ∀ n, n ≠ tile.toNat → t.tile core n = s.tile core n) ∧
    (¬ openOk → traps (.mstrOpen g e tile save)) ∧
    (x.state = .opened ∧ mine → saved (.mstrPause g e) { x with state := .paused }) ∧
    (¬ (x.state = .opened ∧ mine) → traps (.mstrPause g e)) ∧
    (resumeOk → ∃ t, exec (.mstrResume g e) s = .next t ∧ t.sentry core e.toNat = { x with state := .opened } ∧
      (t.tile core x.tile).acc = BitVec.ofNat 32768 (s.readSharedRun core s.me.view s.me.outbox addr 4096) ∧
      s.cycle + 16 ≤ (t.core core).mhold ∧ t.me = s.me ∧ MemSame s t) ∧
    (¬ resumeOk → traps (.mstrResume g e)) ∧
    (x.state ≠ .closed ∧ mine → entry (.mstrReset g e) { x with rst := true, cn := 0 }) ∧
    (x.state = .paused ∧ mine → entry (.mstrClose g e) {}) ∧ (x.state = .opened ∧ mine → saved (.mstrClose g e) {}) ∧
    (x.state = .closed ∨ ¬ mine → traps (.mstrReset g e) ∧ traps (.mstrClose g e)))

/-! ### Matrix micro-words -/

/-- R255 and R263 to R265, for the routine r of the acting core: FEEDA and FEEDB bind a stream of MPm's entry (or of a lent bank) and
take its bias; BIAS adds to the routine's bias; ADV advances the MP registers of its mask by 64·STEP bytes modulo 2^22, in a saved
context also in its state record (R215, R274); LOOPK starts a loop of n passes over the next words, or steps over them with n = 0, or
deals a chunk loop to the live slices (R278). Then the routine goes on with the next word (`microNext`). Which loops are chunk loops is
read from R278 (DEDUCED, log 29). -/
def Sys2Proof.Claim.MicroWordsBindAndStep : Prop :=
  ∀ (s : State) (r : Routine), (s.core s.rcore).routine = some r →
    let c := s.ctx r.ctx
    let set (r' : Routine) : State := s.setRoutine s.rcore (some r')
    (∀ (m : BitVec 3) (lb : Bool) (k : BitVec 4) (st : Stream),
      let mp := c.mpr m.toNat
      let e := mget {} r.ents (mp.toNat / 2 ^ 58)
      let addr := mp.toNat % 2 ^ 22 / 64 * 64
      e.fmt ∈ ([.i4, .n4, .i8, .n8, .e2m1, .e4m3, .e5m2, .fp16, .bf16] : List ETy) →
      (e.mx = true → e.fmt ∈ ([.e2m1, .e4m3, .e5m2] : List ETy)) →
      ((lb = true ∧ c.lent.getLsbD k.toNat = true ∧ st = ⟨.lent k.toNat, addr % 2 ^ 16, e.fmt, e.mx⟩) ∨
       (lb = false ∧ e.kind = 0 ∧ st = ⟨.bank (e.loc.toNat / 2 ^ 18 % 16), e.loc.toNat % 2 ^ 18 + addr, e.fmt, e.mx⟩) ∨
       (lb = false ∧ e.kind = 1 ∧ st = ⟨.cluster, e.loc.toNat % 2 ^ 22 + addr, e.fmt, e.mx⟩)) →
      exec (.feeda m lb k) s = .next (s.microNext { r with ex := { r.ex with sA := some st }, ba := e.bias }) ∧
      exec (.feedb m lb k) s = .next (s.microNext { r with ex := { r.ex with sB := some st }, bb := e.bias })) ∧
    (∀ v : BitVec 8, exec (.bias v) s = .next (s.microNext { r with sb := r.sb + v.toInt })) ∧
    (∀ mask : BitVec 8, ∃ u mp, exec (.adv mask) s = .next (u.microNext r) ∧ u.ctxs = (s.setCtx r.ctx { c with mp := mp }).ctxs ∧
      MemSame s u ∧ (c.released = false → u = s.setCtx r.ctx { c with mp := mp }) ∧
      (c.released = true → s.recordPa r.ctx % 4096 = 0 → (∀ d, d ≠ 131 → u.order d = s.order d) ∧
        ∃ l, u.order 131 = s.order 131 ++ l ∧ ∀ j, j < 8 → mask.getLsbD j = true →
          ∀ loc, paLoc s.ncc (s.recordPa r.ctx + 0xF80 + 8 * j) = some loc → s.deadAt loc = false →
            ∃ w ∈ l, w.loc = loc ∧ w.n = 8 ∧ w.val = (mget 0#64 mp j).toNat) ∧
      ∀ j, mget 0#64 mp j = if j < 8 ∧ mask.getLsbD j = true then
          let w := (c.mpr j).toNat
          let a : Int := Int.ofNat (w % 2 ^ 22)
          BitVec.ofNat 64 (w / 2 ^ 22 * 2 ^ 22 + ((a + 64 * (BitVec.ofNat 14 (w / 2 ^ 22)).toInt) % (2 : Int) ^ 22).toNat)
        else c.mpr j) ∧
    (∀ (len : BitVec 11),
      let loops (i : Instr) (n : Nat) : Prop :=
        let body := s.bodyWords s.rcore r (r.pc + 1) (len.toNat + 1)
        let dealt := if r.fold && r.deal.isNone && !body.isEmpty then chunkLoop body else none
        (n = 0 → exec i s = .next (set { r.goOn (r.pc + 2 + len.toNat) s.cycle with last := r.pc })) ∧
        (n ≠ 0 → dealt = none → exec i s = .next (set { r with
          loops := ⟨r.pc + 1, len.toNat + 1, n⟩ :: r.loops, pc := r.pc + 1, at_ := s.cycle + 1, last := r.pc })) ∧
        (n ≠ 0 → ∀ t, dealt = some t → exec i s = .next (set { s.startDeal s.rcore r (len.toNat + 1) n t body with last := r.pc }))
      (∀ n : BitVec 14, loops (.loopk n len) n.toNat) ∧
      ∀ f : BitVec 2, loops (.loopkMh f len) (r.mh.toNat / 2 ^ (16 * f.toNat) % 2 ^ 16))

/-- R256 to R259, outside a chunk loop, for streams in two banks without poison: MAC consumes kd steps of both operands into the
open chunk; SCALE reads the 256 bytes of a record of an MX stream; CHAIN adds the chunk's 1,024 sums to its tile and closes the
chunk, and CHAIN.LAST also makes every entry its chain value; a tile that a stream entry holds faults with cause 0x07. That a held
tile is judged before the streams, and that PASSES counts the passes of tiles, is read from R268 and R283 (DEDUCED, log 29). -/
def Sys2Proof.Claim.MicroWordsMultiplyAndChain : Prop :=
  ∀ (s : State) (r : Routine) (t : BitVec 3), (s.core s.rcore).routine = some r → r.deal = none → s.poison = [] →
    let core := s.rcore
    (s.held core t.toNat ≠ none → exec (.mac t) s = .next (s.routineFault core 0x07 r.pc) ∧
      ∀ last, exec (.chain t last) s = .next (s.routineFault core 0x07 r.pc)) ∧
    (∀ (a b : Stream) (x y : Nat), r.ex.sA = some a → r.ex.sB = some b → a.place = .bank x → b.place = .bank y → x ≠ y →
      let kd := 64 / max a.fmt.width b.fmt.width
      let bytes (z : Stream) : Nat := 4 * kd * z.fmt.width
      let data (bank : Nat) (z : Stream) : Nat := readBank s.mem core bank z.ptr (bytes z)
      let cn := r.ex.chunk.cn
      let col (z : Stream) (bank : Nat) (rec : BitVec 2048) (q : Nat) : List Ext := (List.range 32).map (fun i =>
        let v := valOf z.fmt (data bank z / 2 ^ (z.fmt.width * (kd * i + q)) % 2 ^ z.fmt.width)
        let sc : Nat := rec.toNat / 2 ^ (8 * (32 * ((cn + q) / 32) + i)) % 2 ^ 8
        if z.mx then (if sc = 255 then .nan else shiftExt ((sc : Int) - 127) v) else v)
      (s.held core t.toNat = none → a.fmt.isInt = b.fmt.isInt → (0 < cn → r.ex.chunk.ot = t.toNat) → cn + kd ≤ 256 →
        exec (.mac t) s = .next (((s.addFeed core x).addFeed core y).microNext { r with ex := { r.ex with
          sA := some { a with ptr := a.ptr + bytes a }
          sB := some { b with ptr := b.ptr + bytes b }
          chunk := ⟨t.toNat, cn + kd, (if cn = 0 then [] else r.ex.chunk.prods) ++
            (List.range kd).map (fun q => (col a x r.ex.scA q, col b y r.ex.scB q, a.fmt.isInt))⟩ } })) ∧
      (a.mx = true → exec (.scale true false) s = .next ((s.addFeed core x).microNext { r with ex := { r.ex with
        scA := BitVec.ofNat 2048 (readBank s.mem core x a.ptr 256), sA := some { a with ptr := a.ptr + 256 } } })) ∧
      (b.mx = true → exec (.scale false true) s = .next ((s.addFeed core y).microNext { r with ex := { r.ex with
        scB := BitVec.ofNat 2048 (readBank s.mem core y b.ptr 256), sB := some { b with ptr := b.ptr + 256 } } }))) ∧
    (s.held core t.toNat = none → 0 < r.ex.chunk.cn → r.ex.chunk.ot = t.toNat →
      let P := r.ex.chunk.prods
      let sums := (List.range 32).flatMap (fun i => (List.range 32).map (fun j =>
        chunkSum r.prof (P.map (fun p => dotMul p.2.2 ((p.1[i]?).getD .nan) ((p.2.1[j]?).getD .nan)))))
      let a := (s.tile core t.toNat).chainAdd r.prof r.d (sums.map Prod.fst)
      let r' := { r with
        ex := { r.ex with chunk := {} }, passes := r.passes + a.2.2, sat := r.sat || a.2.1.sat,
        ovf := r.ovf || a.2.1.ov || sums.any (fun x => x.2) }
      let z := a.1.chainLast r.prof
      exec (.chain t false) s = .next ((s.setTile core t.toNat a.1).microNext r') ∧
      exec (.chain t true) s = .next (((s.setTile core t.toNat a.1).setTile core t.toNat z.1).microNext { r' with
        passes := r'.passes + z.2.2, sat := r'.sat || z.2.1.sat, ovf := r'.ovf || z.2.1.ov }))

/-- R255 to R258 and R267, outside a chunk loop, for streams in banks, in lent banks or in the cluster share, without poison: MAC and
SCALE (of A, of B, or of both) read each stream where it lies, in the share in the bench's frame slot, up to 512 bytes together
(R287), a lent bank without an access. R261, R292 and R293: EMIT of a held tile serves its owner, and faults with cause 0x07 for
another context; EMIT.ST to the share is a pending write, and to any other place but a bank it faults with cause 0x04. -/
def Sys2Proof.Claim.MicroWordsReachTheirStreams : Prop :=
  ∀ (s : State) (r : Routine) (t g m : BitVec 3) (a b : Stream), (s.core s.rcore).routine = some r → r.deal = none → s.poison = [] →
    let core := s.rcore
    let cl := coreCluster core
    let c := s.ctx r.ctx
    let kn := s.kernel c.kernel
    let isCl (z : Stream × Nat) : Prop := z.1.place = .cluster
    let fits (l : List (Stream × Nat)) : Prop :=
      (∀ x, (l.filter (fun z => z.1.place == .bank x)).length ≤ 1) ∧
      ((∃ z ∈ l, isCl z) → kn.slotOwner s.cycle = coreBench core) ∧ (∀ z ∈ l, isCl z → z.1.ptr + z.2 ≤ kn.clLen) ∧
      ((l.filter (fun z => z.1.place == .cluster)).map Prod.snd).sum ≤ 512
    let reach (u : State) (z : Stream × Nat) : State := match z.1.place with
      | .bank x => u.addFeed core x
      | .lent _ => u
      | .cluster => u.addK1 cl (coreBench core) (kn.clBase cl + z.1.ptr) z.2 true
    let at_ (z : Stream) (j : Nat) : Nat := match z.place with
      | .bank x => (readByte s.mem (unitLoc core x ((z.ptr + j) % 2 ^ 18))).toNat
      | .lent k => (mget 0#4096 c.v (128 * k + (z.ptr + j) % 2 ^ 16 / 512)).toNat / 256 ^ ((z.ptr + j) % 512) % 256
      | .cluster => (s.readShared core c.view c.outbox (clLoc cl (kn.clBase cl + z.ptr + j))).toNat
    let holds (z : Stream) (n v : Nat) : Prop := v < 256 ^ n ∧ ∀ j, j < n → v / 256 ^ j % 256 = at_ z j
    let past (z : Stream) (n : Nat) : Stream := { z with ptr := z.ptr + n }
    let cn := r.ex.chunk.cn
    let kd := 64 / max a.fmt.width b.fmt.width
    let bytes (z : Stream) : Nat := 4 * kd * z.fmt.width
    let col (z : Stream) (v : Nat) (rec : BitVec 2048) (q : Nat) : List Ext := (List.range 32).map (fun i =>
      let x := valOf z.fmt (v / 2 ^ (z.fmt.width * (kd * i + q)) % 2 ^ z.fmt.width)
      let sc : Nat := rec.toNat / 2 ^ (8 * (32 * ((cn + q) / 32) + i)) % 2 ^ 8
      if z.mx then (if sc = 255 then .nan else shiftExt ((sc : Int) - 127) x) else x)
    let rows := BitVec.ofNat 4096 ((s.tile core t.toNat).acc.toNat / 2 ^ (4096 * g.toNat))
    let fl (x : State) : State := x.setCore core { x.core core with fl := some (s.cycle, r.ctx, rows) }
    let e := mget {} r.ents ((c.mpr m.toNat).toNat / 2 ^ 58)
    (r.ex.sA = some a → r.ex.sB = some b →
      (∀ va vb, s.held core t.toNat = none → a.fmt.isInt = b.fmt.isInt → (0 < cn → r.ex.chunk.ot = t.toNat) → cn + kd ≤ 256 →
        fits [(a, bytes a), (b, bytes b)] → holds a (bytes a) va → holds b (bytes b) vb →
        exec (.mac t) s = .next ((reach (reach s (a, bytes a)) (b, bytes b)).microNext { r with ex := { r.ex with
          sA := some (past a (bytes a)), sB := some (past b (bytes b))
          chunk := ⟨t.toNat, cn + kd, (if cn = 0 then [] else r.ex.chunk.prods) ++
            (List.range kd).map (fun q => (col a va r.ex.scA q, col b vb r.ex.scB q, a.fmt.isInt))⟩ } })) ∧
      (∀ (ra rb : Bool) (va vb : Nat),
        let onA := ra && a.mx
        let onB := rb && b.mx
        let l := (if onA then [(a, 256)] else []) ++ (if onB then [(b, 256)] else [])
        fits l → (onA = true → holds a 256 va) → (onB = true → holds b 256 vb) →
        exec (.scale ra rb) s = .next ((l.foldl reach s).microNext { r with ex := { r.ex with
          scA := if onA then BitVec.ofNat 2048 va else r.ex.scA, sA := some (if onA then past a 256 else a)
          scB := if onB then BitVec.ofNat 2048 vb else r.ex.scB, sB := some (if onB then past b 256 else b) } }))) ∧
    (∀ x, s.held core t.toNat = some x →
      (x.ctx = r.ctx → exec (.emit t g false m) s = .next ((fl s).microNext r)) ∧
      (x.ctx ≠ r.ctx → ∀ st, exec (.emit t g st m) s = .next (s.routineFault core 0x07 r.pc))) ∧
    ((∀ x, s.held core t.toNat = some x → x.ctx = r.ctx) →
      let lo := e.loc.toNat % 2 ^ 22 + mpAddr (c.mpr m.toNat) + 512 * g.toNat
      (e.kind = 1 → kn.slotOwner s.cycle = coreBench core → lo + 512 ≤ kn.clLen → ∃ u w, exec (.emit t g true m) s = .next u ∧
        u.ctx r.ctx = { c with outbox := c.outbox ++ [w] } ∧ w.loc = clLoc cl (kn.clBase cl + lo) ∧ w.n = 512 ∧
        w.val = rows.toNat ∧ (u.core core).fl = some (s.cycle, r.ctx, rows) ∧ MemSame s u ∧ OthersSame r.ctx s u) ∧
      (e.kind ≠ 0 → e.kind ≠ 1 → exec (.emit t g true m) s = .next (s.routineFault core 0x04 r.pc)))

/-- R260, R261 and R263: ACLR sets a tile that no entry holds to +0 and drops an open chunk of it; EMIT puts rows 4g to 4g + 3
into the forwarding latch of its cycle, and EMIT.ST also writes them at MPm's place, 512·g bytes on; END reports in MSTAT,
writes the clamped bias unless NB, and frees the slot after the last run. Before it, the routine restarts at its word 0 in the next
cycle with one run fewer to go (R252, R269): tiles that no entry holds at +0, its open steps discarded (R293), the MP registers of INC
advanced and the entries it reads with the bias just written. -/
def Sys2Proof.Claim.MicroWordsClearEmitAndEnd : Prop :=
  ∀ (s : State) (r : Routine) (t g m : BitVec 3) (nb : Bool), (s.core s.rcore).routine = some r →
    let core := s.rcore
    let c := s.ctx r.ctx
    let rows := BitVec.ofNat 4096 ((s.tile core t.toNat).acc.toNat / 2 ^ (4096 * g.toNat))
    let fl (x : State) : State := x.setCore core { x.core core with fl := some (s.cycle, r.ctx, rows) }
    let e := mget {} r.ents ((c.mpr m.toNat).toNat / 2 ^ 58)
    let v := r.ba + r.bb + r.sb
    let home : Nat := if r.fold then (r.live.map (fun b => 2 ^ b)).sum else 2 ^ coreBench core
    (s.held core t.toNat = none →
      exec (.aclr t) s = .next ((s.setTile core t.toNat {}).microNext
        (if r.ex.chunk.ot = t.toNat then { r with ex := { r.ex with chunk := {} } } else r)) ∧
      exec (.emit t g false m) s = .next ((fl s).microNext r) ∧
      (e.kind = 0 → exec (.emit t g true m) s = .next ((fl { s.addFeed core (e.loc.toNat / 2 ^ 18 % 16) with
        stores := s.stores ++ [⟨none, s.cycle + 2, core, e.loc.toNat / 2 ^ 18 % 16,
          [((e.loc.toNat + mpAddr (c.mpr m.toNat) + 512 * g.toNat) % 2 ^ 18, 512, rows.toNat, 2 ^ 4096 - 1)]⟩] }).microNext r))) ∧
    let tid := (c.mpr m.toNat).toNat / 2 ^ 58
    (r.d < 8 → r.prof < 16 → ∃ x fields, exec (.endR m nb) s = .next x ∧ MemSame s x ∧ OthersSame r.ctx s x ∧
      (r.rep = 0 → (x.core core).routine = none ∧ s.cycle + 1 ≤ (x.core core).mbusy ∧
        (x.core core).ended = (s.cycle, r.start, r.len) ∧ x.ctx r.ctx = c) ∧
      (r.rep ≠ 0 → ∃ ents mp, (x.core core).routine = some { r with
          pc := 0, at_ := s.cycle + 1, loops := [], rep := r.rep - 1, ents := ents, ex := {}, ba := 0, bb := 0, sb := 0, passes := 0
          xp := false, sat := false, ovf := false, deal := none, steps := [] } ∧
        (∀ n, mget {} ents n = if nb = false ∧ n = tid then { mget {} r.ents n with bias := max (-128) (min 127 v) } else mget {} r.ents n) ∧
        (r.steps = [] ∨ mwf {} (s.cluster (coreCluster core)).streams = true →
          ∀ n, x.tile core n = if (s.held core n).isSome then s.tile core n else {}) ∧
        (∀ k ∈ r.steps, (x.sentry core k).cn = 0) ∧ x.ctx r.ctx = { c with mp := mp } ∧
        ∀ j, mget 0#64 mp j = if j < 8 ∧ r.inc.getLsbD j = true then
          let w := (c.mpr j).toNat
          let a : Int := Int.ofNat (w % 2 ^ 22)
          BitVec.ofNat 64 (w / 2 ^ 22 * 2 ^ 22 + ((a + 64 * (BitVec.ofNat 14 (w / 2 ^ 22)).toInt) % (2 : Int) ^ 22).toNat)
          else c.mpr j) ∧
      x.ends = s.ends ++ [(r.ctx, 3, .report fields r.sat (r.ovf || (!nb && decide (v < -128 ∨ 127 < v))))] ++
        (if nb then [] else [(r.ctx, 3, .bias tid (max (-128) (min 127 v)))]) ∧
      fields = BitVec.ofNat 64 (home * 2 ^ 4 + (if r.fold then 2 ^ 11 else 0) + r.d * 2 ^ 12 + (if r.xp then 2 ^ 15 else 0) +
        min r.passes (2 ^ 20 - 1) * 2 ^ 16 + r.prof * 2 ^ 36))

/-- R266 and R293: STREAM on an open entry of its own context and bench takes two rows of its B operand into the open step; with
CL the step's 1,024 sums, each its chunk sum added to U, become the entry's tile and the step closes. Otherwise it faults with
cause 0x07. -/
def Sys2Proof.Claim.StreamWordsStepTheirTile : Prop :=
  ∀ (s : State) (r : Routine) (e u : BitVec 3) (b : Stream) (y : Nat), (s.core s.rcore).routine = some r → s.poison = [] →
    let core := s.rcore
    let x := s.sentry core e.toNat
    let ok : Prop := x.state = .opened ∧ x.bench = coreBench core ∧ x.ctx = r.ctx ∧ u.toNat ≠ x.tile
    let x' := if x.cn = 0 then { x with h0 := if x.rst then 0#32768 else (s.tile core x.tile).acc, rows := [] } else x
    let n := 8 * b.fmt.width
    let data := readBank s.mem core y b.ptr n
    let rows := x'.rows ++ (List.range 2).map (fun q => (List.range 32).map (fun i =>
      valOf b.fmt (data / 2 ^ (b.fmt.width * (2 * i + q)) % 2 ^ b.fmt.width)))
    let r1 := { r with ex := { r.ex with sB := some { b with ptr := b.ptr + n } } }
    let h := streamSums r.prof x'.h0 rows (s.tile core u.toNat)
    (¬ ok → ∀ cl, exec (.stream e u cl) s = .next (s.routineFault core 0x07 r.pc)) ∧
    (ok → r.ex.sB = some b → b.place = .bank y → b.fmt.isInt = false → b.mx = false → r.prof ≠ 7 → r.prof ≠ 8 → x.cn ≤ 30 →
      (∃ k, exec (.stream e u false) s = .next ((((s.addFeed core y).setSentry core e.toNat
        { x' with cn := x'.cn + 2, rows := rows })).microNext { r1 with steps := k }) ∧ e.toNat ∈ k) ∧
      (∃ k, exec (.stream e u true) s = .next ((((s.addFeed core y).setTile core x.tile
        { acc := BitVec.ofNat 32768 (packLanes 32 (h.map (fun p => p.1.pat.toNat))) }).setSentry core e.toNat
        { x' with cn := 0, h0 := 0#32768, rows := [], rst := false }).microNext
        { r1 with ovf := r.ovf || h.any (fun p => p.2.ov), steps := k }) ∧ e.toNat ∉ k))

/-- `Claim.RoutinesAreBound` and `Claim.RoutineBlocksAreLoaded`. -/
def Obligations.RoutinesAreBoundAndLoaded : Prop :=
  Sys2Proof.Claim.RoutinesAreBound ∧ Sys2Proof.Claim.RoutineBlocksAreLoaded

/-- `Claim.BanksAreLentAndReclaimed` and `Claim.LentRegistersTrap`. -/
def Obligations.BanksAreLentAndTheirRegistersTrap : Prop :=
  Sys2Proof.Claim.BanksAreLentAndReclaimed ∧ Sys2Proof.Claim.LentRegistersTrap

/-- `Claim.StreamEntriesFollowTheirStates` and `Claim.StreamWordsStepTheirTile`. -/
def Obligations.StreamsStepTheirTiles : Prop :=
  Sys2Proof.Claim.StreamEntriesFollowTheirStates ∧ Sys2Proof.Claim.StreamWordsStepTheirTile

/-- `Claim.MicroWordsBindAndStep`, `Claim.MicroWordsMultiplyAndChain`, `Claim.MicroWordsReachTheirStreams` and
`Claim.MicroWordsClearEmitAndEnd`. -/
def Obligations.MicroWordsComputeTheirRoutine : Prop :=
  Sys2Proof.Claim.MicroWordsBindAndStep ∧ Sys2Proof.Claim.MicroWordsMultiplyAndChain ∧
  Sys2Proof.Claim.MicroWordsReachTheirStreams ∧ Sys2Proof.Claim.MicroWordsClearEmitAndEnd

/-! ### L and S slots -/

/-- R181, R183, R193 to R195: a load reads its bytes at issue, at the effective bank and offset, and writes its destination 4 c
later (VLDT 6 c): VLD 512 bytes, VLDG 512/g segments of g = 32·2^SEG bytes 32·PITCH apart, SLD 8, MLD 128, VLDT element (r, c) of
16 rows to lane 16c + r, VLDB 1,024 lanes converted to the lanes of a pair; An steps, LHn swaps, and nothing else changes. -/
def Sys2Proof.Claim.LoadsReachTheirRegisters : Prop :=
  ∀ (f : LF) (s : State) (bank off : Nat),
    let me' := if f.sw then s.me.swapShape 0 f.sh.toNat else s.me
    let sh := (me'.shapeOf 0 f.sh.toNat).toNat
    let org := sh / 2 ^ 15 % 2 ^ 12
    let g := 32 * 2 ^ (sh / 2 ^ 13 % 4)
    let pitch := 32 * (sh % 2 ^ 13)
    let d := f.opd.toNat
    let byte (o : Nat) : Nat := (readByte s.mem (unitLoc s.me.core bank o)).toNat
    let run (o n : Nat) : Nat := readBank s.mem s.me.core bank o n
    let loads (i : Instr) (l : List Res) : Prop := ∃ t, exec i s = .next t ∧ t.inflight = s.inflight ++ l ++ incResults s f.spa ∧
      t.me = me' ∧ MemSame s t ∧ OthersSame s.cur s t ∧ t.ends = s.ends ∧ t.stores = s.stores ∧
      t.iss = { s.iss with lBank := some bank }
    let ok (align : Nat) (regs : List Nat) : Prop := Accesses s f true org align regs bank off
    let every : Nat → Bool := fun _ => true
    let none : Nat → Flags := fun _ => 0#7
    (ok 64 [d] →
      (∃ r, loads (.vld f) [r] ∧ VResult s r 4 d .n8 every (fun k => byte (off + k)) none) ∧
      (∃ r, loads (.vldg f) [r] ∧ VResult s r 4 d .n8 every (fun k => byte (off + pitch * (k / g) + k % g)) none) ∧
      (∃ r, loads (.vldt f) [r] ∧ VResult s r 6 d f.ty every
        (fun k => run (off + pitch * (k % 16)) 32 / 2 ^ (f.ty.width * (k / 16))) none)) ∧
    (ok 8 [] → loads (.sld f) [s.result 4 (.s (f.opd.setWidth 6) (BitVec.ofNat 64 (run off 8))) 0#7]) ∧
    (ok 128 [] → loads (.mld f) [s.result 4 (.m (f.opd.setWidth 4) (BitVec.ofNat 1024 (run off 128)) (BitVec.allOnes 1024)) 0#7]) ∧
    (ok 64 [d, d + 1] → ∀ st, (f.opx.toNat % 16, st, f.ty) ∈
        ([(0, .i4, .i8), (1, .n4, .n8), (1, .n4, .i8), (8, .e2m1, .e4m3), (8, .e2m1, .e5m2)] : List (Nat × ETy × ETy)) →
      let v q k := (convert rneModes st f.ty false k (run off 512 / 2 ^ (4 * (2 * k + q)) % 16)).1
      ∃ r0 r1, loads (.vldb f) [r0, r1] ∧ VResult s r0 4 d f.ty every (v 0) none ∧ VResult s r1 4 (d + 1) f.ty every (v 1) none)

/-- R183, R196 and R197: a store reads its source at issue and is performed 2 c later, at the effective bank and offset: VST each
lane whose mask bit is 1 (bit by bit for 4-bit lanes), SST 8 bytes, MST 128 bytes, VSTX lane 16c + r to element (r, c) of its
row, the higher row winning an overlap. Every other byte stays. -/
def Sys2Proof.Claim.StoresReachTheirBytes : Prop :=
  ∀ (f : LF) (s : State) (bank off : Nat),
    let me' := if f.sw then s.me.swapShape 1 f.sh.toNat else s.me
    let sh := (me'.shapeOf 1 f.sh.toNat).toNat
    let org := sh / 2 ^ 15 % 2 ^ 12
    let pitch := 32 * (sh % 2 ^ 13)
    let src := s.me.vr f.opd.toNat
    let w := f.ty.width
    let stores (i : Instr) (P : Nat → BitVec 8 → BitVec 8 → Prop) : Prop := ∃ t x, exec i s = .next t ∧
      t.stores = s.stores ++ [x] ∧ x.ctx = some s.cur ∧ x.due = s.cycle + 2 ∧ x.core = s.me.core ∧ x.bank = bank ∧
      Performs x P ∧ t.inflight = s.inflight ++ incResults s f.spa ∧ t.me = me' ∧ MemSame s t ∧ OthersSame s.cur s t ∧
      t.ends = s.ends ∧ t.iss = { s.iss with sBank := some bank }
    let ok (align : Nat) (regs : List Nat) : Prop := Accesses s f false org align regs bank off
    let at_ (o : Nat) : Nat := (o + 2 ^ 18 - off) % 2 ^ 18
    let bytes (n v : Nat) : Nat → BitVec 8 → BitVec 8 → Prop := fun o old new =>
      new = if at_ o < n then BitVec.ofNat 8 (v / 256 ^ at_ o) else old
    (ok 64 [f.opd.toNat] → stores (.vst f) (fun o old new => if at_ o < 512 then
        ∀ j, j < 8 → new.getLsbD j = if (s.me.mask (f.opx.setWidth 4)).getLsbD ((8 * at_ o + j) / w)
          then src.getLsbD (8 * at_ o + j) else old.getLsbD j
      else new = old)) ∧
    (ok 8 [] → stores (.sst f) (bytes 8 (s.me.s (f.opd.setWidth 6)).toNat)) ∧
    (ok 128 [] → stores (.mst f) (bytes 128 (s.me.mask (f.opd.setWidth 4)).toNat)) ∧
    (ok 64 [f.opd.toNat] →
      let hits (o r p : Nat) : Prop := r < 16 ∧ p < 32 ∧ (off + pitch * r + p) % 2 ^ 18 = o
      stores (.vstx f) (fun o old new =>
        (∀ r p, hits o r p → (∀ r' p', r < r' → ¬ hits o r' p') → ∀ j, j < 8 →
          new.getLsbD j = src.getLsbD (w * (16 * ((8 * p + j) / w) + r) + (8 * p + j) % w)) ∧
        ((∀ r p, ¬ hits o r p) → new = old)))

/-- R184, R187 to R189 and R424: a queue-form operand whose handle has no such slot takes cause 0x09; a bank that a matrix feed
uses takes the bank-conflict trap with cause 0x02, the spoil bank with 0x03, a store to the L slot's bank with 0x01; a wait that
no delivery can meet takes the queue trap with cause 0x01; a consumer's wait on a declared inbound handle blocks the bundle. -/
def Obligations.ScratchpadAccessesTrap : Prop :=
  ∀ (f : LF) (s : State) (i : Instr) (align : Nat) (regs : List Nat) (consumer : Bool),
    (i, align, regs, consumer) ∈ ([(.vld f, 64, [f.opd.toNat], true), (.vldg f, 64, [f.opd.toNat], true), (.sld f, 8, [], true),
      (.mld f, 128, [], true), (.vldt f, 64, [f.opd.toNat], true), (.vldb f, 64, [f.opd.toNat, f.opd.toNat + 1], true),
      (.vst f, 64, [f.opd.toNat], false), (.sst f, 8, [], false), (.mst f, 128, [], false), (.vstx f, 64, [f.opd.toNat], false)] :
      List (Instr × Nat × List Nat × Bool)) →
    s.Runs f.g →
    let cls := if consumer then 0 else 1
    let sh := ((if f.sw then s.me.swapShape cls f.sh.toNat else s.me).shapeOf cls f.sh.toNat).toNat
    let bank := (place s.me consumer f.spa (sh / 2 ^ 15 % 2 ^ 12) align).1
    let traps (code cause info : Nat) : Prop := ∃ t, exec i s = .next t ∧ Trapped s t code cause info 0
    let inbound : Prop := ∃ q k w, f.spa = .queue q k w ∧ 12 ≤ q.toNat ∧ (s.me.qh q.toNat).count ≠ 0
    let waits : Prop := ¬ WaitMet s.me consumer f.spa ∧ consumer = true ∧ inbound
    (¬ HandleFits s.me f.spa → traps 0x01 0x09 0) ∧
    (HandleFits s.me f.spa →
      (waits → exec i s = .next s.block) ∧
      (¬ waits → s.NotLent regs →
        (consumer = false → s.iss.lBank = some bank → traps 0x03 0x01 bank) ∧
        ((consumer = true ∨ s.iss.lBank ≠ some bank) →
          (bank ∈ s.feedBanks s.me.core → traps 0x03 0x02 bank) ∧
          (bank ∉ s.feedBanks s.me.core → (s.kernel s.me.kernel).spoil = some bank → traps 0x03 0x03 bank) ∧
          (¬ BankTaken s consumer bank → ¬ WaitMet s.me consumer f.spa → traps 0x0E 0x01 0))))

/-- R290: PUTQ to a declared inbound handle with slots of at least 512 bytes, in its bench's frame slot and with no other access
of its bench there, publishes at CLUSTER, counts the delivery in INFL and sends the 512 bytes of its register; a target that is being moved (R291)
blocks it, a WAIT beyond the handle's slots is no instruction (cause 0x09, R54), no such target takes the queue trap with cause 0x05,
a bench that owns no frame slot cause 0x06. PUTQ_DELIVERY, in a
cycle in which no other access takes its bank (R185), writes the bytes at the handle's TAIL slot and moves TAIL, FILL and INFL. -/
def Obligations.QueueDeliveriesArrive : Prop :=
  (∀ (g : BitVec 3) (vs : BitVec 11) (ben hw : BitVec 2) (q : BitVec 4) (wait : BitVec 9) (s : State), s.Runs g →
    s.NotLent [vs.toNat] →
    let core := s.me.core
    let k := s.kernel s.me.kernel
    let b := coreBench core
    let quiet : Prop := k.slotOwner s.cycle = b ∧ ∀ x, x ∈ s.k1Now (coreCluster core) → x.1 ≠ b
    let tgt := s.boundOf s.me.kernel (clusterCore (coreCluster core) ben.toNat) hw.toNat
    (∀ u, tgt = some u →
      let h := (s.ctx u).qh q.toNat
      h.count ≠ 0 →
      (h.count < wait.toNat → ∃ t, exec (.putq g vs ben hw q wait) s = .next t ∧ Trapped s t 0x01 0x09 0 0) ∧
      (wait.toNat ≤ h.count → 8 ≤ h.size →
      (k.ownsSlot b = true → quiet → wait.toNat ≤ h.occ - h.fill - h.infl → (s.ctx u).moving = false →
        ∃ t p, exec (.putq g vs ben hw q wait) s = .next t ∧ Published s t s.cur 0 ∧ t.putqs = s.putqs ++ [p] ∧ p.target = u ∧ p.q = q.toNat ∧
          p.data = s.me.vr vs.toNat ∧ s.cycle + 4 ≤ p.due ∧ (t.ctx u).qh q.toNat = { h with infl := h.infl + 1 } ∧
          RegsSame s.me t.me ∧ MemSame s t ∧ t.inflight = s.inflight ∧ t.ends = s.ends) ∧
      (k.ownsSlot b = true → (¬ quiet ∨ h.occ - h.fill - h.infl < wait.toNat ∨ (s.ctx u).moving = true) →
        exec (.putq g vs ben hw q wait) s = .next s.block) ∧
      (k.ownsSlot b = false → ∃ t, exec (.putq g vs ben hw q wait) s = .next t ∧ Trapped s t 0x0E 0x06 0 0))) ∧
    (tgt = none ∨ (∃ u, tgt = some u ∧ (((s.ctx u).qh q.toNat).count = 0 ∨
        (((s.ctx u).qh q.toNat).size < 8 ∧ wait.toNat ≤ ((s.ctx u).qh q.toNat).count))) →
      (k.ownsSlot b = true → quiet) → ∃ t, exec (.putq g vs ben hw q wait) s = .next t ∧ Trapped s t 0x0E 0x05 0 0)) ∧
  (∀ (s : State) (p : Putq) (id : Nat), s.putqs = [p] → p.id = id → p.due ≤ s.cycle →
    let c := s.ctx p.target
    let h := c.qh p.q
    h.bank ∉ s.usedBanks c.core → h.bank ∉ s.feedBanks c.core → mget 0 (s.core c.core).engAt h.bank ≤ s.cycle →
    ∃ t, exec (.putqDelivery id) s = .next t ∧ t.putqs = [] ∧ OthersSame p.target s t ∧
      t.ctx p.target = c.setQh p.q { h with tail := (h.tail + 1) % h.count, fill := h.fill + 1, infl := h.infl - 1 } ∧
      let at_ (o : Nat) : Nat := (o + 2 ^ 18 - (64 * h.base + 64 * h.size * h.tail) % 2 ^ 18) % 2 ^ 18
      (∀ o, o < 2 ^ 18 → readByte t.mem (unitLoc c.core h.bank o) = if at_ o < 512 then BitVec.ofNat 8 (p.data.toNat / 256 ^ at_ o)
        else readByte s.mem (unitLoc c.core h.bank o)) ∧
      ∀ a, (∀ o, a ≠ unitLoc c.core h.bank o) → readByte t.mem a = readByte s.mem a)

/-- `Claim.LoadsReachTheirRegisters` and `Claim.StoresReachTheirBytes`. -/
def Obligations.LoadsAndStoresReachTheirPlaces : Prop :=
  Sys2Proof.Claim.LoadsReachTheirRegisters ∧ Sys2Proof.Claim.StoresReachTheirBytes

/-! ### C and Y slots -/

/-- R107 steps 1 and 2, R129, R187 to R190 and R303: a C slot puts one command into its engine's queue: job, opcode, tag, scopes,
the S registers from SA on, CHn after an SW swap, and the aligned bank and offset of its scratchpad side. The tag is pending, its
record zero; An steps; nothing else changes. A pending tag or 16 waiting commands block the bundle; a queue-form operand blocks or
traps as R187 to R189 say. -/
def Obligations.CommandsEnterTheirQueue : Prop :=
  ∀ (f : CF) (s : State) (spa : Spa) (mc host : Bool) (ib : BitVec 4) (dl : BitVec 26) (dp : BitVec 25) (ty : ETy) (n1 : BitVec 12)
    (gn1 : BitVec 3) (i : Instr) (opc n : Nat) (job : Job) (side : Option Bool),
    (i, opc, job, n, side) ∈ ([
      (.cpyLd f mc spa, 0x00, .cpy true mc, 1, some false), (.cpySt f spa, 0x00, .cpy false false, 1, some true),
      (.cpytLd f spa, 0x01, .cpyt true (s.me.te f.sa.toNat), 0, some false),
      (.cpytSt f spa, 0x01, .cpyt false (s.me.te f.sa.toNat), 0, some true),
      (.cpair f spa, 0x02, .cpair, 2, some true), (.cgath f ib spa, 0x03, .cgath ib.toNat, 1, some false),
      (.cmig f host dl, 0x04, .cmig host dl.toNat, 2, none),
      (.nmcopy f dp, 0x10, .nmcopy dp.toNat, 2, none), (.nmdot f spa, 0x11, .nmdot, 2, some true),
      (.fsamp f ty spa, 0x20, .fsamp ty, 2, some true), (.ftap f spa, 0x21, .ftap, 2, some false),
      (.ftick f n1, 0x22, .ftick 1 (n1.toNat + 1), 1, none),
      (.ftickG f gn1 n1, 0x22, .ftick (gn1.toNat + 1) (n1.toNat + 1), gn1.toNat + 1, none),
      (.freset f, 0x23, .freset false, 2, none), (.fresetIn f, 0x23, .freset true, 2, none),
      (.collRs f spa, 0x28, .coll 0, 1, some true), (.collAg f spa, 0x28, .coll 1, 1, some true),
      (.collAr f spa, 0x28, .coll 2, 1, some true)] : List (Instr × Nat × Job × Nat × Option Bool)) →
    s.Runs f.g →
    let c := if f.sw then s.me.swapShape 2 f.sh.toNat else s.me
    let busy : Prop := s.me.tagPend.getLsbD f.tag.toNat = true ∨
      16 ≤ (s.cmdList.filter (fun x => decide (x.ctx = s.cur ∧ x.stage = .queued) && x.job.isColl == job.isColl)).length
    let fits : Prop := side ≠ none → HandleFits s.me spa
    let met : Prop := ∀ consumer, side = some consumer → WaitMet s.me consumer spa
    let fed : Prop := side = some true ∧ ∃ q k w, spa = .queue q k w ∧ 12 ≤ q.toNat ∧ (s.me.qh q.toNat).count ≠ 0
    (fits → met → ¬ busy → ∃ t x, exec i s = .next t ∧
      t.cmd? s.nextId = some x ∧ (∀ id, id ≠ s.nextId → t.cmd? id = s.cmd? id) ∧ t.nextId = s.nextId + 1 ∧
      x.id = s.nextId ∧ x.job = job ∧ x.opc = opc ∧ x.ctx = s.cur ∧ x.kernel = s.me.kernel ∧ x.core = s.me.core ∧
      x.tag = f.tag.toNat ∧ x.aq = f.aq ∧ x.rl = f.rl ∧ x.stage = .queued ∧ x.view = s.me.view ∧ x.outbox = [] ∧
      x.words = (List.range n).map (fun j => s.me.s (BitVec.ofNat 6 (f.sa.toNat + j))) ∧ x.ch = c.shapeOf 2 f.sh.toNat ∧
      (∀ consumer, side = some consumer → (x.bank, x.off) = place s.me consumer spa 0 64) ∧
      t.me = { c with tagPend := t.me.tagPend, tagSet := t.me.tagSet, tagRec := t.me.tagRec, tagView := t.me.tagView } ∧
      (∀ j, j < 64 → t.me.tagPend.getLsbD j = (s.me.tagPend.getLsbD j || decide (j = f.tag.toNat)) ∧
        t.me.tagSet.getLsbD j = (s.me.tagSet.getLsbD j && decide (j ≠ f.tag.toNat)) ∧
        mget 0#64 t.me.tagRec j = if j = f.tag.toNat then 0#64 else mget 0#64 s.me.tagRec j) ∧
      t.inflight = s.inflight ++ (if side = none then [] else incResults s spa) ∧
      t.ends = s.ends ∧ t.iss = s.iss ∧ t.orders = s.orders ∧ MemSame s t ∧ OthersSame s.cur s t) ∧
    (fits → met → busy → exec i s = .next s.block) ∧
    (fits → ¬ met → fed → exec i s = .next s.block) ∧
    (fits → ¬ met → ¬ fed → ¬ busy → ∃ t, exec i s = .next t ∧ Trapped s t 0x0E 0x01 0 0) ∧
    (¬ fits → ∃ t, exec i s = .next t ∧ Trapped s t 0x01 0x09 0 0)

/-- R117 with R104, R105 and R118: a FENCE at CTX or CORE waits for the context's stores alone, a wider one takes a free time
after them. When it completes, REL, ACQREL and SC have put each pending write at the commit points of the core from the cluster's
to the scope's (a remote write at the system's alone) and moved what the context has seen one point wider; ACQ, ACQREL and SC have
moved its view to the end of each; SC has put a marker at the scope's; the context issues from the next cycle on. -/
def Obligations.FencesWaitThenAct : Prop :=
  (∀ (g : BitVec 3) (sc : Scope) (ord : Ord) (s : State), s.Runs g →
    let mine (x : Store) : Prop := x.ctx = some s.cur
    let waits (t : State) (at_ : Nat) : Prop := t.me = { s.me with pend := .fence sc ord at_ } ∧ MemSame s t ∧ OthersSame s.cur s t ∧
      t.inflight = s.inflight ∧ t.ends = s.ends ∧ t.orders = s.orders ∧ t.stores = s.stores
    (scopeLevel sc = none → (∀ x ∈ s.stores, ¬ mine x) → exec (.fence g sc ord) s = .next s) ∧
    (scopeLevel sc = none → (∃ x ∈ s.stores, mine x) → ∃ t at_, exec (.fence g sc ord) s = .next t ∧ waits t at_ ∧
      (∃ x ∈ s.stores, mine x ∧ x.due = at_) ∧ ∀ x ∈ s.stores, mine x → x.due ≤ at_) ∧
    (scopeLevel sc ≠ none → ∃ t at_, exec (.fence g sc ord) s = .next t ∧ waits t at_ ∧ s.cycle < at_ ∧
      ∀ x ∈ s.stores, mine x → x.due < at_)) ∧
  (∀ (u : Nat) (sc : Scope) (ord : Ord) (at_ : Nat) (s : State), (s.ctx u).pend = .fence sc ord at_ → at_ ≤ s.cycle →
    (∀ x ∈ s.stores, x.ctx ≠ some u) →
    let c := s.ctx u
    (sc = .sys → ord ≠ .acq → s.undelivered c.outbox = false) →
    ∃ t, exec (.fenceComplete u) s = .next t ∧ MemSame s t ∧ OthersSame u s t ∧
      t.ctx u = { c with pend := .none, readyAt := max c.readyAt (s.cycle + 1), pre := c.pre.later s.cycle, view := (t.ctx u).view,
                         outbox := (t.ctx u).outbox } ∧
      (scopeLevel sc = none → t.orders = s.orders ∧ (t.ctx u).view = c.view ∧ (t.ctx u).outbox = c.outbox) ∧
      (∀ L, scopeLevel sc = some L →
        (ord ≠ .acq → Published s t u L) ∧
        (ord ≠ .rel → Acquired t u L) ∧
        (ord = .sc → ∃ l m, t.order (domainOf c.core L) = l ++ [m] ∧ m.n = 0) ∧
        (ord = .acq → t.orders = s.orders ∧ (t.ctx u).outbox = c.outbox) ∧
        ∀ j, c.view.at j ≤ (t.ctx u).view.at j))

/-- R189 and R198: QADV.H takes k consumed slots off a handle's head, QADV.T puts k filled slots at its tail, at the end of the
cycle; a count above 256, more slots than are filled or free, or past the occupancy takes the queue trap. -/
def Sys2Proof.Claim.RingHandlesAdvance : Prop :=
  ∀ (g : BitVec 3) (q : BitVec 4) (k : QCnt) (s : State), s.Runs g →
    let h := s.me.qh q.toNat
    let n := match k with | .imm v => v.toNat | .reg r => (s.me.s r).toNat
    let room := h.count - h.fill
    let traps (i : Instr) (code cause : Nat) : Prop := ∃ t, exec i s = .next t ∧ Trapped s t code cause 0 0
    let hd : Instr := .qadvH g q k
    let tl : Instr := .qadvT g q k
    let moved (P : QHandle → QHandle → Prop) (c d : Ctx) : Prop := P (c.qh q.toNat) (d.qh q.toNat) ∧
      (∀ m, m ≠ q.toNat → d.qh m = c.qh m) ∧ RegsSame c d
    (h.count = 0 → traps hd 0x01 0x09 ∧ traps tl 0x01 0x09) ∧
    (h.count ≠ 0 → (256 < n ∨ h.fill < n → traps hd 0x0E 0x03) ∧ (256 < n ∨ room < n → traps tl 0x0E 0x03) ∧
      (n ≤ 256 → n ≤ room → h.occ < h.fill + n → traps tl 0x0E 0x02) ∧
      (n ≤ 256 → n ≤ h.fill → WritesAtEnd hd s (.qadv q.toNat false n) (moved (fun a b =>
        b = { a with head := (a.head + n) % a.count, fill := a.fill - n }))) ∧
      (n ≤ 256 → n ≤ room → h.fill + n ≤ h.occ → WritesAtEnd tl s (.qadv q.toNat true n) (moved (fun a b =>
        b = { a with tail := (a.tail + n) % a.count, fill := a.fill + n }))))

/-- R192 and R199 to R201 with R107 step 7: TWAIT goes on when every tag of its mask is set, TWANY when one is, and raises the
view to those of the commands whose tags it observes; a mask with an idle tag (TWAIT), or with idle tags only (TWANY), takes the
queue trap with cause 0x04; otherwise the context waits and TAG_WAIT_COMPLETE ends the wait. TFIND writes the record of the lowest
set tag with its number, or 64; TCLR makes the set tags of its mask idle. -/
def Sys2Proof.Claim.TagsAreWaitedFoundAndCleared : Prop :=
  ∀ (g : BitVec 3) (sd sa : BitVec 6) (s : State), s.Runs g →
    let c := s.me
    let m := c.s sa
    let has (x : BitVec 64) (j : Nat) : Prop := x.getLsbD j = true
    let isSet (x : Ctx) (w : BitVec 64) (j : Nat) : Prop := j < 64 ∧ has w j ∧ has x.tagSet j
    let idle (j : Nat) : Prop := j < 64 ∧ has m j ∧ ¬ has c.tagSet j ∧ ¬ has c.tagPend j
    let all (x : Ctx) (w : BitVec 64) : Prop := ∀ j, j < 64 → has w j → has x.tagSet j
    let one (x : Ctx) (w : BitVec 64) : Prop := w = 0#64 ∨ ∃ j, isSet x w j
    let sees (x y : Ctx) (w : BitVec 64) : Prop := y = { x with view := y.view } ∧ (∀ l, x.view.at l ≤ y.view.at l) ∧
      ∀ j v, (j, v) ∈ x.tagView → isSet x w j → ∀ l, v.at l ≤ y.view.at l
    let observes (i : Instr) : Prop := ∃ t, exec i s = .next t ∧ sees c t.me m ∧ t = s.withMe t.me
    let waits (i : Instr) (any : Bool) : Prop := exec i s = .next (s.withMe { c with pend := .twait any m })
    let traps (i : Instr) : Prop := ∃ t, exec i s = .next t ∧ Trapped s t 0x0E 0x04 0 0
    let bad : Prop := ∀ j, j < 64 → has m j → idle j
    ((∃ j, idle j) → traps (.twait g sa)) ∧
    ((∀ j, ¬ idle j) → (all c m → observes (.twait g sa)) ∧ (¬ all c m → waits (.twait g sa) false)) ∧
    (m ≠ 0#64 → bad → traps (.twany g sa)) ∧
    ((m = 0#64 ∨ ¬ bad) → (one c m → observes (.twany g sa)) ∧ (¬ one c m → waits (.twany g sa) true)) ∧
    (∀ (t : State) (u : Nat) (any : Bool) (w : BitVec 64), (t.ctx u).pend = .twait any w → (t.ctx u).life = .running →
      (t.ctx u).resumeAt ≤ t.cycle → (if any then one (t.ctx u) w else all (t.ctx u) w) →
      ∃ r y, exec (.tagWaitComplete u) t = .next r ∧ sees (t.ctx u) y w ∧ OthersSame u t r ∧ MemSame t r ∧
        r.ctx u = { y with pend := .none, readyAt := max y.readyAt (t.cycle + 1) }) ∧
    (∀ j, isSet c m j → (∀ l, l < j → ¬ isSet c m l) → ∃ t y, exec (.tfind g sd sa) s = .next t ∧ sees c y (1#64 <<< j) ∧
      t = (s.withMe y).plusS sd ((mget 0#64 c.tagRec j) / 256#64 * 256#64 + BitVec.ofNat 64 j)) ∧
    ((∀ j, ¬ isSet c m j) → WritesS (.tfind g sd sa) s s 1 sd 64#64) ∧
    (∃ t, exec (.tclr g sa) s = .next t ∧ t = s.withMe t.me ∧
      t.me = { c with tagSet := t.me.tagSet, tagRec := t.me.tagRec, tagView := t.me.tagView } ∧
      ∀ j, j < 64 → (has t.me.tagSet j ↔ has c.tagSet j ∧ ¬ has m j) ∧
        mget 0#64 t.me.tagRec j = if m.getLsbD j && c.tagSet.getLsbD j then 0#64 else mget 0#64 c.tagRec j)

/-- `Claim.RingHandlesAdvance` and `Claim.TagsAreWaitedFoundAndCleared`. -/
def Obligations.RingsAndTagsAdvance : Prop :=
  Sys2Proof.Claim.RingHandlesAdvance ∧ Sys2Proof.Claim.TagsAreWaitedFoundAndCleared

/-- R296: BAR publishes at CLUSTER where that is its scope, and waits; when every context of its kernel on its core (in its
cluster) that has not exited waits at the same barrier, BAR_COMPLETE lets them go: a bound one issues from the next cycle on,
at CLUSTER after an acquire there; one that is saved goes on when it resumes. -/
def Obligations.BarriersHoldTheirContexts : Prop :=
  (∀ (g : BitVec 3) (sc : Scope) (id : BitVec 2) (s : State), s.Runs g →
    ∃ t, exec (.bar g sc id) s = .next t ∧ MemSame s t ∧ OthersSame s.cur s t ∧ t.inflight = s.inflight ∧ t.ends = s.ends ∧
      t.me = { s.me with pend := .bar sc id.toNat false, view := t.me.view, outbox := t.me.outbox } ∧
      (sc = .cluster → Published s t s.cur 0) ∧
      (sc ≠ .cluster → t = s.withMe { s.me with pend := .bar sc id.toNat false })) ∧
  (∀ (s : State) (u : Nat) (sc : Scope) (id : Nat), s.Keyed → (∃ e ∈ s.ctxs, e.1 = u) →
    let here (c : Ctx) : Prop := c.pend = .bar sc id false
    let peer (c : Ctx) : Prop := c.kernel = (s.ctx u).kernel ∧ c.life ≠ .unbound ∧
      if sc = .cluster then coreCluster c.core = coreCluster (s.ctx u).core else c.core = (s.ctx u).core
    here (s.ctx u) → peer (s.ctx u) → (∀ e ∈ s.ctxs, peer e.2 → here e.2 ∨ e.2.life = .exited) →
    (∀ e ∈ s.ctxs, (∃ a b, e.2.pend = .bar a b false) → here e.2 ∧ peer e.2) →
    ∃ t, exec .barComplete s = .next t ∧ MemSame s t ∧ t.orders = s.orders ∧ t.inflight = s.inflight ∧
      ∀ v, (here (s.ctx v) → (s.ctx v).life = .running → Resumed s t v ∧
          (if sc = .cluster then Acquired t v 0 else (t.ctx v).view = (s.ctx v).view)) ∧
        (here (s.ctx v) → (s.ctx v).life ≠ .running → t.ctx v = { s.ctx v with pend := .bar sc id true }) ∧
        (¬ here (s.ctx v) → t.ctx v = s.ctx v))

/-- R110 and R323: SIGNAL publishes at its scope and sends its update to the word's home; a refused word marks the kernel failed
and is reported to the host. SIGNAL_UPDATE adds to the word modulo 2^64 or stores it, as one write of the system commit point
that the next read of the word finds: that the home of a word is the latest write of that point is the model's reading (log 19).
A SIGNAL at SYS blocks its bundle while a remote write of its outbox stands in a link queue (R411; that the bundle waits at issue is the
model's reading, log 16). -/
def Sys2Proof.Claim.SignalsReachTheirHome : Prop :=
  (∀ (g : BitVec 3) (sc : Scope) (sa sb : BitVec 6) (add : Bool) (s : State), s.Runs g →
    let i : Instr := if add then .signalAdd g sc sa sb else .signalStore g sc sa sb
    let p := s.publishCtx s.cur sc
    let same (t : State) : Prop := t.ctxs = p.ctxs ∧ t.orders = p.orders ∧ t.inflight = s.inflight ∧ t.ends = s.ends ∧ MemSame s t
    let held : Prop := sc = .sys ∧ s.undelivered s.me.outbox = true
    (∀ L, scopeLevel sc = some L → Published s p s.cur L ∧ OthersSame s.cur s p) ∧
    (scopeLevel sc = none → p = s) ∧
    (held → exec i s = .next s.block) ∧
    (¬ held → ∀ loc, p.signalHome s.me.kernel s.me.core (if add then .add else .store) (s.me.s sa) = some loc →
      ∃ t x, exec i s = .next t ∧ same t ∧ t.sigs = s.sigs ++ [x] ∧ x.ctx = s.cur ∧ x.loc = loc ∧ x.add = add ∧
        x.val = s.me.s sb ∧ s.cycle < x.due ∧ t.kernels = s.kernels ∧ t.reports = s.reports) ∧
    (¬ held → p.signalHome s.me.kernel s.me.core (if add then .add else .store) (s.me.s sa) = none →
      ∃ t, exec i s = .next t ∧ same t ∧ t.sigs = s.sigs ∧ (t.kernel s.me.kernel).failed = true ∧
        (∀ k, k ≠ s.me.kernel → t.kernel k = s.kernel k) ∧ t.reports = s.reports ++ [.signal s.cur (s.me.s sa)])) ∧
  (∀ (s : State) (id : Nat) (x : Sig), s.sigs.find? (fun y => y.id == id) = some x →
    (∀ y ∈ s.sigs, y.ctx = x.ctx → y.loc = x.loc → x.id ≤ y.id) →
    let v := if x.add then (s.homeValue x.loc + x.val.toNat) % 2 ^ 64 else x.val.toNat
    ∃ t w, exec (.signalUpdate id) s = .next t ∧ t.sigs = s.sigs.filter (fun y => y.id != id) ∧
      t.order 131 = s.order 131 ++ [w] ∧ w.loc = x.loc ∧ w.n = 8 ∧ w.val = v ∧ (∀ d, d ≠ 131 → t.order d = s.order d) ∧
      t.ctxs = s.ctxs ∧ MemSame s t ∧ (s.deadChs = [] → t.homeValue x.loc = v))

/-- R324: SWAIT on an allowed word waits; it ends with SD ← 0 after an acquire at its scope once the word is at least S[SB], or
with SD ← 1 and no acquire once its tick limit has passed; a refused word writes SD ← 2 at once. The word is read at its home (log
19). -/
def Sys2Proof.Claim.SignalWaitsEnd : Prop :=
  (∀ (g : BitVec 3) (sc : Scope) (sd sa sb : BitVec 6) (ticks : BitVec 26) (s : State), s.Runs g →
    (s.signalHome s.me.kernel s.me.core .wait (s.me.s sa) ≠ none → ∃ t at_, exec (.swait g sc sd sa sb ticks) s = .next t ∧
      s.cycle ≤ at_ ∧ t.me = { s.me with pend := .swait sc sd (s.me.s sa) (s.me.s sb) ticks.toNat s.scht at_ } ∧
      MemSame s t ∧ OthersSame s.cur s t ∧ t.inflight = s.inflight ∧ t.ends = s.ends ∧ t.orders = s.orders) ∧
    (s.signalHome s.me.kernel s.me.core .wait (s.me.s sa) = none → WritesS (.swait g sc sd sa sb ticks) s s 1 sd 2#64)) ∧
  (∀ (s : State) (u : Nat) (sc : Scope) (sd : BitVec 6) (w v : BitVec 64) (ticks start at_ : Nat),
    (s.ctx u).pend = .swait sc sd w v ticks start at_ → Live s u →
    let home := s.signalHome (s.ctx u).kernel (s.ctx u).core .wait w
    let ended (t : State) (n : BitVec 64) : Prop := Resumed s t u ∧ MemSame s t ∧ OthersSame u s t ∧ t.orders = s.orders ∧
      t.inflight = s.inflight ++ [{ ctx := u, due := s.cycle + 1, issued := s.cycle, slot := 7, val := .s sd n, flags := 0#7 }]
    (at_ ≤ s.cycle → (∃ loc, home = some loc ∧ v.toNat ≤ s.homeValue loc) →
      ∃ t, exec (.swaitComplete u) s = .next t ∧ ended t 0#64 ∧ ∀ L, scopeLevel sc = some L → Acquired t u L) ∧
    ((∃ loc, home = some loc ∧ s.homeValue loc < v.toNat) → exec (.swaitComplete u) s = .next s) ∧
    (ticks ≠ 0 → start + ticks ≤ s.scht →
      ∃ t, exec (.swaitTimeout u) s = .next t ∧ ended t 1#64 ∧ (t.ctx u).view = (s.ctx u).view))

/-- R322, R387 and R207: LAUNCH publishes at SYS and, while the kernel has launched fewer than its declared children, puts the
child in the pool and writes its number; past them it writes 0 and marks the launch overflow. It blocks its bundle while a remote write
of its outbox stands in a link queue (R411; that it waits at issue is the model's reading, log 16). EXPOSE ORs bits 2 and 0 into OVF and NAN of the kernel's
exposure register; that it does nothing where no register is bound, which no admitted kernel shows, is the model's. YIELD sets the
context's yield flag at the end of the cycle. -/
def Obligations.ChildrenExposureAndYield : Prop :=
  ∀ (g : BitVec 3) (sd sa : BitVec 6) (s : State), s.Runs g →
    let p := s.publishCtx s.cur .sys
    let k := s.kernel s.me.kernel
    let gives (t : State) (n : BitVec 64) : Prop := t.ctxs = p.ctxs ∧ t.orders = p.orders ∧ MemSame s t ∧
      t.inflight = s.inflight ++ [s.result 1 (.s sd n) 0#7] ∧ Published s t s.cur 3 ∧ OthersSame s.cur s t ∧
      ∀ j, j ≠ s.me.kernel → t.kernel j = s.kernel j
    let held : Prop := s.undelivered s.me.outbox = true
    (held → exec (.launch g sd sa) s = .next s.block) ∧
    (¬ held → k.launched < k.children → ∃ t x, exec (.launch g sd sa) s = .next t ∧ gives t (BitVec.ofNat 64 (k.launched + 1)) ∧
      t.kernel s.me.kernel = { k with launched := k.launched + 1 } ∧ t.pool = s.pool ++ [x] ∧
      x.parent = s.me.kernel ∧ x.num = k.launched + 1 ∧ x.word = s.me.s sa) ∧
    (¬ held → k.children ≤ k.launched → ∃ t, exec (.launch g sd sa) s = .next t ∧ gives t 0#64 ∧
      t.kernel s.me.kernel = { k with lovf := true } ∧ t.pool = s.pool) ∧
    (∀ x, k.expo = some x → ∃ t, exec (.expose g sa) s = .next t ∧
      let e := mget {} s.expos x
      t = { s with expos := t.expos } ∧ (∀ y, y ≠ x → mget {} t.expos y = mget {} s.expos y) ∧
      mget {} t.expos x = { e with ovf := e.ovf || (s.me.s sa).getLsbD 2, nan := e.nan || (s.me.s sa).getLsbD 0 }) ∧
    (k.expo = none → exec (.expose g sa) s = .next s) ∧
    WritesAtEnd (.yield g) s .yield (fun c d => d = { c with yielded := true })

/-- `Claim.SignalsReachTheirHome` and `Claim.SignalWaitsEnd`. -/
def Obligations.SignalsReachTheirHomeAndEndWaits : Prop :=
  Sys2Proof.Claim.SignalsReachTheirHome ∧ Sys2Proof.Claim.SignalWaitsEnd

/-! ### Steps of the core -/

/-- R7, R36, R62 and R204: at an issue stage before which nothing else is due, with one context that may issue and whose next
bundle, of one slot instruction, stands in its fetch queue, the step is that instruction's exec in the state that names its bundle
and slot; the bundle then ends. Where the slot traps, the trap is taken and nothing else happens; where it blocks, nothing happens;
where it names a lent bank, a wait of it comes before its trap (R424). A micro-word that is due is stepped on its core. -/
def Obligations.AStepRunsTheDecodedInstruction : Prop :=
  (∀ (s : State) (u : Nat) (c : Ctx) (line : FLine) (w : Nat) (h : Header) (sl : Slot) (i : Instr) (t : State),
    s.issued = false → firstDue beforeIssue s = none → s.ctxs = [(u, c)] → Live s u → c.readyAt ≤ s.cycle → c.pend = .none →
    c.hdrRead = none → c.loop = none → c.fq = [line] → line.outside = false → line.bad = false → c.pc % 4 = 0 → c.pc < 2 ^ 64 →
    line.base = c.pc / 256 * 256 →
    c.pc % 256 + h.len ≤ 256 → h = headerRaw (line.data / 256 ^ (c.pc % 256) % 2 ^ 32) →
    w = line.data / 256 ^ (c.pc % 256) % 256 ^ h.len → decodeBundle w = .ok ⟨h, [(sl, i)]⟩ → i.guard ≠ none →
    let r := s.setIssue u ⟨h, [(sl, i)]⟩
    let r' : State := { r with iss := { r.iss with slot := sl.code } }
    exec i r' = .next t →
    (t.iss.trapped = none → t.iss.blocked = false →
      step s = .next { (t.afterBundle u c w ⟨h, [(sl, i)]⟩).clearIssue with issued := true }) ∧
    let lent (x : TrapInfo) : Prop := x.code = 0x06 ∧ x.cause = 0x02
    (∀ x, t.iss.trapped = some x → lent x → r'.unlent i = none → step s = .next { s with issued := true }) ∧
    (∀ x, t.iss.trapped = some x → (lent x → r'.unlent i ≠ none) → step s = .next
      { s.takeTrap u x c.pc (if x.code = 0x0B then (c.pc + h.len) % 2 ^ 64 else c.pc) with issued := true }) ∧
    (t.iss.trapped = none → t.iss.blocked = true → t.iss.mread = none → step s = .next { s with issued := true })) ∧
  (∀ (s : State) (k : Nat) (x : Core) (r : Routine) (i : Instr), s.issued = false → firstDue (beforeIssue.take 5) s = none →
    s.cores = [(k, x)] → x.routine = some r → r.at_ ≤ s.cycle → r.pc < r.len →
    decodeMicro (mget 0#32 (s.cluster (coreCluster k)).store ((r.start + r.pc) % 2048)).toNat = .ok i →
    step s = exec i { s with rcore := k })

/-- R63, R204 and R205: of two contexts of a core that could issue, the one that ranks first issues: one that has waited 60 cycles
or more before one that has not, the longer wait first, then one that has not yielded before one that has, then the lower number.
The other issues in the same cycle where the bundles share no slot and no bank and neither is SOLO, and otherwise waits one cycle
more. -/
def Sys2Proof.Claim.ContextsShareTheIssueStage : Prop :=
  ∀ (s : State) (core u v : Nat) (cu cv : Ctx) (a b : State) (mu mv : BitVec 8) (su sv : Bool) (bu bv : List Nat),
    s.ctxs = [(u, cu), (v, cv)] → u ≠ v → cu.core = core → cv.core = core → cu.hw < cv.hw → cu.wait < 2 ^ 64 → cv.wait < 2 ^ 64 →
    s.plan u = .issues a mu su bu → s.plan v = .issues b mv sv bv →
    let clash : Prop := (mu &&& mv) ≠ 0#8 ∨ su = true ∨ sv = true ∨ ∃ x, x ∈ bu ∧ x ∈ bv
    let first : Prop := if cu.wait < 60 ∧ cv.wait < 60 then ¬ (cu.yielded = true ∧ cv.yielded = false) else cv.wait ≤ cu.wait
    let waits (t : State) (x : Nat) : State := t.setCtx x { t.ctx x with wait := (t.ctx x).wait + 1 }
    (clash → first → exec .bundleIssue s = .next { waits a v with issued := true }) ∧
    (clash → ¬ first → exec .bundleIssue s = .next { waits b u with issued := true }) ∧
    (¬ clash → first → ∀ t m so l, a.plan v = .issues t m so l → exec .bundleIssue s = .next { t with issued := true }) ∧
    (¬ clash → ¬ first → ∀ t m so l, b.plan u = .issues t m so l → exec .bundleIssue s = .next { t with issued := true })

/-- R208 and R212 to R217: the results of a stopped context go to its contact sheet, with the cycles to come and the age they
have at F, and it keeps its registers; bound again from Z, each entry is written at the end of cycle Z + OFF or later, the
younger of two after the older, and before the results of that cycle (R124); its flags are ORed at the end of the cycle. -/
def Obligations.StoppedResultsWaitOnTheSheet : Prop :=
  (∀ (s : State) (r : Res), s.ends = [] → s.inflight = [r] → r.due ≤ s.cycle → r.isLatch = false →
    ((s.ctx r.ctx).life = .frozen ∨ (s.ctx r.ctx).life = .trapped) →
    let c := s.ctx r.ctx
    ∃ t, exec .resultWriteback s = .next t ∧ t.inflight = [] ∧ MemSame s t ∧ OthersSame r.ctx s t ∧
      t.ctx r.ctx = { c with sheet := c.sheet ++ [{ off := r.due - c.frozenAt, age := c.frozenAt - r.issued, slot := r.slot,
                                                    val := r.val, flags := r.flags }] }) ∧
  (∀ (s : State) (u : Nat) (e f : SheetEntry) (n : BitVec 6) (x y : BitVec 64), s.issued = true → Live s u →
    (∀ v, v ≠ u → (s.ctx v).sheet = []) → e.val = .s n x → f.val = .s n y → (e.age < f.age ∨ (e.age = f.age ∧ f.slot < e.slot)) →
    ((s.ctx u).sheet = [e, f] ∨ (s.ctx u).sheet = [f, e]) →
    (s.ctx u).resumeAt + e.off ≤ s.cycle → (s.ctx u).resumeAt + f.off ≤ s.cycle →
    ∃ t, exec .contactSheetReplay s = .next t ∧ MemSame s t ∧ OthersSame u s t ∧ (t.ctx u).sheet = [] ∧
      (∀ m, (t.ctx u).s m = if m = 0#6 then 0#64 else if m = n then x else (s.ctx u).s m) ∧
      t.ends = s.ends ++ [(u, f.slot, .flags f.flags), (u, e.slot, .flags e.flags)] ∧ (t.ctx u).fpstat = (s.ctx u).fpstat ∧
      t.inflight = s.inflight ∧ (t.ctx u).v = (s.ctx u).v ∧ (t.ctx u).ar = (s.ctx u).ar) ∧
  (∀ (s : State) (u : Nat) (e : SheetEntry) (n : Nat) (val mask : BitVec 4096) (ty : ETy), s.issued = true → Live s u →
    (∀ v, v ≠ u → (s.ctx v).sheet = []) → e.val = .v n val mask ty → (s.ctx u).sheet = [e] →
    ((s.ctx u).resumeAt + e.off ≤ s.cycle → ∃ t, exec .contactSheetReplay s = .next t ∧ MemSame s t ∧ OthersSame u s t ∧
      (t.ctx u).sheet = [] ∧ (t.ctx u).sr = (s.ctx u).sr ∧ t.ends = s.ends ++ [(u, e.slot, .flags e.flags)] ∧
      (t.ctx u).fpstat = (s.ctx u).fpstat ∧ t.inflight = s.inflight ∧
      ∀ m j, j < 4096 → (mget 0#4096 (t.ctx u).v m).getLsbD j =
        if m = n ∧ mask.getLsbD j = true then val.getLsbD j else (mget 0#4096 (s.ctx u).v m).getLsbD j) ∧
    (s.cycle < (s.ctx u).resumeAt + e.off → exec .contactSheetReplay s = .next s))

/-- R174 and R177: FETCH_LINE_ARRIVAL puts the next line of 256 bytes at the end of a queue of fewer than four, the line of the
PC where it is empty: its bytes as a DEVICE read finds them through the X windows of its kernel, or the mark that no window holds
it. -/
def Sys2Proof.Claim.FetchLinesArriveInOrder : Prop :=
  ∀ (s : State) (u a : Nat), (s.ctx u).life = .running → (s.ctx u).resumeAt ≤ s.cycle + 1 → (s.ctx u).fetchAt ≤ s.cycle →
    let c := s.ctx u
    (c.fq.length = 4 → exec (.fetchLineArrival u) s = .next s) ∧
    (c.fq.length < 4 → (c.fq = [] → a = c.pc / 256 * 256) → (∀ l, c.fq.getLast? = some l → a = (l.base + 256) % 2 ^ 64) →
      ∃ t l, exec (.fetchLineArrival u) s = .next t ∧ t.ctx u = { c with fq := c.fq ++ [l], fetchAt := (t.ctx u).fetchAt } ∧
        s.cycle < (t.ctx u).fetchAt ∧ l.base = a ∧ MemSame s t ∧ OthersSame u s t ∧ t.orders = s.orders ∧
        (windowPa (s.kernel c.kernel).windows 0 a = none → l.outside = true) ∧
        (∀ pa, windowPa (s.kernel c.kernel).windows 0 a = some pa → l.outside = false ∧ l.data = s.readPa pa 256))

/-- R268 and R283: a routine that has run 16,384 cycles past its MRUN stops, and MSTAT will hold cause 0x06 and the word that acted
last (that word under the time limit is log 30); a routine fault traps its context once it could issue, at the bundle that would issue
next, slot 15, with the word in INFO. -/
def Sys2Proof.Claim.MatrixFaultsTrapTheirContext : Prop :=
  (∀ (s : State) (k : Nat) (r : Routine), (s.core k).routine = some r → r.issued + 16385 ≤ s.cycle →
    (∀ e ∈ s.cores, e.1 ≠ k → ∀ q, e.2.routine = some q → s.cycle < q.issued + 16385) →
    let c := s.ctx r.ctx
    ∃ t, exec .routineTimeLimit s = .next t ∧ (t.core k).routine = none ∧ s.cycle < (t.core k).mbusy ∧ MemSame s t ∧
      OthersSame r.ctx s t ∧ t.ends = s.ends ++ [(r.ctx, 3, .fault 0x06 r.last)] ∧
      t.ctx r.ctx = if c.life = .exited then c else { c with rfault := some (0x0D, 0x06, r.last, s.cycle) }) ∧
  (∀ (s : State) (u code cause word at_ : Nat), (s.ctx u).rfault = some (code, cause, word, at_) → at_ < s.cycle → Live s u →
    (∀ e ∈ s.ctxs, e.1 ≠ u → (s.ctx e.1).rfault = none) → (s.ctx u).readyAt ≤ s.cycle → (s.ctx u).pend = .none →
    (s.ctx u).hdrRead = none →
    let c := s.ctx u
    let x : TrapInfo := { code := code, cause := cause, slot := 15, info := if code = 0x0D then word else 0, addr := 0 }
    ∃ t, exec .matrixRoutineTrap s = .next t ∧ (t.ctx u).life = .trapped ∧ (t.ctx u).trap = some x ∧ (t.ctx u).trapPc = c.pc ∧
      (t.ctx u).resumePc = c.pc ∧ (t.ctx u).rfault = none ∧ RegsSame c (t.ctx u) ∧ OthersSame u s t ∧ MemSame s t ∧
      (t.kernel c.kernel).trapped = true)

/-- R223 and R225: above 49,152 bytes of top a move of up to 512 bytes takes the oldest bytes of the top to the spill area, below
16,384 bytes it brings the youngest bytes of the area back under the top, whatever the area holds; depth stays. -/
def Sys2Proof.Claim.SpoilBytesMoveBetweenTopAndArea : Prop :=
  ∀ (s : State) (u from_ : Nat) (spill : Bool), (∃ c, s.ctxs = [(u, c)]) → Live s u → from_ ≤ s.cycle →
    let c := s.ctx u
    let p := c.sp
    let area := 512 * (p.lim - p.base)
    let at_ (o : Nat) : Nat := unitLoc c.core p.bank (512 * p.base + o)
    p.move = some (spill, from_) → p.bank ∉ s.usedBanks c.core → p.bank ∉ s.feedBanks c.core →
    mget 0 (s.core c.core).engAt p.bank ≤ s.cycle → p.pay = [] →
    (spill = true → 49152 < p.depth - p.spill → p.spill < area →
      let n := min 512 (area - p.spill)
      ∃ t, exec .spoilSpill s = .next t ∧ t.ctx u = { c with sp := { p with spill := p.spill + n, top := p.top / 256 ^ n } } ∧
        (∀ j, j < n → readByte t.mem (at_ (p.spill + j)) = BitVec.ofNat 8 (p.top / 256 ^ j)) ∧
        ∀ a, (∀ j, j < n → a ≠ at_ (p.spill + j)) → readByte t.mem a = readByte s.mem a) ∧
    (spill = false → p.depth - p.spill < 16384 → 0 < p.spill →
      let n := min 512 p.spill
      ∃ t v, exec .spoilRefill s = .next t ∧ MemSame s t ∧ v < 256 ^ n ∧
        t.ctx u = { c with sp := { p with spill := p.spill - n, top := p.top * 256 ^ n + v } } ∧
        ∀ j, j < n → v / 256 ^ j % 256 = (readByte s.mem (at_ (p.spill - n + j))).toNat)

/-- R101 and R102: COMMIT_PROPAGATE appends to the enclosing commit point the oldest write of a commit point that it does not
hold, and no more; VIEW_ADVANCE moves one level of a party's view forward to a position, never past the end of that order and
never back. -/
def Obligations.CommitPointsKeepTheirOrder : Prop :=
  (∀ (s : State) (d : Nat), d < 131 →
    let up := domainParent d
    let lacks (w : Wr) : Prop := w.n ≠ 0 ∧ ∀ x ∈ s.order up, x.id ≠ w.id
    ((∀ w ∈ s.order d, ¬ lacks w) → exec (.commitPropagate d) s = .next s) ∧
    (∀ l w rest, s.order d = l ++ w :: rest → (∀ x ∈ l, ¬ lacks x) → lacks w →
      ∃ t, exec (.commitPropagate d) s = .next t ∧ t.order up = s.order up ++ [w] ∧ (∀ e, e ≠ up → t.order e = s.order e) ∧
        t = { s with orders := t.orders })) ∧
  (∀ (s : State) (u : Nat) (sc : Scope) (L pos : Nat), scopeLevel sc = some L → (s.ctx u).life ≠ .unbound →
    let c := s.ctx u
    let n := (s.order (domainOf c.core L)).length
    ∃ t v, exec (.viewAdvance (.ctx u) sc pos) s = .next t ∧ t = s.setCtx u { c with view := v } ∧
      v.at L = max (c.view.at L) (min pos n) ∧ ∀ j, j < 4 → j ≠ L → v.at j = c.view.at j) ∧
  (∀ (s : State) (c : Cmd) (sc : Scope) (L pos : Nat), scopeLevel sc = some L → s.cmd? c.id = some c →
    ∃ t v, exec (.viewAdvance (.cmd c.id) sc pos) s = .next t ∧ t = s.setCmd { c with view := v } ∧
      v.at L = max (c.view.at L) (min pos (s.order (domainOf c.core L)).length) ∧ ∀ j, j < 4 → j ≠ L → v.at j = c.view.at j)

/-- `Claim.ContextsShareTheIssueStage` and `Claim.FetchLinesArriveInOrder`. -/
def Obligations.ContextsShareIssueAndFetch : Prop :=
  Sys2Proof.Claim.ContextsShareTheIssueStage ∧ Sys2Proof.Claim.FetchLinesArriveInOrder

/-- `Claim.MatrixFaultsTrapTheirContext` and `Claim.SpoilBytesMoveBetweenTopAndArea`. -/
def Obligations.MatrixFaultsTrapAndSpoilBytesMove : Prop :=
  Sys2Proof.Claim.MatrixFaultsTrapTheirContext ∧ Sys2Proof.Claim.SpoilBytesMoveBetweenTopAndArea

/-! ### Pre-emption and benches -/

/-- R116, R207, R211 to R217 and R388: a request asks for a freeze at the next cycle, or after the context's routine; at F the
context stops, its fetch queue, its yield flag and the read of an MPLOAD cleared, its registers as they were; after the drain of 12
cycles its release gives its V registers the save slot, writes its state record and frees its hardware context, whether or not its
routine runs on; from Z a saved context issues again with what its save slot and its record in memory hold: registers at the places
of R215, and the PC, the GAP it had left and its contact sheet as the record's areas at 0x3350 and 0x13400 give them (log 10). A
queue's higher priority asks for the freeze of its victim. That the record is written in the step of the release, the cycle of that
step, and which context is the victim are the model's choices (log 40). -/
def Obligations.ContextsFreezeAndResume : Prop :=
  (∀ (s : State) (u : Nat), Live s u → (s.ctx u).pre = .none →
    (∀ e ∈ s.ctxs, e.1 ≠ u → e.2.core = (s.ctx u).core →
      ¬ (e.2.life = .frozen ∧ e.2.released = false ∧ e.2.lost = false) ∧ ¬ (e.2.life = .running ∧ e.2.pre ≠ .none)) →
    let p : PreReq := if s.runsRoutine u then .afterRoutine else .at_ (s.cycle + 1)
    let asks (t : State) : Prop := t = s.setCtx u { s.ctx u with pre := p }
    (∃ t, exec (.preemptRequest u) s = .next t ∧ asks t) ∧
    (∀ q, s.wantsContexts q = true → s.victim q = some u → ∃ t, exec (.priorityPreemption q) s = .next t ∧ asks t)) ∧
  (∀ (s : State) (u f : Nat), Live s u → s.issued = false → (s.ctx u).pre = .at_ f → f ≤ s.cycle → (s.ctx u).doomed = false →
    (∀ sc ord a, (s.ctx u).pend ≠ .fence sc ord a) → (s.ctx u).hdrRead = none →
    let c := s.ctx u
    ∃ t, exec (.contextFreeze u) s = .next t ∧ MemSame s t ∧ OthersSame u s t ∧ t.inflight = s.inflight ∧ t.orders = s.orders ∧
      (t.ctx u).life = .frozen ∧ (t.ctx u).frozenAt = s.cycle ∧ (t.ctx u).pc = c.pc ∧ (t.ctx u).fq = [] ∧
      (t.ctx u).yielded = false ∧ (t.ctx u).pre = .none ∧ (t.ctx u).mread = none ∧ (t.ctx u).gapLeft = c.readyAt - s.cycle ∧
      (t.ctx u).pend = c.pend ∧
      (t.ctx u).released = false ∧ s.cycle + 12 ≤ (t.ctx u).releaseAt ∧ RegsSame c (t.ctx u) ∧ (c.sheet = [] → (t.ctx u).sheet = [])) ∧
  (∀ (s : State) (u : Nat), (s.ctx u).life = .frozen ∨ (s.ctx u).life = .trapped → (s.ctx u).released = false →
    (s.ctx u).lost = false → (s.ctx u).releaseAt ≤ s.cycle → (s.ctx u).frozenAt + 12 ≤ s.cycle →
    let c := s.ctx u
    let pa := (s.kernel c.kernel).saveArea + 1280 * 1024 * c.worker
    ∃ t, exec (.resourceRelease u) s = .next t ∧ MemSame s t ∧ OthersSame u s t ∧ t.occupies u = false ∧
      t.ctx u = { c with released := true, outbox := (t.ctx u).outbox } ∧ mget none t.evicted c.core = some (u, c.v) ∧
      (∀ x, c.life = .trapped → c.trap = some x → t.reports = s.reports ++ [.trap u x] ∧
        let k := s.kernel c.kernel
        (s.deadChs = [] → ∀ loc, paLoc s.ncc (k.trapArea + 32 * c.worker) = some loc →
          ∃ w ∈ t.order 131, w.loc = loc ∧ w.n = 32 ∧ w.val % 2 ^ 256 =
            (x.info % 2 ^ 32 * 2 ^ 32 + k.kid % 2 ^ 12 * 2 ^ 20 + x.slot % 2 ^ 4 * 2 ^ 16 + x.cause % 2 ^ 8 * 2 ^ 8 + x.code % 2 ^ 8) +
              c.trapPc % 2 ^ 64 * 2 ^ 64 + c.resumePc % 2 ^ 64 * 2 ^ 128 + x.addr % 2 ^ 64 * 2 ^ 192)) ∧
      (c.life = .frozen → t.reports = s.reports) ∧
      (s.deadChs = [] → pa % 4096 = 0 →
        (∀ loc, paLoc s.ncc pa = some loc → ∃ w ∈ t.order 131, w.loc = loc ∧ w.n = 512 ∧
          ∀ i, i < 64 → w.val / 2 ^ (64 * i) % 2 ^ 64 = (c.s (BitVec.ofNat 6 i)).toNat) ∧
        (∀ loc, paLoc s.ncc (pa + 0x3140) = some loc → ∃ w ∈ t.order 131, w.loc = loc ∧ w.n = 16 ∧
          ∀ i, i < 64 → w.val / 4 ^ i % 4 = if c.tagSet.getLsbD i then 2 else if c.tagPend.getLsbD i then 1 else 0))) ∧
  (∀ (s : State) (u z : Nat), (s.ctx u).life = .frozen → s.canResume u = true → s.cycle < z →
    let c := s.ctx u
    let rd := s.recordBytes u
    let word (at_ w i : Nat) : Nat := rd at_ (w * 16) / 2 ^ (8 * w * i) % 2 ^ (8 * w)
    let slot := mget none s.evicted c.core
    ∃ t, exec (.contextResume u z) s = .next t ∧ MemSame s t ∧ OthersSame u s t ∧
      let d := t.ctx u
      d.life = .running ∧ d.resumeAt = z ∧ d.released = false ∧ d.core = c.core ∧ d.kernel = c.kernel ∧
      d.pc = (c.restored rd).pc ∧ d.readyAt = z + (c.restored rd).gapLeft ∧ d.sheet = (c.restored rd).sheet ∧
      (∀ n : BitVec 6, n ≠ 0#6 → (d.s n).toNat = rd 0 512 / 2 ^ (64 * n.toNat) % 2 ^ 64) ∧
      (∀ n : BitVec 4, (d.a n).toNat = word 0x200 8 n.toNat % 2 ^ 32) ∧
      (∀ n : BitVec 4, n ≠ 0#4 → (d.mask n).toNat = word 0x280 128 n.toNat) ∧
      (∀ n, n < 8 → (d.mpr n).toNat = rd 0xF80 64 / 2 ^ (64 * n) % 2 ^ 64) ∧
      d.fpcr.toNat = word 0x30C0 8 1 % 2 ^ 5 ∧ d.fpstat.toNat = word 0x30C0 8 2 % 2 ^ 7 ∧ d.seed.toNat = word 0x30C0 8 3 ∧
      d.srctr.toNat = word 0x30C0 8 4 ∧ d.wid.toNat = word 0x30C0 8 12 ∧ d.mstat.toNat = word 0x30C0 8 13 ∧
      (∀ v, slot = some (u, v) → d.v = v) ∧
      (slot.map Prod.fst ≠ some u → ∀ n, n < 2048 → (mget 0#4096 d.v n).toNat = rd 0x40000 (2 ^ 20) / 2 ^ (4096 * n) % 2 ^ 4096) ∧
      (mget none t.evicted c.core).map Prod.fst ≠ some u)

/-- R299 and R399: BENCH_FAILURE retires a bench and reports it; each context that lived there, saved ones too (log 41), is trapped
with the machine check 0x0A, cause 0x04, and its registers are lost, while its tags and pending writes stay; every other context
keeps its registers and its life. What its unit scratchpads held is lost: an engine that reads one gets, at each byte, a value that
the spec does not give (`Config.lostByte`, log 41); every other byte of memory stays. -/
def Sys2Proof.Claim.BenchesFailWithTheirContexts : Prop :=
  ∀ (s : State) (d b : Nat), d < 2 → b < 4 → (s.bench d b).retired = false → s.Keyed →
    ∃ t, exec (.benchFailure d b) s = .next t ∧ (t.bench d b).retired = true ∧ Report.retired (.bench d b) ∈ t.reports ∧
      MemSame s t ∧ (∀ d' b', b' < 4 → (d', b') ≠ (d, b) → t.bench d' b' = s.bench d' b') ∧
      (∀ core bank off n j, coreDie core = d → coreBench core = b → j < n →
        t.readPad core bank off n / 256 ^ j % 256 = (Config.lostByte (unitLoc core bank (off + j))).toNat) ∧
      ∀ u, let c := s.ctx u
        let here : Prop := coreDie c.core = d ∧ coreBench c.core = b
        (here → c.life = .running ∨ c.life = .frozen ∨ c.life = .trapped → c.lost = false →
          (t.ctx u).life = .trapped ∧ (t.ctx u).lost = true ∧ (t.ctx u).trap = some { code := 0x0A, cause := 0x04, slot := 15 } ∧
          (t.ctx u).sr = [] ∧ (t.ctx u).v = [] ∧ (t.ctx u).tagPend = c.tagPend ∧ (t.ctx u).tagSet = c.tagSet ∧
          (t.ctx u).outbox = c.outbox ∧ ∀ r ∈ t.inflight, r.ctx ≠ u) ∧
        (¬ here → RegsSame c (t.ctx u) ∧ (t.ctx u).life = c.life ∧ (t.ctx u).outbox = c.outbox)

/-- R291, R325, R326 and R401: a throttle takes the highest live bench of its die (log 41) out of folded runs and a release puts it
back; power comes on from the lowest bench that is off; the highest powered bench goes off when nothing is left on its cores, after
compaction has moved what they held, which changes no register; while a delivery is on its way to one of their contexts it stays
on. -/
def Sys2Proof.Claim.BenchesThrottleAndChangePower : Prop :=
  ∀ (s : State) (d b : Nat), d < 2 → b < 4 →
    let x := s.bench d b
    let only (t : State) (y : Bench) : Prop := t = { s with benches := t.benches } ∧ t.bench d b = y ∧
      ∀ d' b', b' < 4 → (d', b') ≠ (d, b) → t.bench d' b' = s.bench d' b'
    let live (y : Bench) : Prop := y.powered = true ∧ y.throttled = false ∧ y.retired = false
    (live x → (∀ b', b < b' → b' < 4 → ¬ live (s.bench d b')) →
      ∃ t, exec (.benchThrottle d b) s = .next t ∧ only t { x with throttled := true }) ∧
    (∃ t, exec (.throttleRelease d b) s = .next t ∧ only t { x with throttled := false }) ∧
    (x.powered = false → x.retired = false →
      (∀ b', b' < b → (s.bench d b').powered = true ∨ (s.bench d b').retired = true) →
      ∃ t, exec (.benchPowerOn d b) s = .next t ∧ only t { x with powered := true }) ∧
    (x.powered = true → (∀ b', b < b' → b' < 4 → (s.bench d b').powered = false) →
      ((∀ g, g < 64 → s.residents (256 * d + 64 * b + g) = [] ∧ s.kernelsOn (256 * d + 64 * b + g) = []) →
        ∃ t, exec (.benchPowerOff d b) s = .next t ∧ only t { x with powered := false }) ∧
      ((∃ u ∈ s.benchCtxs d b, (s.ctx u).still = false) → ∃ t, exec (.benchPowerOff d b) s = .next t ∧ t.benches = s.benches) ∧
      (∃ t, exec (.benchPowerOff d b) s = .next t ∧ ∀ u, RegsSame (s.ctx u) (t.ctx u) ∧
        (t.ctx u).life = (s.ctx u).life ∧ (t.ctx u).outbox = (s.ctx u).outbox ∧ (t.ctx u).kernel = (s.ctx u).kernel))

/-- `Claim.BenchesFailWithTheirContexts` and `Claim.BenchesThrottleAndChangePower`. -/
def Obligations.BenchesFailThrottleAndChangePower : Prop :=
  Sys2Proof.Claim.BenchesFailWithTheirContexts ∧ Sys2Proof.Claim.BenchesThrottleAndChangePower

/-! ### Copy engines and commands -/

/-- R303 to R311, R341 and R409: a cluster's copy engine starts the command at the head of its queue. A near-memory command goes to
its base die. Of any other the start makes the Acquire of its AQ (R107) and the checks of R306, in order: a bad word or base ends
it with STATUS 0x01, a tensor entry with 0x05 and its field, a limit with 0x06, an empty range with 0x00, a row past the share
with 0x07, a refused fabric word with 0x09, no live plane with 0x0C; else it runs. The rows of a CGATH are known later: at its start no
0x0B arises. A CMIG waits for the pages of its range that are not at the target and not pinned; without one it ends, with 0x08 where a
pinned one was met, and an unmapped page ends it with 0x03 and a fault record. -/
def Sys2Proof.Claim.CopyCommandsStart : Prop :=
  ∀ (s : State) (k : Nat) (c : Cmd), s.cmds = [(c.id, some c)] → c.stage = .queued → coreCluster c.core = k → c.due ≤ s.cycle →
    s.cycle % 2 = 0 → mget 0 s.ceNext k ≤ s.cycle →
    let starts (P : State → Cmd → Prop) : Prop := ∃ t c', exec (.copyCommandStart k) s = .next t ∧ t.cmd? c.id = some c' ∧
      mget 0 t.ceNext k = s.cycle + 2 ∧ t.ctxs = s.ctxs ∧ t.orders = s.orders ∧ MemSame s t ∧ P t c'
    let v := (s.acquireCmd c).view
    let ends (st det : Nat) : Prop := starts (fun _ c' => c'.stage = .performed ∧ c'.status = st ∧ c'.detail = det ∧
      c'.outbox = c.outbox ∧ c'.view = v)
    let runs : Prop := starts (fun _ c' => c' = { c with stage := .running, due := c'.due, view := v } ∧ s.cycle < c'.due)
    let w := c.ch.toNat
    let rows := w / 2 ^ 52
    let rlen := w / 2 ^ 39 % 2 ^ 13
    let mp := w / 2 ^ 14 % 2 ^ 25
    let es := w / 2 ^ 12 % 4
    let odd (i : Nat) : Prop := ∀ m base, s.memSide c (c.word i) = some (m, base) → base % 64 ≠ 0
    let past (i n len : Nat) : Prop := ∃ lo l base r, s.memSide c (c.word i) = some (.share lo l, base) ∧ r < n ∧
      l < base + 64 * mp * r + len
    let fabric (i : Nat) : Prop := ∃ lo base, s.memSide c (c.word i) = some (.remote lo, base)
    let reaches (late : Prop) : Prop := ∀ dev exp o, addrWord (c.word 0) = .fabric dev exp o →
      let bad : Prop := s.fabEn = false ∨ s.fabMax < dev ∨ dev = s.fabId
      (bad → ends 0x09 0) ∧ (¬ bad → s.livePlanes = [] → ends 0x0C dev) ∧
      (¬ bad → s.livePlanes ≠ [] → starts (fun _ c' => c'.outbox = c.outbox ∧
        c'.view = v ∧ (c'.stage = .performed ∧ (c'.status = 0x0A ∧ c'.detail = exp ∨ (late ∧ c'.status = 0x0B ∧ c'.detail = exp) ∨
            c'.status = 0x0C ∧ c'.detail = dev) ∨
          c'.stage = .running ∧ ∃ p, p ∈ s.livePlanes ∧ (c.routes = [] → c'.routes = [(dev, p)]))))
    (c.job.isNm = true → s.unitFull (s.unitOf c) = false → starts (fun _ c' => c' = { c with stage := .sent, due := c'.due })) ∧
    (∀ ld mc, c.job = .cpy ld mc →
      (odd 0 → ends 0x01 0) ∧
      (¬ odd 0 → (4096 < rlen → ends 0x06 0) ∧ (rlen ≤ 4096 → rows = 0 ∨ rlen = 0 → ends 0x00 0) ∧
        (rlen ≤ 4096 → rows ≠ 0 → rlen ≠ 0 → (past 0 rows (64 * rlen) → ends 0x07 0) ∧
          (¬ past 0 rows (64 * rlen) → ¬ fabric 0 → runs) ∧ reaches True))) ∧
    (∀ ib, c.job = .cgath ib → (odd 0 → ends 0x01 0) ∧ (¬ odd 0 → 4096 < rlen ∨ ib = c.bank → ends 0x06 0) ∧
      (¬ odd 0 → rlen ≤ 4096 → ib ≠ c.bank → (rows = 0 ∨ rlen = 0 → ends 0x00 0) ∧ (rows ≠ 0 → rlen ≠ 0 → (¬ fabric 0 → runs) ∧ reaches False))) ∧
    (c.job = .cpair → (odd 0 ∨ odd 1 → ends 0x01 0) ∧
      (¬ odd 0 → ¬ odd 1 →
        let cols := 64 * rlen / 2 ^ es
        let bad : Prop := es = 3 ∨ 1024 < rows ∨ 1024 < cols ∨ 64 * mp < 2 ^ es * rows
        (bad → ends 0x06 0) ∧ (¬ bad → rows = 0 ∨ rlen = 0 → ends 0x00 0) ∧
        (¬ bad → rows ≠ 0 → rlen ≠ 0 →
          let out : Prop := past 0 rows (64 * rlen) ∨ past 1 cols (2 ^ es * rows)
          (out → ends 0x07 0) ∧ (¬ out → ¬ fabric 0 → ¬ fabric 1 → runs) ∧
          (¬ out → ∀ dev exp o, addrWord (c.word 0) = .fabric dev exp o → (s.fabEn = false ∨ s.fabMax < dev ∨ dev = s.fabId → ends 0x09 0) ∧
            (s.fabEn = true → dev ≤ s.fabMax → dev ≠ s.fabId → s.livePlanes = [] → ends 0x0C dev))))) ∧
    (∀ ld e, c.job = .cpyt ld e →
      let bad (x : BitVec 64) : Prop := x.toNat % 64 ≠ 0 ∨ (e.kind = 4 ∧ 2 ^ 48 ≤ x.toNat)
      let odd : Prop := e.kind ≠ 0 ∧ e.kind ≠ 3 ∧ (bad e.loc ∨ (e.mx = true ∧ bad e.scale))
      (odd → ends 0x01 0) ∧ (¬ odd → e.kind = 0 ∨ e.kind = 3 → ends 0x05 5) ∧
      (¬ odd → ∀ f, e.refused = some f → ends 0x05 f) ∧
      (¬ odd → e.refused = none → (262144 < e.padBytes → ends 0x06 0) ∧
        (e.padBytes ≤ 262144 → c.moveCount = 0 → ends 0x00 0) ∧
        (e.padBytes ≤ 262144 → c.moveCount ≠ 0 → (s.outside7 c = true → ends 0x07 0) ∧ (s.outside7 c = false → runs)))) ∧
    (∀ host dl, c.job = .cmig host dl →
      let len := (c.word 1).toNat
      let gone (st det : Nat) : Prop := starts (fun _ c' => c'.stage = .performed ∧ c'.status = st ∧ c'.detail = det ∧ c'.view = v)
      ((∀ va, addrWord (c.word 0) = .virt va → va % 4096 ≠ 0 ∨ 2 ^ 48 < va + len) → gone 0x01 0) ∧
      (∀ va, addrWord (c.word 0) = .virt va → va % 4096 = 0 → va + len ≤ 2 ^ 48 →
        (len % 4096 ≠ 0 ∨ 2 ^ 40 < len → gone 0x06 0) ∧ (len = 0 → gone 0x00 0) ∧
        (len % 4096 = 0 → len ≤ 2 ^ 40 →
          let all (P : Nat → Nat → Prop) : Prop := ∀ x, va ≤ x → x < va + len → ∃ pte p size, s.walk c.asid x = .leaf pte p size ∧ P pte size
          (len ≠ 0 → ∀ kind, (s.walk c.asid va = .absent ∧ kind = 1) ∨ (s.walk c.asid va = .malformed ∧ kind = 3) →
            starts (fun t c' => c'.stage = .performed ∧ c'.status = 0x03 ∧ c'.detail = va / 4096 % 2 ^ 36 ∧
              ∃ w0 q, t.reports = s.reports ++ [.fault w0 va q] ∧
                (c.opc < 256 → c.tag < 64 → c.hw < 4 → c.core < 512 → w0 / 2 ^ 56 = kind))) ∧
          (all (fun pte _ => pteHost pte = host) → gone 0x00 0) ∧
          (len ≠ 0 → all (fun pte size => pteHost pte ≠ host ∧ s.pagePinned pte size = true) → gone 0x08 0) ∧
          starts (fun _ c' => c'.stage = .moving → c'.view = v ∧ c'.pages ≠ [] ∧
            ∀ p, p ∈ c'.pages → ∃ x pte size, va ≤ x ∧ x < va + len ∧ s.walk c.asid x = .leaf pte p size ∧ pteHost pte ≠ host ∧
              ptePin pte = false ∧ s.pagePinned pte size = false))))

/-- R99, R107, R109, R179, R185, R285, R286, R304 to R310, R314, R407 and R411: one access of a running copy command, once its banks
grant it and the frame slot of the cycle is its bench's and no other transfer or routine access has taken the vertical bus; it takes the
bus. It moves at most 512 bytes of the transfer that `CopyMove` names, from where the last access stopped; a load writes them to the bank, under MC
in every core of the cluster that has a context of its kernel bound; a store leaves them as a write in the command's outbox, or on a
DEVICE or STRONG page at the system commit point: each byte is the one in the bank, or one that a store younger than the command has
overwritten there, decided byte by byte. An absent page stalls it; a malformed entry, a page without the right, and one under
a FILTER region end it with 0x03 and 0x02. To another device a store enters the link queue with its job tag, a read goes out with it
through an open port, whose flits it takes, and gives the command's own pending write, a write of this device's that its view covers or
a value of another party's; the loss of every route, which only that device knows, ends it with 0x0D and takes its writes out of the
link queues. The last access ends the command with 0x00. The order of the accesses and their
size are the model's (DESIGN CHOICE, log 8). -/
def Sys2Proof.Claim.CopyAccessesMoveTheirBytes : Prop :=
  (∀ (s : State) (k : Nat) (c : Cmd), s.cmds = [(c.id, some c)] → coreCluster c.core = k → c.stage = .running → s.accessBanks c ≠ [] →
    (∃ b ∈ s.accessBanks c, s.bankFree b.1 b.2 = false) ∨ (s.kernel c.kernel).slotOwner s.cycle ≠ coreBench c.core ∨
      s.cycle < (s.cluster k).busAt ∨ s.k1Now k ≠ [] → exec (.copyCommandStart k) s = .next s) ∧
  (∀ (s : State) (x : Store) (c : Cmd), s.cmds = [(c.id, some c)] → s.stores = [x] → x.due ≤ s.cycle →
    c.core = x.core → c.stage ≠ .performed → c.issued < x.due → x.bank ∈ c.readsBanks →
    ∃ t l, exec .storePerform s = .next t ∧ t.cmd? c.id = some { c with older := c.older ++ l } ∧ l.length = x.pieces.length ∧
      ∀ (i : Nat) o p, l[i]? = some o → x.pieces[i]? = some p → o.bank = x.bank ∧ o.off = p.1 ∧ o.n = p.2.1 ∧
        o.val = readBank s.mem x.core x.bank p.1 p.2.1) ∧
  ∀ (s : State) (k : Nat) (c : Cmd) (m : MemSide) (addr len : Nat) (pad : Nat → Nat), s.cmds = [(c.id, some c)] →
    coreCluster c.core = k → c.stage = .running → c.due ≤ s.cycle → (∀ b ∈ s.accessBanks c, s.bankFree b.1 b.2 = true) →
    (s.kernel c.kernel).slotOwner s.cycle = coreBench c.core → (s.cluster k).busAt ≤ s.cycle → s.k1Now k = [] →
    s.poison = [] → s.deadChs = [] → s.tlbs = [] → s.evicted = [] → (s.bench (coreDie c.core) (coreBench c.core)).retired = false →
    CopyMove s c m addr len pad → c.run.pos < len →
    let pos := c.run.pos
    let a := addr + pos
    let store := c.stores
    let mc := decide (c.job = .cpy true true)
    let cores (q : Nat) : Prop := if mc then q ∈ (List.range 4).map (clusterCore k) ∧ (s.boundOn c.kernel q = true ∨ q = c.core)
      else q = c.core
    let place (q j : Nat) : Nat := unitLoc q c.bank (pad (pos + j) % 2 ^ 18)
    let acts (P : Nat → State → Cmd → Prop) : Prop := ∃ t c' n, exec (.copyCommandStart k) s = .next t ∧ t.cmd? c.id = some c' ∧
      t.ctxs = s.ctxs ∧ 0 < n ∧ n ≤ 512 ∧ pos + n ≤ len ∧ P n t c' ∧ (t.cluster k).busAt = s.cycle + 1 ∧
      (if pos + n < len then c'.run = { c.run with pos := pos + n } ∧ c'.stage = .running
       else c'.run = { c.run with move := c.run.move + 1, pos := 0 } ∧
        (if c.moveCount ≤ c.run.move + 1 then c'.stage = .performed ∧ c'.status = 0x00 ∧ c'.detail = 0 else c'.stage = .running))
    let loads (v : Nat → Nat) : Prop := acts (fun n t c' => c'.outbox = c.outbox ∧ t.orders = s.orders ∧
      (∀ q j, cores q → j < n → readByte t.mem (place q j) = BitVec.ofNat 8 (v n / 256 ^ j)) ∧
      ∀ x, (∀ q j, cores q → j < n → x ≠ place q j) → readByte t.mem x = readByte s.mem x)
    let bytes (w : Wr) (loc n : Nat) : Prop := w.loc = loc ∧ w.n = n ∧
      ∀ j, j < n → MayRead s c c.bank (pad (pos + j)) (w.byteAt (loc + j)).toNat
    let moved (loc mt : Nat) : Prop :=
      (store = false → loads (fun n => if 2 ≤ mt then s.readSysRun loc n else s.readSharedRun c.core c.view c.outbox loc n)) ∧
      (store = true → acts (fun n t c' => MemSame s t ∧ ∃ w, bytes w loc n ∧
        (mt < 2 → c'.outbox = c.outbox ++ [w] ∧ t.orders = s.orders) ∧
        (2 ≤ mt → c'.outbox = c.outbox ∧ t.order 131 = s.order 131 ++ [w] ∧ ∀ d, d ≠ 131 → t.order d = s.order d)))
    let done := c.run.move - if (c.ch.toNat / 2 ^ 52) ≤ c.run.move then c.ch.toNat / 2 ^ 52 else 0
    let detail (d : Nat) : Nat := if c.job = .cpair then
      (if c.ch.toNat / 2 ^ 52 ≤ c.run.move then 2 ^ 47 else 0) + done % 2 ^ 11 * 2 ^ 36 + d else d
    let ends (st det : Nat) : Prop := ∃ t c', exec (.copyCommandStart k) s = .next t ∧ t.cmd? c.id = some c' ∧ c'.stage = .performed ∧
      c'.status = st ∧ c'.detail = det ∧ c'.outbox = c.outbox ∧ t.ctxs = s.ctxs ∧ t.orders = s.orders ∧ MemSame s t
    (∀ lo l, m = .share lo l → lo + a + 512 ≤ 2 ^ 39 + 2 ^ 30 → moved (lo + a) 0) ∧
    (m = .virt →
      let va := a % 2 ^ 48
      let page := va / 4096 % 2 ^ 36
      (s.walk c.asid va = .absent → ∃ t c', exec (.copyCommandStart k) s = .next t ∧ t.cmd? c.id = some c' ∧
        c' = { c with stage := .stalled va store false, due := c'.due } ∧ t.ctxs = s.ctxs ∧ t.orders = s.orders ∧ MemSame s t) ∧
      (s.walk c.asid va = .malformed → ends 0x03 (detail page)) ∧
      (∀ e base size, s.walk c.asid va = .leaf e base size → pteHost e = false →
        (leafLoc s.ncc e base va = none → ends 0x03 (detail page)) ∧
        (∀ loc, leafLoc s.ncc e base va = some loc →
          let right := if store then pteW e else pteR e
          (s.closedPage e size = true ∨ right = false → ends 0x02 (detail page)) ∧
          (s.closedPage e size = false → right = true → moved loc (pteMt e))))) ∧
    (∀ dev exp, m = .remote (remoteLoc dev (exp * 2 ^ 43)) → dev < 512 → exp * 2 ^ 43 + a + 512 < 2 ^ 64 →
      let loc := remoteLoc dev (exp * 2 ^ 43) + a
      let p := c.planeTo dev
      let key := 512 * p + dev
      let port (t : State) : Port := mget {} t.ports p
      let lost : Prop := ∃ t c', exec (.copyCommandStart k) s = .next t ∧ t.cmd? c.id = some c' ∧ c'.stage = .performed ∧
        c'.status = 0x0D ∧ c'.detail = dev ∧ c'.outbox = c.outbox ∧ t.ctxs = s.ctxs ∧ t.orders = s.orders ∧ MemSame s t ∧
        (∀ q, ∀ e ∈ mget [] t.links q, e.cmd ≠ c.id)
      (store = true → lost ∨ acts (fun n t c' => MemSame s t ∧ t.orders = s.orders ∧ ∃ w e, bytes w loc n ∧
        c'.outbox = c.outbox ++ [w] ∧ mget [] t.links key = mget [] s.links key ++ [e] ∧ e.wr = w ∧ e.cmd = c.id ∧
        e.job = mget 0 s.jobTags c.asid)) ∧
      (store = false → lost ∨ (s.portOpen p 16 = true ∧ ∃ v : Nat → Nat, loads v ∧
          (∃ t n, exec (.copyCommandStart k) s = .next t ∧ t.reports = s.reports ++
            [.request false dev (exp * 2 ^ 43 + a) n 0 (mget 0 s.jobTags c.asid).toNat] ∧
            port t = { port s with unacked := min 1024 ((port s).unacked + 1) }) ∧
          ∀ n j, j < n →
            let b := v n / 256 ^ j % 256
            let other : Prop := b = (Config.freeByte (2 ^ 100 * (s.freeCtr + 1) + (loc + j))).toNat
            (∀ w, lastTo (loc + j) c.outbox = some w → b = (w.byteAt (loc + j)).toNat) ∧
            (lastTo (loc + j) c.outbox = none → other ∨
              ∃ w, lastTo (loc + j) ((s.order 131).take c.view.sys) = some w ∧ b = (w.byteAt (loc + j)).toNat)) ∨
        (s.portOpen p 16 = false ∧ ∃ t c', exec (.copyCommandStart k) s = .next t ∧ t.cmd? c.id = some c' ∧
          c' = { c with due := c'.due } ∧ t.ctxs = s.ctxs ∧ t.orders = s.orders ∧ MemSame s t)))

/-- R70, R308 and R309: the first access of a CPYT.ST to kind 4 writes its header word and 56 zero bytes at LOC; the last transfer of an
MX tensor is its scale array, from the next multiple of 64 of the scratchpad side on (R68). A CGATH first reads its indices, words of 32
bits, from its index bank; once all are known, a row past the share ends it with 0x07, and a row past the export, which only its device
knows, with 0x0B. R310 and R315: a CPAIR that reads poisoned data ends with 0x04, the access performed and the row that it completes
counted. -/
def Sys2Proof.Claim.HeadersScalesAndIndices : Prop :=
  (∀ (s : State) (k : Nat) (c : Cmd) (lo l addr len : Nat) (pad : Nat → Nat), s.cmds = [(c.id, some c)] → coreCluster c.core = k →
    c.stage = .running → c.due ≤ s.cycle → s.bankFree c.core c.bank = true → (s.kernel c.kernel).slotOwner s.cycle = coreBench c.core →
    (s.cluster k).busAt ≤ s.cycle → s.k1Now k = [] → s.deadChs = [] → c.job = .cpair → CopyMove s c (.share lo l) addr len pad →
    c.run.pos < len → lo + addr + len ≤ 2 ^ 39 + 2 ^ 30 → s.unitBad (unitLoc c.core c.bank (pad c.run.pos % 2 ^ 18)) = true →
    let rows := c.ch.toNat / 2 ^ 52
    ∃ t c' w, exec (.copyCommandStart k) s = .next t ∧ t.cmd? c.id = some c' ∧ c'.outbox = c.outbox ++ [w] ∧
      w.loc = lo + addr + c.run.pos ∧ 0 < w.n ∧ c.run.pos + w.n ≤ len ∧ c'.stage = .performed ∧ c'.status = 0x04 ∧ t.ctxs = s.ctxs ∧
      let done := if c.run.pos + w.n = len then c.run.move + 1 else c.run.move
      c'.detail = (if rows ≤ done then 2 ^ 47 + (done - rows) % 2 ^ 11 * 2 ^ 36 else done % 2 ^ 11 * 2 ^ 36)) ∧
  ∀ (s : State) (k : Nat) (c : Cmd), s.cmds = [(c.id, some c)] → coreCluster c.core = k → c.stage = .running → c.due ≤ s.cycle →
    s.poison = [] → s.deadChs = [] → s.tlbs = [] →
    (∀ e pte base size loc, c.job = .cpyt false e → e.kind = 4 → c.run.move = 0 → c.run.pos = 0 → e.loc.toNat < 2 ^ 48 →
      e.loc.toNat % 64 = 0 → 1 ≤ e.rank → e.rank ≤ 4 → s.walk c.asid e.loc.toNat = .leaf pte base size → pteHost pte = false →
      leafLoc s.ncc pte base e.loc.toNat = some loc → s.closedPage pte size = false → pteW pte = true → pteMt pte < 2 →
      ∃ t c' w, exec (.copyCommandStart k) s = .next t ∧ t.cmd? c.id = some c' ∧ c'.outbox = c.outbox ++ [w] ∧ w.loc = loc ∧
        w.n = 64 ∧ w.val = 2 ^ 24 + (if e.mx then 2 ^ 16 else 0) + (e.bias % 256).toNat * 2 ^ 8 + e.kd % 4 * 2 ^ 6 +
          (e.rank - 1) * 2 ^ 4 + e.fmt.code ∧ t.ctxs = s.ctxs ∧ t.orders = s.orders ∧ MemSame s t) ∧
    (∀ ld e, c.job = .cpyt ld e → e.mx = true →
      let x (d : Nat) : Nat := if d < e.rank then (e.ext[d]?).getD 1 else 1
      let n := x 0 * x 1 * x 2 * x 3
      let sn := if x e.kd = 0 then 0 else (x e.kd + 31) / 32 * (n / x e.kd)
      let dense := n * e.fmt.width / 8
      sn ≠ 0 → e.moves + 1 ≤ c.moveCount ∧ let z := c.moveAt (c.moveCount - 1)
        z.addr = e.scale.toNat % 2 ^ 48 ∧ z.n = sn ∧ ∀ p, z.padAt p = (c.off + (dense + 63) / 64 * 64 + p) % 2 ^ 18) ∧
    (∀ ib, c.job = .cgath ib → s.bankFree c.core ib = true → (s.kernel c.kernel).slotOwner s.cycle = coreBench c.core →
      (s.cluster k).busAt ≤ s.cycle → s.k1Now k = [] → c.off % 64 = 0 → c.older = [] →
      (s.bench (coreDie c.core) (coreBench c.core)).retired = false →
      let rows := c.ch.toNat / 2 ^ 52
      let known := c.run.idx.length
      known < rows → ∃ t c' l, exec (.copyCommandStart k) s = .next t ∧ t.cmd? c.id = some c' ∧ c'.run = { c.run with idx := c.run.idx ++ l } ∧
        l ≠ [] ∧ l.length ≤ 128 ∧ known + l.length ≤ rows ∧
        (∀ i v, l[i]? = some v → v = readBank s.mem c.core ib ((c.off + 4 * (known + i)) % 2 ^ 18) 4) ∧
        (if known + l.length = rows ∧ s.outside7 { c with run := c'.run } = true then c'.stage = .performed ∧ c'.status = 0x07
          else c'.stage = .running ∨ (known + l.length = rows ∧ c'.stage = .performed ∧ c'.status = 0x0B ∧
            ∃ dev o, addrWord (c.word 0) = .fabric dev c'.detail o)) ∧ c'.outbox = c.outbox ∧ t.ctxs = s.ctxs ∧ t.orders = s.orders ∧ MemSame s t)

/-- `Claim.CopyCommandsStart`, `Claim.CopyAccessesMoveTheirBytes` and `Claim.HeadersScalesAndIndices`. -/
def Obligations.CopyCommandsMoveTheirRows : Prop :=
  Sys2Proof.Claim.CopyCommandsStart ∧ Sys2Proof.Claim.CopyAccessesMoveTheirBytes ∧ Sys2Proof.Claim.HeadersScalesAndIndices

/-- R107 steps 5 and 6, R190, R191 and R411: when every access of a command is performed (and at SYS its remote writes delivered)
its writes are published at its release scope, or pass to its context; its tag is set with STATUS in [15:8] and DETAIL in
[63:16] of its record, and the command is gone; what its view covered stays for the completion of its grid (R114). In a saved context the
tag is set in its state record too (R116, R215). -/
def Sys2Proof.Claim.CommandsSetTheirTag : Prop :=
  ∀ (s : State) (c : Cmd), s.cmd? c.id = some c → c.stage = .performed → c.due ≤ s.cycle → c.tag < 64 →
    (c.rl = some .sys → s.undelivered c.outbox = false) →
    let x := s.ctx c.ctx
    ∃ t, exec (.commandCompletion c.id) s = .next t ∧ t.cmd? c.id = none ∧ (∀ i, i ≠ c.id → t.cmd? i = s.cmd? i) ∧ MemSame s t ∧
      OthersSame c.ctx s t ∧
      (let y := t.ctx c.ctx
       y = { x with tagPend := y.tagPend, tagSet := y.tagSet, tagRec := y.tagRec, tagView := y.tagView, outbox := y.outbox,
                    cmdView := y.cmdView } ∧
       (∀ l, x.cmdView.at l ≤ y.cmdView.at l ∧ c.view.at l ≤ y.cmdView.at l) ∧
       (x.released = true → s.deadChs = [] → (s.recordPa c.ctx) % 4096 = 0 →
         ∀ loc, paLoc s.ncc (s.recordPa c.ctx + 0x3150 + 8 * c.tag) = some loc →
           ∃ w ∈ t.order 131, w.loc = loc ∧ w.n = 8 ∧ w.val = c.detail % 2 ^ 48 * 2 ^ 16 + c.status % 256 * 2 ^ 8) ∧
       (∀ j, j < 64 → y.tagPend.getLsbD j = (x.tagPend.getLsbD j && decide (j ≠ c.tag)) ∧
         y.tagSet.getLsbD j = (x.tagSet.getLsbD j || decide (j = c.tag))) ∧
       (∀ j, j ≠ c.tag → mget 0#64 y.tagRec j = mget 0#64 x.tagRec j) ∧
       (mget 0#64 y.tagRec c.tag).toNat = c.detail % 2 ^ 48 * 2 ^ 16 + c.status % 256 * 2 ^ 8 ∧
       ((∀ sc, c.rl = some sc → scopeLevel sc = none) → (x.released = false → t.orders = s.orders) ∧ y.outbox = x.outbox ++ c.outbox) ∧
       (∀ sc L, c.rl = some sc → scopeLevel sc = some L →
         (∀ w ∈ c.outbox, ∀ j, j ≤ L → (w.remote = false ∨ j = 3) → ∃ z ∈ t.order (domainOf c.core j), z.id = w.id) ∧
         (∃ l, y.outbox = x.outbox ++ l ∧ ∀ w ∈ l, w.remote = true ∧ w ∈ c.outbox)))

/-- R314: the record of a stalled command goes to the host with its address and the die's next sequence number; RETRY lets it go on where it
stands, with a new walk; FAIL ends it with STATUS 0x03 and the page number, a collective with its ring steps and an abort (R422).
R311 and R316: a page of a CMIG arrives once a page of the target is free for its block, and leaves its list, as one that is at the
target or pinned by then does; after the last one it ends with 0x00, or 0x08 where a pinned page was met, and the pages that came late
in DETAIL, or with 0x04 and a page that was lost with its channel (R331). One that no valid entry maps by then ends it with 0x03, its
number and a fault record. The block that moves with a page, and which page is free and is taken, are the model's (DESIGN CHOICE, log
22). -/
def Sys2Proof.Claim.PageFaultsAndMigrationsEnd : Prop :=
  ∀ (s : State) (c : Cmd), s.cmd? c.id = some c →
    let n := mget 0 s.faultSeq (coreDie c.core)
    (∀ va w, c.stage = .stalled va w false → ∃ t c', exec (.pageFault c.id) s = .next t ∧ t.cmd? c.id = some c' ∧
      c' = { c with stage := .stalled va w true, due := c'.due } ∧ s.cycle < c'.due ∧
      (∃ w0, t.reports = s.reports ++ [.fault w0 va (n % 2 ^ 32)] ∧ (c.opc < 256 → c.tag < 64 → c.hw < 4 → c.core < 512 →
        w0 / 2 ^ 56 = 1 ∧ w0 / 2 ^ 48 % 2 ^ 8 = c.opc ∧ w0 / 2 ^ 42 % 2 ^ 6 = c.tag ∧ w0 / 2 ^ 20 % 2 ^ 11 = c.asid % 2048)) ∧
      mget 0 t.faultSeq (coreDie c.core) = (n + 1) % 2 ^ 32 ∧ t.ctxs = s.ctxs ∧ t.orders = s.orders ∧ MemSame s t) ∧
    (∀ va w, c.stage = .stalled va w true →
      (c.job.isColl = false → exec (.faultRetry c.id) s = .next (s.setCmd { c with stage := .running, due := s.cycle })) ∧
      (c.job.isColl = true → exec (.faultRetry c.id) s = .next (s.setCmd { c with stage := .ring, due := s.cycle })) ∧
      (∃ t c', exec (.faultFail c.id) s = .next t ∧ t.cmd? c.id = some c' ∧ c'.stage = .performed ∧ c'.status = 0x03 ∧
        (c.job.isColl = true → c'.detail = c.ring.made % 1024 * 2 ^ 16) ∧
        (c.job.isColl = false → c.job ≠ .cpair → c'.detail = va / 4096 % 2 ^ 36) ∧
        (c.job = .cpair → let rows := c.ch.toNat / 2 ^ 52
          c'.detail = va / 4096 % 2 ^ 36 + (if rows ≤ c.run.move then 2 ^ 47 + (c.run.move - rows) % 2 ^ 11 * 2 ^ 36
            else c.run.move % 2 ^ 11 * 2 ^ 36)) ∧
        c'.outbox = c.outbox ∧ t.ctxs = s.ctxs ∧ t.orders = s.orders ∧ MemSame s t)) ∧
    (∀ host dl page, c.job = .cmig host dl → c.stage = .moving → page ∈ c.pages →
      let left := c.pages.filter (fun p => p != page)
      let isLate : Prop := dl ≠ 0 ∧ c.tick + dl < s.scht
      let leaves (late : Nat) (lost : Option Nat) (pinned : Bool) : Prop := ∃ t c', exec (.cmigPageArrival c.id page) s = .next t ∧
        t.cmd? c.id = some c' ∧ c'.pages = left ∧ c'.late = late ∧ c'.gone = lost ∧ (left ≠ [] → c'.stage = .moving) ∧
        (left = [] → c'.stage = .performed ∧ (lost = none → c'.status = (if pinned then 0x08 else 0x00) ∧
          c'.detail = min late (2 ^ 32 - 1)) ∧ ∀ p, lost = some p → c'.status = 0x04 ∧ c'.detail = p / 4096 % 2 ^ 36)
      (∀ kind, (s.walk c.asid page = .absent ∧ kind = 1) ∨ (s.walk c.asid page = .malformed ∧ kind = 3) → ∃ t c',
        exec (.cmigPageArrival c.id page) s = .next t ∧ t.cmd? c.id = some c' ∧ c'.stage = .performed ∧ c'.status = 0x03 ∧
        c'.detail = page / 4096 % 2 ^ 36 ∧ t.ctxs = s.ctxs ∧ t.orders = s.orders ∧ MemSame s t ∧
        ∃ w0, t.reports = s.reports ++ [.fault w0 page (n % 2 ^ 32)] ∧
          (c.opc < 256 → c.tag < 64 → c.hw < 4 → c.core < 512 → w0 / 2 ^ 56 = kind)) ∧
      (∀ pte base size, s.walk c.asid page = .leaf pte base size →
        (pteHost pte = host → leaves c.late c.gone c.pinned) ∧
        (pteHost pte ≠ host → s.pagePinned pte size = true → leaves c.late c.gone true) ∧
        (pteHost pte ≠ host → s.pagePinned pte size = false →
        let room := s.newPage host (s.blockOf pte size).2
        (room = none → ∃ t c', exec (.cmigPageArrival c.id page) s = .next t ∧ t.cmd? c.id = some c' ∧
          c' = { c with due := c'.due } ∧ MemSame s t ∧ t.ctxs = s.ctxs ∧ t.orders = s.orders) ∧
        (∀ new, room = some new → leaves (c.late + if isLate then 1 else 0)
          (if c.gone = none ∧ s.pageLost pte size host new = true then some page else c.gone) c.pinned))))

/-- `Claim.CommandsSetTheirTag` and `Claim.PageFaultsAndMigrationsEnd`. -/
def Obligations.CommandsSetTagsFaultAndMigrate : Prop :=
  Sys2Proof.Claim.CommandsSetTheirTag ∧ Sys2Proof.Claim.PageFaultsAndMigrationsEnd

/-! ### Near-memory units -/

/-- R338, R339, R343 to R345, R360, R361 and R364: the checks that a unit makes of NMCOPY, NMDOT and each filter command, in their order,
each with its STATUS and with its operand and lowest offending offset in DETAIL; no other arises. -/
def Sys2Proof.Claim.NearMemoryChecksComeInOrder : Prop :=
  ∀ (s : State) (c : Cmd),
    let w (i : Nat) : BitVec 64 := c.word i
    let off (i : Nat) : Nat := (w i).toNat % 2 ^ 32
    let stack (i : Nat) : Nat := (w i).toNat / 2 ^ 61
    let chan (i : Nat) : Nat := 32 * stack i + (s.capOf (w i)).ch
    let rows := c.ch.toNat / 2 ^ 52
    let rlen := c.ch.toNat / 2 ^ 39 % 2 ^ 13
    let mp := c.ch.toNat / 2 ^ 14 % 2 ^ 25
    let row (i pitch n a : Nat) : Prop := ∃ r, r < rows ∧ off i + 64 * pitch * r ≤ a ∧ a < off i + 64 * pitch * r + n
    let p := (w 1).toNat
    (∀ dp,
      let place (i pitch r : Nat) : Nat := s.capLoc (w i) (off i + 64 * pitch * r)
      let moves : Prop := rows ≠ 0 ∧ rlen ≠ 0
      FirstFails (s.nmcopyChecks c dp)
        (s.capConds c.asid false Cap.copy (if stack 0 = stack 1 then [(w 0, 0), (w 1, 1)] else [(w 0, 0)]) ++ [
          (0x15, 0, moves ∧ off 0 % 64 ≠ 0), (0x15, 1, moves ∧ off 1 % 64 ≠ 0), (0x17, 1, stack 0 ≠ stack 1 ∨ chan 0 ≠ chan 1),
          (0x18, 1, rlen ≠ 0 ∧ ∃ r q, r < rows ∧ q < rows ∧ place 0 mp r < place 1 dp q + 64 * rlen ∧
            place 1 dp q < place 0 mp r + 64 * rlen)])
        (s.Bounded (s.nmcopyChecks c dp) [(w 0, 0, off 0, row 0 mp (64 * rlen)), (w 1, 1, off 1, row 1 dp (64 * rlen))])) ∧
    FirstFails (s.nmdotChecks c)
      (s.capConds c.asid false Cap.dot [(w 0, 0)] ++ [
        (0x15, 0, off 0 % 64 ≠ 0),
        (0x15, 1, 2 ^ 47 ≤ p ∨ p / 2 ^ 20 % 2 ^ 4 ∉ [2, 3, 4, 5, 9, 10, 11, 12, 13] ∨ p / 2 ^ 29 % 2 ^ 18 % 64 ≠ 0 ∨
          262144 < c.dotBytes),
        (0x16, 0, c.prof = 7 ∨ c.prof = 8)])
      (s.Bounded (s.nmdotChecks c) [(w 0, 0, off 0, row 0 mp c.dotBytes)]) ∧
    (let n := p % 2 ^ 17
     let cells (right : Cap → Bool) (tap : Prop) (bytes : Nat) : Prop := (n = 0 → s.filterChecks c = none) ∧
      (n ≠ 0 → FirstFails (s.filterChecks c)
        (s.capConds c.asid true right [(w 0, 0)] ++ [
          (0x20, 0, off 0 % 32 ≠ 0),
          (0x21, 1, 2 ^ 22 ≤ p ∨ (¬ tap ∧ p / 2 ^ 17 % 2 ^ 5 ≠ 0) ∨ 65536 < n ∨ 262144 < bytes)])
        (s.Bounded (s.filterChecks c) [(w 0, 0, off 0, fun a => off 0 ≤ a ∧ a < off 0 + 32 * n)]))
     (∀ ty, c.job = .fsamp ty → cells Cap.sample False (n * ty.width / 8)) ∧
     (c.job = .ftap → cells Cap.tap True (n * (s.capOf (w 0)).tapSize (p / 2 ^ 17 % 2 ^ 5))) ∧
     (∀ b, c.job = .freset b → cells Cap.tick False 0)) ∧
    (∀ gn n, c.job = .ftick gn n →
      let ws := (List.range gn).map (fun i => (w i, i))
      FirstFails (s.filterChecks c)
        (s.capConds c.asid true Cap.tick ws ++ ws.map (fun x => (0x20, x.2, off x.2 ≠ 0)) ++
          ws.map (fun x => (0x22, x.2, ∃ j, j < x.2 ∧ (w j).toNat / 2 ^ 48 = (w x.2).toNat / 2 ^ 48)))
        (s.filterChecks c = none))

/-- R341, R343 to R345 and R338: a command on its way is turned away with 0x10 where its entry is not valid under its handle and with
0x11 on a retired channel, and joins its unit's queue otherwise; at the unit a failed check ends it with its status. NMCOPY
copies its rows, each 64-byte unit as it reads it, into its outbox; an NMDOT whose query or accumulators have bytes reads them first. A
command that its unit takes has started: its Acquire comes before the checks of the unit (R107). That an NMCOPY makes its steps at the
memory in the step in which its unit takes it is the model's choice (log 8). -/
def Sys2Proof.Claim.NearMemoryCommandsStart : Prop :=
  ∀ (s : State) (c : Cmd), s.cmds = [(c.id, some c)] → c.due ≤ s.cycle → c.ring.arr = none →
    let ch := s.capChan (c.word 0)
    let ended (t : State) (st det : Nat) (c' : Cmd) : Prop := t.cmd? c.id = some c' ∧ c'.stage = .performed ∧ c'.status = st ∧
      c'.detail = det ∧ t.ctxs = s.ctxs ∧ t.orders = s.orders
    let joins (u : Nat) : Prop := ∃ t c', exec (.nmCommandArrival c.id) s = .next t ∧ t.cmd? c.id = some c' ∧
      c' = { c with stage := .atUnit u s.nextId, due := c'.due } ∧ t.ctxs = s.ctxs ∧ t.orders = s.orders ∧ MemSame s t
    let fails (i : Instr) (f : Failed) : Prop := ∃ t c', exec i s = .next t ∧ ended t f.1 f.2 c' ∧ c'.outbox = c.outbox ∧ MemSame s t
    (c.stage = .sent → c.left = [] →
      (s.staleCap (c.word 0) = true → fails (.nmCommandArrival c.id) (0x10, 0)) ∧
      (s.staleCap (c.word 0) = false → ch ∈ s.deadChs → fails (.nmCommandArrival c.id) (0x11, 0)) ∧
      (s.staleCap (c.word 0) = false → ch ∉ s.deadChs → joins ch)) ∧
    (∀ i l, c.stage = .sent → c.left = i :: l → joins (s.capChan (c.word i))) ∧
    (∀ u n, c.stage = .atUnit u n → c.left = [] → c.nm = {} →
      let runs (P : State → Cmd → Prop) : Prop := ∃ t c', exec (.nmCommandStart u) s = .next t ∧ P t c'
      let v := (s.acquireCmd c).view
      let near (i : Nat) : Prop := (s.capOf (c.word i)).ch < 32 ∧ (s.capOf (c.word i)).base < 2 ^ 25
      (∀ dp f, c.job = .nmcopy dp → s.nmcopyChecks c dp = some f → fails (.nmCommandStart u) f) ∧
      (∀ f, c.job = .nmdot → s.nmdotChecks c = some f → fails (.nmCommandStart u) f) ∧
      (∀ f, c.job.isNm = true → (∀ dp, c.job ≠ .nmcopy dp) → c.job ≠ .nmdot → s.filterChecks c = some f →
        fails (.nmCommandStart u) f) ∧
      (s.poison = [] → s.deadChs = [] →
        (∀ dp, c.job = .nmcopy dp → s.nmcopyChecks c dp = none → c.rows ≠ 0 → c.rlen ≠ 0 → dp < 2 ^ 25 → near 0 → near 1 →
          runs (fun t c' => ended t 0x00 0 c' ∧ MemSame s t ∧ ∃ l, c'.outbox = c.outbox ++ l ∧ l.length = c.rows * c.rlen ∧
            ∀ r q w, r < c.rows → q < c.rlen → l[r * c.rlen + q]? = some w → w.n = 64 ∧
              w.loc = s.capLoc (c.word 1) (capOff (c.word 1) + 64 * dp * r + 64 * q) ∧
              ∀ j, j < 64 → w.byteAt (w.loc + j) =
                s.readShared c.core v c.outbox (s.capLoc (c.word 0) (capOff (c.word 0) + 64 * c.mpitch * r + 64 * q) + j))) ∧
        (∀ dp, c.job = .nmcopy dp → s.nmcopyChecks c dp = none → c.rows = 0 ∨ c.rlen = 0 →
          runs (fun t c' => ended t 0x00 0 c' ∧ MemSame s t ∧ c'.outbox = c.outbox)) ∧
        (c.job = .nmdot → s.nmdotChecks c = none →
          (c.rows = 0 → runs (fun t c' => ended t 0x00 0 c' ∧ MemSame s t ∧ c'.outbox = c.outbox)) ∧
          (c.rows ≠ 0 → c.dotBytes ≠ 0 ∨ (c.word 1).toNat.testBit 24 = true →
            runs (fun t c' => t.cmd? c.id = some c' ∧ c' = { c with view := v, nm := { phase := .gather }, due := c'.due } ∧
              t.ctxs = s.ctxs ∧ t.orders = s.orders ∧ MemSame s t)))))

/-- R99, R179, R185, R345, R362 and R363: a command of a near-memory unit makes one access of its scratchpad side at a time, each of at
most 512 bytes, once its bank grants it, reads first: the query and then the accumulators of an NMDOT, the lanes of an FSAMP. With its
last byte read an NMDOT computes one FP32 result for each row, the fixed-order sum of the exact products of the query and the row on its
accumulator, and then writes them, as an FTAP writes its taps; the last write ends the command. The size of an access and their order
are the model's (DESIGN CHOICE, log 8). -/
def Sys2Proof.Claim.NearMemoryAccessesMoveTheirBytes : Prop :=
  ∀ (s : State) (c : Cmd) (u arr : Nat), s.cmds = [(c.id, some c)] → c.due ≤ s.cycle → c.stage = .atUnit u arr → c.left = [] →
    c.ring.arr = none →
    let w := (c.word 1).toNat
    let q := c.dotBytes
    let rbank := w / 2 ^ 25 % 16
    let roff := w / 2 ^ 29 % 2 ^ 18
    let does (P : State → Cmd → Prop) : Prop := ∃ t c', exec (.nmCommandStart u) s = .next t ∧ t.cmd? c.id = some c' ∧ P t c' ∧
      t.ctxs = s.ctxs ∧ t.orders = s.orders
    (∀ total, (c.job = .nmdot ∧ total = if c.rows = 0 then 0 else q + if w.testBit 24 then 4 * c.rows else 0) ∨
        (∃ ty, c.job = .fsamp ty ∧ total = w % 2 ^ 17 * ty.width / 8) →
      c.nm.phase = .gather → c.nm.got < total → c.nm.bad = false → s.poison = [] → s.deadChs = [] →
      (s.bench (coreDie c.core) (coreBench c.core)).retired = false →
      let at_ (p : Nat) : Nat × Nat := if c.job = .nmdot ∧ q ≤ p then (rbank, roff + (p - q)) else (c.bank, c.off + p)
      let b := (at_ c.nm.got).1
      (s.bankFree c.core b = false → exec (.nmCommandStart u) s = .next s) ∧
      (s.bankFree c.core b = true → ∃ n v, 0 < n ∧ n ≤ 512 ∧ c.nm.got + n ≤ total ∧ v < 256 ^ n ∧
        (∀ j, j < n → (at_ (c.nm.got + j)).1 = b ∧ MayRead s c b (at_ (c.nm.got + j)).2 (v / 256 ^ j % 256)) ∧
        let data := c.nm.data + 256 ^ c.nm.got * v
        (c.nm.got + n < total → does (fun t c' => MemSame s t ∧ t.bankFree c.core b = false ∧
          c' = { c with nm := { c.nm with got := c.nm.got + n, data := data }, due := c'.due })) ∧
        (c.nm.got + n = total → c.job = .nmdot → c.rows ≠ 0 → (s.capOf (c.word 0)).ch < 32 → (s.capOf (c.word 0)).base < 2 ^ 25 →
          let k := w % 2 ^ 20
          let ty := c.dotTy
          let acc (r : Nat) : PSum := .fp (if w.testBit 24 then BitVec.ofNat 32 (data / 256 ^ q / 2 ^ (32 * r)) else 0#32)
          let row (r : Nat) : Nat := s.readSharedRun c.core c.view c.outbox (s.capLoc (c.word 0) (capOff (c.word 0) + 64 * c.mpitch * r)) q
          let prods (r : Nat) : List Ext := (List.range k).map (fun i => dotMul ty.isInt
            (valOf ty (data % 256 ^ q / 2 ^ (ty.width * i) % 2 ^ ty.width)) (valOf ty (row r / 2 ^ (ty.width * i) % 2 ^ ty.width)))
          let res (r : Nat) : Nat := (reduce 0 c.prof 4 (acc r) (chunkSums c.prof (prods r))).1.pat.toNat
          let some_ (P : Nat → Bool) : Bool := (List.range c.rows).any (fun r => P (res r))
          does (fun t c' => MemSame s t ∧ t.bankFree c.core b = false ∧ c'.stage = c.stage ∧ c'.outbox = c.outbox ∧
            c'.nm.phase = .deliver ∧ c'.nm.put = c.nm.put ∧ c'.nm.len = 4 * c.rows ∧ c'.status = 0x00 ∧
            c'.detail = (if some_ (isNaN .fp32) then 2 else 0) + (if some_ (fun x => x % 2 ^ 31 == 0x7F800000) then 4 else 0) ∧
            ∀ r, r < c.rows → c'.nm.out / 2 ^ (32 * r) % 2 ^ 32 = res r % 2 ^ 32)))) ∧
    (c.job = .nmdot ∨ c.job = .ftap → c.nm.phase = .deliver → c.nm.put < c.nm.len →
      let at_ (p : Nat) : Nat × Nat := if c.job = .nmdot then (rbank, roff + p) else (c.bank, c.off + p)
      let b := (at_ 0).1
      let n := min 512 (c.nm.len - c.nm.put)
      let place (j : Nat) : Nat := unitLoc c.core b ((at_ (c.nm.put + j)).2 % 2 ^ 18)
      (s.bankFree c.core b = false → exec (.nmCommandStart u) s = .next s) ∧
      (s.bankFree c.core b = true → does (fun t c' => t.bankFree c.core b = false ∧
        (∀ j, j < n → readByte t.mem (place j) = BitVec.ofNat 8 (c.nm.out / 256 ^ (c.nm.put + j))) ∧
        (∀ a, (∀ j, j < n → a ≠ place j) → readByte t.mem a = readByte s.mem a) ∧
        (c.nm.put + n < c.nm.len → c' = { c with nm := { c.nm with put := c.nm.put + n }, due := c'.due }) ∧
        (c.nm.put + n = c.nm.len → c'.stage = .performed ∧ c'.status = c.status ∧ c'.detail = c.detail ∧ c'.outbox = c.outbox))))

/-- `Claim.NearMemoryChecksComeInOrder`, `Claim.NearMemoryCommandsStart` and `Claim.NearMemoryAccessesMoveTheirBytes`. -/
def Obligations.NearMemoryUnitsServeTheirQueue : Prop :=
  Sys2Proof.Claim.NearMemoryChecksComeInOrder ∧ Sys2Proof.Claim.NearMemoryCommandsStart ∧
  Sys2Proof.Claim.NearMemoryAccessesMoveTheirBytes

/-- R353, R355 and R356: a sample's exact value, squared or made positive as XF says, is rounded to the input grid, clamped to 56 bits
and added to ACC, which is clamped to 72; a NaN only sets NAN. A step shifts the input and output delays, and the new ones are each
rounded once to the state format: for FX32 to the grid of 2^ES with the nearer end of 32 bits outside it. A cell that is caught up by one
tick takes its input, and each further tick is one step more, of input zero. -/
def Sys2Proof.Claim.CellsSampleAndStep : Prop :=
  ∀ (e : Cap) (c : Cell),
    let clamp (lo hi v : Int) : Int := if v < lo then lo else if hi < v then hi else v
    (∀ (neg : Bool) (m : Nat) (x : Int),
      let y : Bool × Nat × Int := if e.xf = 1 then (false, m * m, x + x) else if e.xf = 2 then (false, m, x) else (neg, m, x)
      ∃ k, RoundsTo false y.2.1 (y.2.2 - e.ein) k ∧
        let z : Int := if y.1 then -(k : Int) else k
        let z' := clamp (-(2 : Int) ^ 55) ((2 : Int) ^ 55 - 1) z
        let a := clamp (-(2 : Int) ^ 71) ((2 : Int) ^ 71 - 1) (c.acc + z')
        e.addSample c (.num neg m x) = { c with acc := a, clp := c.clp || decide (z' ≠ z), aov := c.aov || decide (a ≠ c.acc + z') }) ∧
    (∀ neg : Bool,
      let z : Int := if neg = true ∧ e.xf ≠ 1 ∧ e.xf ≠ 2 then -(2 : Int) ^ 55 else (2 : Int) ^ 55 - 1
      let a := clamp (-(2 : Int) ^ 71) ((2 : Int) ^ 71 - 1) (c.acc + z)
      e.addSample c (.inf neg) = { c with acc := a, clp := true, aov := c.aov || decide (a ≠ c.acc + z) }) ∧
    e.addSample c .nan = { c with nan := true } ∧
    (∀ (neg : Bool) (m : Nat) (x : Int), e.fx = true → ∃ k, RoundsTo e.rz m (x - e.es) k ∧
      let v : Int := if neg then -(k : Int) else k
      let q := clamp (-(2 : Int) ^ 31) ((2 : Int) ^ 31 - 1) v
      e.stateRound (.num neg m x) = ((q % (2 : Int) ^ 32).toNat, decide (q ≠ v))) ∧
    (e.fx = true → e.stateRound .nan = (0, true) ∧ e.stateRound (.inf true) = (2 ^ 31, true) ∧
      e.stateRound (.inf false) = (2 ^ 31 - 1, true)) ∧
    (e.fx = false → ∀ v, (e.stateRound v).1 = (roundTo { rneModes with mode := if e.rz then .rz else .rne } .fp32 0 v).1) ∧
    (∀ v : Ext,
      let x := e.stateRound v
      let at_ (b : Nat) : Ext := if e.fx then shiftExt e.es (extInt (intOf .i32 b)) else valOf .fp32 b
      let times (k b : Nat) : Ext := (mulExt (valOf .fp32 k) (at_ b)).1
      let plus (a b : Ext) : Ext := (addExt false a b).1
      let y := e.stateRound (plus (plus (plus (plus (times e.cb0 x.1) (times e.cb1 c.x0)) (times e.cb2 c.x1))
        (negExt (times e.ca1 c.y0))) (negExt (times e.ca2 c.y1)))
      e.stepCell c v = { c with x0 := x.1, x1 := c.x0, y0 := y.1, y1 := c.y0, sov := c.sov || x.2 || y.2 }) ∧
    (c.stamp < 2 ^ 32 →
      let tick (g : Nat) : Cap := { e with t := (c.stamp + g) % 2 ^ 32 }
      (tick 0).catchUp c = c ∧
      (tick 1).catchUp c = { e.stepCell c (shiftExt e.ein (extInt c.acc)) with acc := 0, stamp := (c.stamp + 1) % 2 ^ 32 } ∧
      ∀ g, 1 ≤ g → g + 1 < 2 ^ 32 →
        (tick (g + 1)).catchUp c = { e.stepCell ((tick g).catchUp c) (.num false 0 0) with stamp := (c.stamp + g + 1) % 2 ^ 32 })

/-- R351 to R357, R362 to R365 and R372: at their unit, with no poisoned cell, FSAMP with its lanes read catches each of its cells up and
adds a lane, FTAP catches them up and has their taps to write, FRESET clears them and FRESET.IN their accumulators; FTICK adds n to T of a
region, and where more than 4,096 ticks would lie since LOWS it first catches every cell up. A group whose regions all lie in the unit's
channel ticks there in one step; any other ticks its first region and goes on, region by region, to the next unit. Catching a cell up
twice, with no sample between, is catching it up once. -/
def Sys2Proof.Claim.FilterCommandsServeTheirRegions : Prop :=
  (∀ (e : Cap) (c : Cell) (t1 g : Nat), t1 < 2 ^ 32 → c.stamp < 2 ^ 32 → (t1 + 2 ^ 32 - c.stamp) % 2 ^ 32 + g < 2 ^ 32 →
    ({ e with t := (t1 + g) % 2 ^ 32 } : Cap).catchUp (({ e with t := t1 } : Cap).catchUp c) =
      ({ e with t := (t1 + g) % 2 ^ 32 } : Cap).catchUp c) ∧
  (∀ (s : State) (c : Cmd) (u arr : Nat), s.cmds = [(c.id, some c)] → c.due ≤ s.cycle → c.stage = .atUnit u arr → s.poison = [] →
    s.deadChs = [] → c.ring.arr = none → (s.bench (coreDie c.core) (coreBench c.core)).retired = false →
    let e := s.capOf (c.word 0)
    let p := (c.word 1).toNat
    let cells := s.filterCells c
    let does (P : State → Cmd → Prop) : Prop := ∃ t c', exec (.nmCommandStart u) s = .next t ∧ t.cmd? c.id = some c' ∧
      c'.outbox = c.outbox ∧ t.ctxs = s.ctxs ∧ t.orders = s.orders ∧ MemSame s t ∧ P t c'
    let ends (P : State → Cmd → Prop) : Prop := does (fun t c' => c'.stage = .performed ∧ c'.status = 0x00 ∧
      (∀ a, (∀ b ∈ cells, a / 32 ≠ b / 32) → t.cell a = s.cell a) ∧ P t c')
    let ticked (t : State) (i n : Nat) : Prop :=
      let key := handleKey (capHandle (c.word i))
      let x := s.cap key
      let late : Prop := 4096 < (x.t + 2 ^ 32 - x.lows) % 2 ^ 32 + n
      t.cap key = { x with t := (x.t + n) % 2 ^ 32, lows := if late then x.t else x.lows } ∧
      (∀ k, k ≠ key → t.cap k = s.cap k) ∧ (¬ late → t.cells = s.cells) ∧
      (late → ∀ a ∈ regionCells key x, t.cell a = x.catchUp (s.cell a)) ∧ MemSame s t ∧ t.ctxs = s.ctxs ∧ t.orders = s.orders
    (∀ ty, c.job = .fsamp ty → c.left = [] → let total := p % 2 ^ 17 * ty.width / 8
      (c.nm = {} → s.filterChecks c = none → (total = 0 → ends (fun t _ => t.cells = s.cells)) ∧
        (total ≠ 0 → does (fun t c' => t.cells = s.cells ∧
          c' = { c with view := (s.acquireCmd c).view, nm := { phase := .gather }, due := c'.due }))) ∧
      (c.nm.phase = .gather → c.nm.bad = false → c.nm.got < total → total ≤ c.nm.got + 512 → s.bankFree c.core c.bank = true →
        ends (fun t _ => ∃ v, v < 256 ^ (total - c.nm.got) ∧
          (∀ j, j < total - c.nm.got → MayRead s c c.bank (c.off + c.nm.got + j) (v / 256 ^ j % 256)) ∧
          ∀ i a, cells[i]? = some a →
            let x := e.catchUp (s.cell a)
            let y := e.addSample x.unflagged (valOf ty ((c.nm.data + 256 ^ c.nm.got * v) / 2 ^ (ty.width * i) % 2 ^ ty.width))
            t.cell a = { y with sov := y.sov || x.sov, aov := y.aov || x.aov, nan := y.nan || x.nan, clp := y.clp || x.clp }))) ∧
    (c.left = [] → c.nm = {} → s.filterChecks c = none →
      (c.job = .ftap →
        let z := e.tapSize (parMask p)
        does (fun t c' => (∀ a ∈ cells, t.cell a = e.catchUp (s.cell a)) ∧ (∀ a, (∀ b ∈ cells, a / 32 ≠ b / 32) → t.cell a = s.cell a) ∧
          c'.status = 0x00 ∧ (p % 2 ^ 17 * z = 0 → c'.stage = .performed) ∧
          (p % 2 ^ 17 * z ≠ 0 → c'.stage = c.stage ∧ c'.nm.phase = .deliver ∧ c'.nm.put = 0 ∧ c'.nm.len = p % 2 ^ 17 * z ∧
            ∀ i j a, cells[i]? = some a → j < z →
              c'.nm.out / 256 ^ (z * i + j) % 256 = e.tapValue (parMask p) (e.catchUp (s.cell a)) / 256 ^ j % 256))) ∧
      (c.job = .freset false → ends (fun t c' => c'.detail = 0 ∧ ∀ a ∈ cells, t.cell a = { stamp := e.t })) ∧
      (c.job = .freset true → ends (fun t c' => c'.detail = 0 ∧ ∀ a ∈ cells, t.cell a = { e.catchUp (s.cell a) with acc := 0 })) ∧
      (∀ n, c.job = .ftick 1 n → ∃ t c', exec (.nmCommandStart u) s = .next t ∧ ticked t 0 n ∧
        t.cmd? c.id = some c' ∧ c'.stage = .performed ∧ c'.status = 0x00) ∧
      (∀ gn n, c.job = .ftick gn n → 2 ≤ gn → ∃ t c', exec (.nmCommandStart u) s = .next t ∧ t.cmd? c.id = some c' ∧
        ((∀ i, i < gn → s.capChan (c.word i) = u) → c'.stage = .performed ∧ c'.status = 0x00 ∧ ∀ i, i < gn →
          (t.cap (handleKey (capHandle (c.word i)))).t = ((s.capOf (c.word i)).t + n) % 2 ^ 32) ∧
        ((∃ i, i < gn ∧ s.capChan (c.word i) ≠ u) → c'.stage = .sent ∧ c'.left = (List.range gn).drop 1 ∧ ticked t 0 n))) ∧
    (∀ gn n i l, c.job = .ftick gn n → c.left = i :: l → ∃ t c', exec (.forwardedTick c.id) s = .next t ∧ ticked t i n ∧
      t.cmd? c.id = some c' ∧ (l = [] → c'.stage = .performed ∧ c'.status = c.status) ∧
      (l ≠ [] → c'.stage = .sent ∧ c'.left = l)))

/-- `Claim.CellsSampleAndStep` and `Claim.FilterCommandsServeTheirRegions`. -/
def Obligations.FilterRegionsTickAndSample : Prop :=
  Sys2Proof.Claim.CellsSampleAndStep ∧ Sys2Proof.Claim.FilterCommandsServeTheirRegions

/-! ### Collectives -/

/-- R306, R338, R339, R360, R416, R417, R419 and R420: the checks that the engine makes of a COLL and its descriptor, in the order of
R417's table, each with its STATUS; those on FCAP are of an operand of the cells that it delivers to. That a bucket of SPACE DIE past the
kernel's share ends with 0x07 after these is the model's reading of R306 (log 24). -/
def Sys2Proof.Claim.CollectiveChecksComeInOrder : Prop :=
  ∀ (s : State) (c : Cmd) (op : Nat) (r : RingSt), c.job = .coll op →
    let answer := s.collChecks { c with ring := r }
    let w (i : Nat) : Nat := r.word i
    let a := (c.word 0).toNat
    let ty := w 0 / 2 ^ 32 % 16
    let exact := (w 0).testBit 36
    let filter := (w 0).testBit 37
    let n := w 1 % 512
    let rank := w 1 / 2 ^ 9 % 512
    let dmax := s.fabcfg.toNat / 2 ^ 10 % 512
    let cells := if op = 0 then r.segHi rank - r.segLo rank else w 0 % 2 ^ 32
    let off := w 5 % 2 ^ 32
    let e := s.capOf r.fcap
    let has (x : Nat) : Prop := off ≤ x ∧ x < off + 32 * cells
    let out : Prop := 2 ^ 60 ≤ a ∧ (s.kernel c.kernel).dieLen < a - 2 ^ 60 + w 0 % 2 ^ 32 * r.ty.width / 8
    let last : Prop := (out → answer = some (0x07, 0)) ∧ (¬ out → answer = none)
    FirstFails answer [
      (0x01, 0, ¬ (a < 2 ^ 48 ∨ (2 ^ 60 ≤ a ∧ a < 2 ^ 60 + 2 ^ 28))),
      (0x28, 0, 2 ^ 46 ≤ w 0 ∨ 2 ^ 38 ≤ w 1 ∨ 2 ^ 58 ≤ w 4 ∨ (filter = false ∧ w 5 ≠ 0) ∨ w 6 ≠ 0 ∨ w 7 ≠ 0 ∨ n < 2 ∨ n ≤ rank ∨
        dmax < w 1 / 2 ^ 18 % 512 ∨ dmax < w 1 / 2 ^ 28 % 512 ∨
        (w 3 ≠ 0 ∧ s.signalHome c.kernel c.core .wait (BitVec.ofNat 64 (w 2)) = none)),
      (0x29, 0, (if c.prof = 7 ∨ c.prof = 8 then ty ≠ 6 ∨ exact = true else ty ∉ [11, 12, 13]) ∨ (filter = true ∧ op = 1))]
      ((filter = false → last) ∧
       (filter = true → FirstFails answer (s.capConds c.asid true Cap.sample [(r.fcap, 0)] ++ [(0x20, 0, off % 32 ≠ 0)])
        (FirstCrosses answer 0x19 [(0, 64 * e.len, has)]
          (FirstCrosses answer 0x1A [(0, ((64 * e.base + off) / 2 ^ 21 + 1) * 2 ^ 21 - 64 * e.base, has)] last))))

/-- R414, R416, R417, R421 and R422: a die's engine reads the descriptor at the head of a queue once its bank grants the access, and
makes the checks of steps 1 to 4 (`Claim.CollectiveChecksComeInOrder`): a command that fails one ends with its status, and one whose
neighbour on another device has no live plane with 0x2C; each sends an abort to NEXT. Any other starts, with the plane of its transfers
to NEXT, and takes the abort that awaits it. It waits for its ready word, acquires, sends its token, and waits for the handshake: 0x2A
on a difference, 0x2B on its timeout, both with an abort; an abort that arrives ends it with 0x2D and goes on to NEXT, and one that
arrives before the start is kept for it. DETAIL [41:32] of a failure are the ring steps made. How members on this device find each
other, that the starts of a member are counted, and that a member waits for its engine, are the model's (log 24). -/
def Sys2Proof.Claim.CollectivesStart : Prop :=
  ∀ (s : State) (c : Cmd) (op : Nat), s.cmds = [(c.id, some c)] → c.job = .coll op → c.due ≤ s.cycle → s.poison = [] →
    c.older = [] →
    let does (i : Instr) (P : State → Cmd → Prop) : Prop := ∃ t c', exec i s = .next t ∧ t.cmd? c.id = some c' ∧ P t c' ∧
      t.ctxs = s.ctxs ∧ t.orders = s.orders ∧ MemSame s t
    let goes (r : RingSt) : List Report := if r.nextId ≠ s.fabId ∧ s.fabEn = true ∧ s.livePlanes ≠ [] then [.ringAbort r.key] else []
    let fails (i : Instr) (r : RingSt) (st det : Nat) : Prop := does i (fun t c' => c'.stage = .performed ∧ c'.status = st ∧
      c'.detail = det + r.made % 1024 * 2 ^ 16 ∧ c'.outbox = c.outbox ∧ t.reports = s.reports ++ goes r)
    (c.stage = .queued → s.bankFree c.core c.bank = true → (s.bench (coreDie c.core) (coreBench c.core)).retired = false → ∀ r : RingSt,
      r = { desc := (List.range 8).map (fun i => readBank s.mem c.core c.bank c.off 64 / 2 ^ (64 * i) % 2 ^ 64), tick0 := s.scht
            gen := s.starts (coreDie c.core) r.key r.rank + 1 } →
      let cut : Prop := (r.prevId ≠ s.fabId ∨ r.nextId ≠ s.fabId) ∧ (s.fabEn = false ∨ s.livePlanes = [])
      (s.collChecks { c with ring := r } = none → ¬ cut → does (.collStart (coreDie c.core)) (fun t c' =>
        c' = { c with ring := { r with abort := ((s.heldAbort { c with ring := r }).map HeldAbort.origin).or c.ring.abort }, stage := .ring
                      due := c'.due, routes := c'.routes } ∧ t.starts (coreDie c.core) r.key r.rank = r.gen ∧ r.phase = .ready ∧ (r.nextId = s.fabId → c'.routes = []) ∧
        (r.nextId ≠ s.fabId → ∃ p, p ∈ s.livePlanes ∧ c'.routes = [(r.nextId, p)]))) ∧
      (s.collChecks { c with ring := r } = none → cut → fails (.collStart (coreDie c.core)) r 0x2C 0) ∧
      (∀ f, s.collChecks { c with ring := r } = some f → fails (.collStart (coreDie c.core)) r f.1 f.2)) ∧
    (c.stage = .ring → c.ring.phase = .ready →
      (s.collIsReady c = false → exec (.collReady c.id) s = .next s) ∧
      (s.collIsReady c = true → c.ring.nextId = s.fabId ∨ s.portOpen (c.planeTo c.ring.nextId) 32 = true →
        does (.collReady c.id) (fun _ c' => c' = { c with ring := { c.ring with phase := .handshake }, due := c'.due, view := c'.view } ∧
          c'.view = (s.acquireCmd c).view))) ∧
    (c.stage = .ring → c.ring.phase = .handshake → c.ring.prevId ≠ s.fabId →
      let r := c.ring
      let own : RingToken := { op := op, count := r.word 0 % 2 ^ 32, ty := r.word 0 / 2 ^ 32 % 16, exact := (r.word 0).testBit 36
                               ex := r.word 0 / 2 ^ 38 % 2 ^ 8, n := r.word 1 % 512, prof := c.prof, key := r.word 4 % 2 ^ 32 }
      does (.ringHandshake c.id own) (fun _ c' => c'.stage = .ring ∧ c'.ring.step = 0 ∧
        c'.ring.phase = (if op = 1 then .gather else .scatter) ∧ c'.outbox = c.outbox) ∧
      ∀ tok, tok ≠ own → fails (.ringHandshake c.id tok) c.ring 0x2A 0) ∧
    (c.stage = .ring → c.ring.phase = .ready ∨ c.ring.phase = .handshake → c.ring.timeout ≠ 0 →
      c.ring.tick0 + c.ring.timeout ≤ s.scht → fails (.collTimeout c.id) c.ring 0x2B 0) ∧
    (c.stage = .ring ∨ (∃ va w sent, c.stage = .stalled va w sent) → fails (.ringAbort c.id) c.ring 0x2D 0) ∧
    (c.stage = .queued → exec (.ringAbort c.id) s = .next (s.setCmd { c with ring := { c.ring with abort := some 0 } }))

/-- R416 to R418 and R422, among members of one device: a handshake waits until PREV has sent its token, ends with 0x2A where that
differs, and is over where PREV's is; an abort that ends a member reaches NEXT, unless NEXT is where it comes from, and awaits a NEXT
that has not started. That PREV and NEXT are the active members of the die and rank that the descriptor names, with its KEY, is the
model's reading; where the member before has another KEY, whether its token is one of this ring is free (log 24). -/
def Sys2Proof.Claim.MembersOfOneDeviceAnswerEachOther : Prop :=
  ∀ (s : State) (c d : Cmd) (op : Nat), s.CmdsKeyed → s.cmd? c.id = some c → s.cmd? d.id = some d → d.id ≠ c.id → c.job = .coll op →
    let ends (i : Instr) (st : Nat) (P : Cmd → Prop) : Prop := ∃ t c' d', exec i s = .next t ∧ t.cmd? c.id = some c' ∧
      c'.stage = .performed ∧ c'.status = st ∧ c'.outbox = c.outbox ∧ t.cmd? d.id = some d' ∧ P d' ∧ t.ctxs = s.ctxs ∧
      t.orders = s.orders ∧ MemSame s t
    (∀ tok, c.stage = .ring → c.ring.phase = .handshake → c.due ≤ s.cycle → c.ring.prevId = s.fabId → s.ringPrev c = some d →
      (d.ring.phase = .ready → exec (.ringHandshake c.id tok) s = .next s) ∧
      (d.ring.phase ≠ .ready → d.token ≠ c.token → ends (.ringHandshake c.id tok) 0x2A (fun d' => d'.stage = d.stage)) ∧
      (d.ring.phase ≠ .ready → d.ring.phase ≠ .handshake → d.token = c.token → ∃ t c', exec (.ringHandshake c.id tok) s = .next t ∧
        t.cmd? c.id = some c' ∧ c'.ring.phase = (if op = 1 then .gather else .scatter) ∧ c'.ring.step = 0 ∧ t.ctxs = s.ctxs)) ∧
    (∀ tok, c.stage = .ring → c.ring.phase = .handshake → c.due ≤ s.cycle → c.ring.prevId = s.fabId → s.ringPrev c = none →
      exec (.ringHandshake c.id tok) s = .next s ∨
      (s.strayToken c = true ∧ ends (.ringHandshake c.id tok) 0x2A (fun d' => d'.stage = d.stage))) ∧
    (c.collActive (coreDie c.core) = true → c.ring.nextId = s.fabId → s.ringNext c = none →
      let from_ := c.ring.abort.getD 0
      let rank := (c.ring.rank + 1) % c.ring.n
      ∃ t, exec (.ringAbort c.id) s = .next t ∧ t.ringAborts = s.ringAborts ++
        if from_ ≠ rank + 1 ∧ s.starts c.ring.nextDie c.ring.key rank < c.ring.gen then
          [⟨c.ring.nextDie, c.ring.key, rank, c.ring.gen, from_⟩] else []) ∧
    (c.collActive (coreDie c.core) = true → c.ring.nextId = s.fabId → s.ringNext c = some d →
      let from_ := c.ring.abort.getD 0
      (from_ ≠ (c.ring.rank + 1) % c.ring.n + 1 →
        ends (.ringAbort c.id) 0x2D (fun d' => d' = { d with ring := { d.ring with abort := some from_ } })) ∧
      (from_ = (c.ring.rank + 1) % c.ring.n + 1 → ends (.ringAbort c.id) 0x2D (fun d' => d' = d)))

/-- `Claim.CollectiveChecksComeInOrder`, `Claim.CollectivesStart` and `Claim.MembersOfOneDeviceAnswerEachOther`. -/
def Obligations.CollectivesStartAndFail : Prop :=
  Sys2Proof.Claim.CollectiveChecksComeInOrder ∧ Sys2Proof.Claim.CollectivesStart ∧ Sys2Proof.Claim.MembersOfOneDeviceAnswerEachOther

/-- R418 to R420, for a bucket in the die scratchpad and a PREV on another device: each step of reduce-scatter sends to NEXT what the
last one gave (the first its own contribution), to its engine on this device or out of the port, adds its own contribution to each value
received for the segment before, and keeps the sums; the last one rounds them and puts them in place, for a bucket as one write of its
segment, for a region as a delivery. Each step of all-gather puts in place what it receives and sends it on. RS and AG end after N − 1
steps, AR after both phases. A segment that has been sent waits for the one that PREV sends; that a segment goes in one step is the
model's choice (log 24). -/
def Sys2Proof.Claim.RingStepsReduceAndGather : Prop :=
  ∀ (s : State) (c : Cmd) (op lo0 len base : Nat) (recv : List (BitVec 65)), s.cmd? c.id = some c → c.job = .coll op →
    c.due ≤ s.cycle → s.poison = [] → s.deadChs = [] → c.stage = .ring → c.status = 0 → s.bucket c = some (.share lo0 len, base) →
    c.ring.prevId ≠ s.fabId → c.ring.sent = false → c.ring.inq = [] →
    c.ring.ty.width % 8 = 0 → lo0 + base + c.ring.count * 4 ≤ 2 ^ 40 → op < 3 → 2 ≤ c.ring.n → c.ring.step + 2 ≤ c.ring.n →
    let r := c.ring
    let w := r.ty.width / 8
    let elem (i : Nat) : Nat := s.readSharedRun c.core c.view c.outbox (lo0 + base + i * w) w
    let values (lo hi : Nat) (f : Nat → BitVec 65) : List (BitVec 65) := (List.range (hi - lo)).map f
    let got (i : Nat) : BitVec 65 := (recv[i]?).getD 0
    let opens (j : Nat) : Prop := r.nextId = s.fabId ∨
      s.portOpen (c.planeTo r.nextId) ((if r.exact then 8 else 4) * (r.segHi j - r.segLo j)) = true
    let steps (P : State → Cmd → Prop) : Prop := ∃ t c', exec (.ringStep c.id (some recv)) s = .next t ∧ t.cmd? c.id = some c' ∧
      P t c' ∧ c'.ring.made = r.made + 1 ∧ c'.ring.sent = false ∧ c'.ring.inq = [] ∧ t.ctxs = s.ctxs ∧ t.orders = s.orders ∧
      MemSame s t ∧ ∀ d, s.ringNext c = some d → d.id ≠ c.id →
        t.cmd? d.id = some { d with ring := { d.ring with inq := d.ring.inq ++ [c'.ring.out] } }
    let placed (c' : Cmd) (j : Nat) (l : List (BitVec 65)) : Prop :=
      if r.filter then c'.outbox = c.outbox ∧
        c'.ring.deliver = r.deliver ++ if r.segHi j ≤ r.segLo j then [] else [(if op = 0 then 0 else r.segLo j, l)]
      else c'.ring.deliver = r.deliver ∧ ∃ x, c'.outbox = c.outbox ++ (if r.segHi j ≤ r.segLo j then [] else [x]) ∧
        x.loc = lo0 + base + r.segLo j * w ∧ x.n = (r.segHi j - r.segLo j) * w ∧
        ∀ i v, l[i]? = some v → x.val / 256 ^ (w * i) % 256 ^ w = v.toNat % 256 ^ w
    let isOver (c' : Cmd) : Prop := c'.ring.phase = .finished ∧ (c'.ring.deliver = [] → c'.stage = .performed ∧ c'.status = 0x00)
    (r.step ≠ 0 → r.phase = .scatter ∨ r.phase = .gather → opens r.sendSeg → ∃ t, exec (.ringStep c.id none) s = .next t ∧
      t.cmd? c.id = some { c with ring := { r with sent := true, out := r.vals } } ∧ t.ctxs = s.ctxs ∧ MemSame s t) ∧
    (r.phase = .scatter → op ≠ 1 → opens ((r.rank + 2 * r.n - 1 - r.step) % r.n) →
      let j := (r.rank + 2 * r.n - 2 - r.step) % r.n
      let lo := r.segLo j
      let own (k i : Nat) : BitVec 65 := (r.contribution c.prof (elem (r.segLo k + i))).1
      let sum (i : Nat) : BitVec 65 := (r.combine c.prof (got i) (own j i)).1
      let k0 := (r.rank + 2 * r.n - 1) % r.n
      steps (fun _ c' => c'.ring.out = (if r.step = 0 then values (r.segLo k0) (r.segHi k0) (own k0) else r.vals) ∧
        (r.step + 2 < r.n → c'.ring.vals = values lo (r.segHi j) sum ∧ c'.stage = .ring ∧ c'.ring.phase = .scatter ∧
          c'.ring.step = r.step + 1 ∧ c'.outbox = c.outbox) ∧
        (r.step + 2 = r.n →
          let fin := values lo (r.segHi j) (fun i => if r.filter then sum i else r.rounded c.prof (sum i))
          c'.ring.vals = fin ∧ placed c' j fin ∧
          (op = 2 → c'.stage = .ring ∧ c'.ring.phase = .gather ∧ c'.ring.step = 0) ∧ (op = 0 → isOver c')))) ∧
    (r.phase = .gather → op ≠ 0 → (op = 1 → r.filter = false) → opens ((r.rank + 2 * r.n - r.step) % r.n) →
      let j := (r.rank + 2 * r.n - 1 - r.step) % r.n
      let l := values (r.segLo j) (r.segHi j) got
      steps (fun _ c' => c'.ring.vals = l ∧ placed c' j l ∧
        c'.ring.out = (if r.step = 0 ∧ op = 1 then values (r.segLo r.rank) (r.segHi r.rank)
          (fun i => BitVec.ofNat 65 (elem (r.segLo r.rank + i))) else r.vals) ∧
        (r.step + 2 < r.n → c'.stage = .ring ∧ c'.ring.phase = .gather ∧ c'.ring.step = r.step + 1) ∧
        (r.step + 2 = r.n → isOver c')))

/-- R341, R360, R368, R420 and R422: one delivery of a collective is one command at the region's ordering point: it takes its place in
the queue of the region's unit, and in its turn each cell of its segment is caught up and takes its value as a sample, exactly; the
collective is over once its last delivery is made. Where one of the cells is poisoned they stay as they are, every other cell takes its
value, and the member fails with STATUS 0x1B; that DETAIL then holds the ring steps and no offset is the model's reading (log 24). -/
def Sys2Proof.Claim.CollectiveDeliveriesReachTheirCells : Prop :=
  ∀ (s : State) (c : Cmd) (cell : Nat) (l : List (BitVec 65)) (more : List (Nat × List (BitVec 65))), s.cmd? c.id = some c →
    c.stage = .ring → c.due ≤ s.cycle → c.ring.deliver = (cell, l) :: more → c.status = 0 → capOff c.ring.fcap % 32 = 0 →
    (c.ring.arr = none → s.unitLoad (s.capChan c.ring.fcap) < 64 → ∃ t c', exec (.collDelivery c.id) s = .next t ∧
      t.cmd? c.id = some c' ∧ c' = { c with ring := { c.ring with arr := some (s.capChan c.ring.fcap, s.nextId) }, due := c'.due } ∧
      t.ctxs = s.ctxs ∧ t.orders = s.orders ∧ t.cells = s.cells ∧ MemSame s t) ∧
    ∀ ch a, c.ring.arr = some (ch, a) → s.deliveryFirst ch a = true →
    let e := s.capOf c.ring.fcap
    let loc (i : Nat) : Nat := s.capLoc c.ring.fcap (capOff c.ring.fcap + 32 * (cell + i))
    let bad : Prop := ∃ i, i < l.length ∧ s.unitBad (loc i) = true
    ∃ t c', exec (.collDelivery c.id) s = .next t ∧ t.cmd? c.id = some c' ∧ c'.ring.deliver = more ∧ c'.ring.arr = none ∧
      c'.outbox = c.outbox ∧ t.ctxs = s.ctxs ∧ t.orders = s.orders ∧ MemSame s t ∧
      (∀ i, i < l.length → s.unitBad (loc i) = true → t.cell (loc i) = s.cell (loc i)) ∧
      (bad → c'.stage = .performed ∧ c'.status = 0x1B ∧ c'.detail = c.ring.made % 1024 * 2 ^ 16) ∧
      (∀ i v, l[i]? = some v → s.unitBad (loc i) = false →
        let x := e.catchUp (s.cell (loc i))
        let y := e.addSample x.unflagged (c.ring.exactVal c.prof v)
        t.cell (loc i) = { y with sov := y.sov || x.sov, aov := y.aov || x.aov, nan := y.nan || x.nan, clp := y.clp || x.clp }) ∧
      (∀ a, (∀ i, i < l.length → a / 32 ≠ loc i / 32) → t.cell a = s.cell a) ∧
      (¬ bad → c.ring.phase = .finished → more = [] → c'.stage = .performed ∧ c'.status = 0x00 ∧ c'.detail = c.ring.flags) ∧
      (¬ bad → c.ring.phase ≠ .finished ∨ more ≠ [] → c'.stage = .ring)

/-- `Claim.RingStepsReduceAndGather` and `Claim.CollectiveDeliveriesReachTheirCells`. -/
def Obligations.RingStepsAndDeliveries : Prop :=
  Sys2Proof.Claim.RingStepsReduceAndGather ∧ Sys2Proof.Claim.CollectiveDeliveriesReachTheirCells

/-! ### Fabric -/

/-- R404, R405, R407, R409 and R411: the oldest write of a link queue leaves it with its job tag when its port is not retired and does not
retrain and its replay store has room, its flits unacknowledged; or no route to its target is left, and its command ends with 0x0D;
which of the two it is, is not this device's to know (log 21). An acknowledgement takes flits from the oldest on. A CRC error or a
missing acknowledgement replays from the oldest flit, the 64th replay of one flit retrains the link, and the third failed retraining
within 1,000 ticks retires the port, reported, with its queues and commands on another live plane; where none is live, copies that use
the plane end with 0x0D and collectives that leave the device with 0x2C, and the link queues hold nothing more. Which live plane they go
on with is free, and so is when a flit leaves (log 43), and which of the devices that owe a command an answer DETAIL names (log 21). -/
def Obligations.LinksDeliverAndReplay : Prop :=
  ∀ (s : State) (p : Nat), p < 32 → s.CmdsKeyed →
    let x := s.port p
    let sets (i : Instr) (y : Port) : Prop := exec i s = .next (s.setPort p y)
    (∀ dev e l, dev < 512 → mget [] s.links (512 * p + dev) = e :: l →
      let isUp : Prop := x.retired = false ∧ x.retrain = false ∧ (x.unacked = 0 ∨ x.unacked + (e.wr.n + 111) / 112 ≤ 1024)
      (¬ isUp → exec (.linkQueueDeliver p dev) s = .next s) ∧
      (isUp → ∃ t, exec (.linkQueueDeliver p dev) s = .next t ∧ t.ctxs = s.ctxs ∧ t.orders = s.orders ∧ MemSame s t ∧
        ((mget [] t.links (512 * p + dev) = l ∧ (∀ k, k ≠ 512 * p + dev → mget [] t.links k = mget [] s.links k) ∧
          t.port p = { x with unacked := min 1024 (x.unacked + (e.wr.n + 111) / 112) } ∧ t.cmds = s.cmds ∧
          t.reports = s.reports ++
            [.request true (devOf e.wr.loc) ((e.wr.loc - remoteLoc 0 0) % 2 ^ 64) e.wr.n e.wr.val e.job.toNat]) ∨
        ((∀ k, ∀ y ∈ mget [] t.links k, y.cmd ≠ e.cmd) ∧
          (∀ k, ∀ y ∈ mget [] s.links k, y.cmd ≠ e.cmd → y ∈ mget [] t.links k) ∧ t.ports = s.ports ∧ t.reports = s.reports ∧
          ∀ c, s.cmd? e.cmd = some c → c.stage ≠ .performed ∨ c.status = 0 → ∃ c', t.cmd? c.id = some c' ∧
            c'.stage = .performed ∧ c'.status = 0x0D ∧ c'.detail = dev)))) ∧
    (∀ n, 0 < n → n ≤ x.unacked → sets (.flitAcknowledgement p n) { x with unacked := x.unacked - n, replays := 0 }) ∧
    (x.retired = false → x.retrain = false → x.unacked ≠ 0 → ∀ i, i ∈ ([.flitCrcError p, .ackTimeout p] : List Instr) →
      (x.replays + 1 ≠ 64 → sets i { x with replays := x.replays + 1 }) ∧
      (x.replays + 1 = 64 → sets i { x with replays := 0, retrain := true })) ∧
    (x.retired = false → sets (.linkRetrain p) { x with retrain := true, replays := 0 }) ∧
    (x.retrain = true → sets (.retrainingEnd p true) { x with retrain := false }) ∧
    (x.retrain = true →
      let f := x.fails.filter (fun t => decide (s.scht ≤ t + 1000)) ++ [s.scht]
      (f.length < 3 → sets (.retrainingEnd p false) { x with fails := f }) ∧
      (3 ≤ f.length → ∃ t, exec (.retrainingEnd p false) s = .next t ∧ (t.port p).retired = true ∧ (t.port p).unacked = 0 ∧
        (t.port p).retrain = false ∧ Report.retired (.port p) ∈ t.reports ∧ t.ctxs = s.ctxs ∧ t.orders = s.orders ∧ MemSame s t ∧
        ((∃ q, q < 32 ∧ q ≠ p ∧ (s.port q).retired = false) →
          (∃ q, q ≠ p ∧ (s.port q).retired = false ∧ ∀ id c, s.cmd? id = some c → c.id = id → s.usesPlane p c = true →
            t.cmd? id = some { c with routes := c.routes.map (fun r => (r.1, if r.2 = p then q else r.2)) }) ∧
          ∀ d, d < 512 → mget [] t.links (512 * p + d) = []) ∧
        ((∀ q, q < 32 → q ≠ p → (s.port q).retired = true) → (∀ k, mget [] t.links k = []) ∧ ∀ c, s.cmd? c.id = some c →
          (c.job.isColl = false → (∃ d, (d, p) ∈ c.routes) → c.stage ≠ .performed ∨ (c.status = 0 ∧ s.linked c.id = true) →
            ∃ c', t.cmd? c.id = some c' ∧ c'.stage = .performed ∧ c'.status = 0x0D ∧
              (c'.detail ∈ s.awaited c ∨ (s.awaited c = [] ∧ ∃ q, (c'.detail, q) ∈ c.routes))) ∧
          (c.collActive (coreDie c.core) = true → c.ring.prevId ≠ s.fabId ∨ c.ring.nextId ≠ s.fabId → ∃ c', t.cmd? c.id = some c' ∧
            c'.stage = .performed ∧ c'.status = 0x2C))))

/-- R404, R405, R407 to R410 and R412: with no port live no access from another device arrives, and while no link is up with room for
its answer it waits; the answer takes its flits. The access is refused with 0x0A where the export entry is not enabled, is for another
job tag or lacks the right, and with 0x0B past its end. A read answers, at the entry's physical address, what some position in the
system commit point's order and some of its job's own writes that await their publication give (which ones only the reader's device
knows, log 21). A write waits for its sender to publish it at SYS, at a time that only that device knows (log 21), and joins the system
commit point then, after the earlier ones of its job; at a place that is not there it has no effect (log 26). R409: where no answer
comes a copy ends with 0x0E and one of the devices that owe it an answer, its writes in the link queues gone (log 43), and a collective
that leaves the device with 0x2C (R422). EXPORT writes one entry. -/
def Obligations.RemoteAccessesAreChecked : Prop :=
  (∀ (s : State) (wr : Bool) (exp off job n data : Nat),
    let e := mget (0#64, 0#64) s.exports exp
    let open_ : Prop := e.1.getLsbD 63 = true ∧ e.1.toNat / 2 ^ 45 % 2 ^ 16 = job ∧ e.1.getLsbD (if wr then 61 else 62) = true
    let fits : Prop := off + n ≤ 4096 * (e.1.toNat % 2 ^ 28)
    let pa := e.2.toNat / 2 ^ 12 % 2 ^ 40 * 2 ^ 12 + off
    let i : Instr := .remoteAccess wr exp off job n data
    let own := (s.inbound.filter (fun x => x.job == job)).map Inbound.wr
    let answers (len st : Nat) (P : State → Nat → Bool → Prop) : Prop :=
      (s.fabEn = true → s.livePlanes ≠ [] → (∀ p, p < 32 → s.portOpen p len = false) →
        exec i s = .next { s with agenda := s.agenda ++ [(s.cycle + 1, i)] }) ∧
      (s.fabEn = true → (∃ p, p < 32 ∧ s.portOpen p len = true) → ∃ t v bad, exec i s = .next t ∧ t.reports = s.reports ++ [.remote st v bad] ∧
        (∃ p, p < 32 ∧ s.portOpen p len = true ∧ (∀ q, q ≠ p → t.port q = s.port q) ∧
          t.port p = { s.port p with unacked := min 1024 ((s.port p).unacked + (len + 111) / 112) }) ∧
        t.cmds = s.cmds ∧ t.ctxs = s.ctxs ∧ t.orders = s.orders ∧ MemSame s t ∧ P t v bad)
    (s.fabEn = false ∨ s.livePlanes = [] → exec i s = .next s) ∧
    (¬ open_ → answers 16 0x0A (fun t v bad => v = 0 ∧ bad = false ∧ t.inbound = s.inbound)) ∧
    (open_ → ¬ fits → answers 16 0x0B (fun t v bad => v = 0 ∧ bad = false ∧ t.inbound = s.inbound)) ∧
    (open_ → fits → wr = false → answers n 0 (fun t v bad => t.inbound = s.inbound ∧ (s.poison = [] → s.deadChs = [] → bad = false) ∧
      ∃ q k, q ≤ (s.order 131).length ∧ v = s.readRemote (own.take k) q pa n)) ∧
    (open_ → fits → wr = true → answers 16 0 (fun t v bad => v = 0 ∧ bad = false ∧ (0 < n → pa % 4096 + n ≤ 4096 →
      (∀ loc, paLoc s.ncc pa = some loc → s.deadAt loc = false →
        ∃ x, t.inbound = s.inbound ++ [x] ∧ x.job = job ∧ x.wr.loc = loc ∧ x.wr.n = n ∧ x.wr.val = data % 256 ^ n) ∧
      (paLoc s.ncc pa = none → t.inbound = s.inbound))))) ∧
  (∀ (s : State) (x : Inbound) (l : List Inbound), s.inbound = x :: l → x.due ≤ s.cycle → s.deadAt x.wr.loc = false →
    ∃ t, exec (.commitPropagate 132) s = .next t ∧ t.order 131 = s.order 131 ++ [x.wr] ∧ (∀ d, d ≠ 131 → t.order d = s.order d) ∧
      (∀ y, y ∈ t.inbound ↔ y ∈ l ∧ y.wr.id ≠ x.wr.id) ∧ t.ctxs = s.ctxs ∧ MemSame s t) ∧
  (∀ (s : State) (c : Cmd), s.cmd? c.id = some c → c.status = 0 →
    let ends (st : Nat) (P : State → Cmd → Prop) : Prop := ∃ t c', exec (.remoteTimeout c.id) s = .next t ∧ t.cmd? c.id = some c' ∧
      c'.stage = .performed ∧ c'.status = st ∧ t.ctxs = s.ctxs ∧ t.orders = s.orders ∧ MemSame s t ∧ P t c'
    (c.job.isColl = false → s.awaited c = [] → exec (.remoteTimeout c.id) s = .next s) ∧
    (c.job.isColl = false → s.awaited c ≠ [] → ends 0x0E (fun t c' => c'.detail ∈ s.awaited c ∧ c'.outbox = c.outbox ∧
      (∀ k, ∀ e ∈ mget [] t.links k, e.cmd ≠ c.id) ∧
      ∀ k e, e ∈ mget [] s.links k → e.cmd ≠ c.id → e ∈ mget [] t.links k)) ∧
    (c.collActive (coreDie c.core) = true → c.ring.prevId ≠ s.fabId ∨ c.ring.nextId ≠ s.fabId → ends 0x2C (fun _ c' =>
      c'.detail = c.ring.made % 1024 * 2 ^ 16 ∧ c'.outbox = c.outbox))) ∧
  (∀ (s : State) (i : Nat) (w0 w1 : BitVec 64), s.boot = .running → i < 256 →
    ∃ t, exec (.exportEntryWrite i w0 w1) s = .next t ∧ t = { s with exports := t.exports } ∧
      (∀ j, j ≠ i → mget (0#64, 0#64) t.exports j = mget (0#64, 0#64) s.exports j) ∧
      let e := mget (0#64, 0#64) t.exports i
      (∀ b, b < 64 → e.1.getLsbD b = (w0.getLsbD b && decide (b < 28 ∨ 45 ≤ b)) ∧
        e.2.getLsbD b = (w1.getLsbD b && decide (12 ≤ b ∧ b < 52))))

/-! ### The command processor -/

/-- R318, R380 to R382: a doorbell makes commands available up to TAIL. A LAUNCH of a good header comes to the head of its queue, a
refused one completes with 0x01 or 0x03; a WAIT is pending until its word has reached its value; a SIGNAL adds to or stores its
word at the home, which holds the latest write of the system commit point (log 19). A completed command has its record at its slot of
the completion ring. -/
def Sys2Proof.Claim.QueuesServeLaunchWaitAndSignal : Prop :=
  ∀ (s : State) (q : Nat),
    let h := s.hq q
    let n := (h.lcons + 1) % 2 ^ 32
    let ends (i : Instr) (op st : Nat) : Prop := ∃ t, exec i s = .next t ∧ Recorded s t q n op st 0 ∧ QueuesOnly s t
    (∀ v : BitVec 64, s.boot = .running → q < 64 → (h.en = false ∨ v.toNat % 2 ^ 32 = h.lcons) → h.early = [] → h.lcons < 2 ^ 32 →
      exec (.qbellWrite q v) s = .next (s.setHq q { h with tail := v.toNat % 2 ^ 32 })) ∧
    (∀ v : BitVec 64, (s.boot = .running → q < 64 → ∃ t, exec (.qbellWrite q v) s = .next t ∧ (t.hq q).tail = v.toNat % 2 ^ 32 ∧
        QueuesOnly s t) ∧
      (s.boot ≠ .running ∨ 64 ≤ q → exec (.qbellWrite q v) s = .next s)) ∧
    (∀ ws, s.taking q 0x01 = some ws →
      let hd := s.readHeader (cword ws 1)
      let good : Prop := s.evictReady = true ∧ zeroFrom ws 2 = true
      let fits : Prop := cword ws 1 % 64 = 0 ∧ s.dramRange (cword ws 1) 160 = true ∧ s.headerRefused hd = false
      (good → fits → exec (.launchCommand q) s = .next (s.setHq q { h with launch := some (hd, s.scht) })) ∧
      (good → ¬ fits → ends (.launchCommand q) 0x01 0x03) ∧ (¬ good → ends (.launchCommand q) 0x01 0x01)) ∧
    (∀ ws, s.taking q 0x02 = some ws →
      (∀ loc, s.hostSignal (cword ws 1) = some loc → zeroFrom ws 3 = true → exec (.wait q) s = .next (s.setHq q
        { h with lcons := n, held := .wait n loc (cword ws 2) })) ∧
      (s.hostSignal (cword ws 1) = none ∨ zeroFrom ws 3 = false → ends (.wait q) 0x02 0x01)) ∧
    (∀ m loc v, h.held = .wait m loc v →
      (v ≤ s.homeValue loc → ∃ t, exec (.waitSatisfied q) s = .next t ∧ Recorded s t q m 0x02 0x00 0 ∧ QueuesOnly s t ∧
        (t.hq q).held = .none) ∧
      (s.homeValue loc < v → exec (.waitSatisfied q) s = .next s)) ∧
    (∀ ws, s.taking q 0x03 = some ws →
      (∀ loc, s.hostSignal (cword ws 1) = some loc → cword ws 3 ≤ 1 → zeroFrom ws 4 = true →
        ends (.signalCommand q) 0x03 0x00 ∧ ∃ t w, exec (.signalCommand q) s = .next t ∧ w ∈ t.order 131 ∧ w.id = s.nextId ∧
          w.loc = loc ∧ w.n = 8 ∧ w.val = (if cword ws 3 = 1 then cword ws 2 else s.homeValue loc + cword ws 2) % 2 ^ 64) ∧
      (s.hostSignal (cword ws 1) = none ∨ 1 < cword ws 3 ∨ zeroFrom ws 4 = false → ends (.signalCommand q) 0x03 0x01))

/-- R381, R385 and R386: EXPCLOSE applies a close to its register and answers it as DETAIL: after an overflow or a NaN LSEXP falls by one,
no lower than −32, and the step is to be skipped; after LIMIT clean closes it rises by one, no higher than 32; EXPSET writes
LIMIT, COUNT and LSEXP and leaves SKIP, NAN and OVF; COUNT counts modulo 2^16 (log 42). R313: INVAL leaves no TLB entry of its range, and
completes at once where no signal update is on its way to a word of the range, else once those are performed; ASID binds or releases a
root table, but where that would unmap a frame under a capability entry it is refused (R332; log 42). Either may clear rights under a
FILTER entry (R350; log 57). R398: ATTEST writes a report, whose layout is the model's (log 11), with the signature of the identity key
over the SHA-256 of its first 192 bytes, its secret free. Operands that are not allowed end a command with 0x01 and change nothing. -/
def Sys2Proof.Claim.QueuesServeExposureTranslationAndReports : Prop :=
  ∀ (s : State) (q : Nat) (ws : List Nat),
    let n := ((s.hq q).lcons + 1) % 2 ^ 32
    let ends (i : Instr) (op st det : Nat) (u : State) : Prop := ∃ t, exec i s = .next t ∧ Recorded s t q n op st det ∧ QueuesOnly u t
    let r := cword ws 1
    let e := mget {} s.expos r
    let v := cword ws 2
    (s.taking q 0x04 = some ws →
      (64 ≤ r ∨ zeroFrom ws 2 = false → ends (.expclose q) 0x04 0x01 0 s) ∧
      (r < 64 → zeroFrom ws 2 = true → ∃ y : Expo, y.limit = e.limit ∧ y.ovf = false ∧ y.nan = false ∧
        ends (.expclose q) 0x04 0x00 y.word.toNat { s with expos := mset {} s.expos r y } ∧
        (e.ovf = true ∨ e.nan = true → y.lsexp = max (e.lsexp - 1) (-32) ∧ y.count = 0 ∧ y.skip = true) ∧
        (e.ovf = false → e.nan = false → y.skip = false ∧
          ((e.count + 1) % 2 ^ 16 = e.limit → y.lsexp = min (e.lsexp + 1) 32 ∧ y.count = 0) ∧
          ((e.count + 1) % 2 ^ 16 ≠ e.limit → y.lsexp = e.lsexp ∧ y.count = (e.count + 1) % 2 ^ 16)))) ∧
    (s.taking q 0x05 = some ws →
      let x := (BitVec.ofNat 8 (v / 2 ^ 24)).toInt
      let ok : Prop := r < 64 ∧ zeroFrom ws 3 = true ∧ v / 2 ^ 3 % 2 ^ 21 = 0 ∧ v / 2 ^ 48 ≠ 0 ∧ -32 ≤ x ∧ x ≤ 32
      (ok → ends (.expset q) 0x05 0x00 0 { s with
        expos := mset {} s.expos r { e with limit := v / 2 ^ 48, count := v / 2 ^ 32 % 2 ^ 16, lsexp := x } }) ∧
      (¬ ok → ends (.expset q) 0x05 0x01 0 s)) ∧
    (s.taking q 0x06 = some ws →
      (2 ^ 11 ≤ r ∨ zeroFrom ws 4 = false → ends (.inval q) 0x06 0x01 0 s) ∧
      (r < 2 ^ 11 → zeroFrom ws 4 = true → ∃ t, exec (.inval q) s = .next t ∧ QueuesOnly { s with tlbs := t.tlbs, shut := t.shut } t ∧
        let ids := s.sigsIn r v (cword ws 3)
        (ids = [] → Recorded s t q n 0x06 0x00 0) ∧ (ids ≠ [] → t.hq q = { s.hq q with lcons := n, held := .inval n ids }) ∧
        (∀ k, ∀ x ∈ t.tlb k, ¬ (x.asid = r ∧ x.base < v + cword ws 3 ∧ v < x.base + x.size)) ∧
        ∀ k, ∀ x ∈ s.tlb k, ¬ (x.asid = r ∧ x.base < v + cword ws 3 ∧ v < x.base + x.size) → x ∈ t.tlb k)) ∧
    (∀ m ids, (s.hq q).held = .inval m ids →
      ((∀ x ∈ s.sigs, x.id ∉ ids) → ∃ t, exec (.inval q) s = .next t ∧ Recorded s t q m 0x06 0x00 0 ∧ QueuesOnly s t ∧
        (t.hq q).held = .none) ∧
      ((∃ x ∈ s.sigs, x.id ∈ ids) → exec (.inval q) s = .next s)) ∧
    (s.taking q 0x07 = some ws →
      let good : Prop := r < 2 ^ 11 ∧ zeroFrom ws 4 = true
      (cword ws 3 = 0 → good → s.unmaps r (some v) = false →
        ends (.asidBind q) 0x07 0x00 0 (({ s with roots := mset none s.roots r (some v) } : State).keepShut)) ∧
      (cword ws 3 = 1 → good → s.unmaps r none = false →
        ends (.asidRelease q) 0x07 0x00 0 { s with roots := mset none s.roots r none }) ∧
      ((cword ws 3).testBit 0 = false → ¬ good ∨ cword ws 3 ≠ 0 ∨ s.unmaps r (some v) = true → ends (.asidBind q) 0x07 0x01 0 s) ∧
      ((cword ws 3).testBit 0 = true → ¬ good ∨ cword ws 3 ≠ 1 ∨ s.unmaps r none = true → ends (.asidRelease q) 0x07 0x01 0 s)) ∧
    (s.taking q 0x09 = some ws →
      (zeroFrom ws 6 = false ∨ s.dramRange r 256 = false → ends (.attest q) 0x09 0x01 0 s) ∧
      (zeroFrom ws 6 = true → s.dramRange r 256 = true → ∃ t, exec (.attest q) s = .next t ∧ Recorded s t q n 0x09 0x00 0 ∧
        t.ctxs = s.ctxs ∧ MemSame s t ∧ ∀ loc, r % 4096 + 256 ≤ 4096 → paLoc s.ncc r = some loc → s.deadChs = [] →
          let nonce := cword ws 2 + cword ws 3 * 2 ^ 64 + cword ws 4 * 2 ^ 128 + cword ws 5 * 2 ^ 192
          let body := s.reportBody nonce % 2 ^ 1536
          ∃ w ∈ t.order 131, w.loc = loc ∧ w.n = 256 ∧ w.val % 2 ^ 256 = nonce % 2 ^ 256 ∧ w.val % 2 ^ 1536 = body ∧
            w.val / 2 ^ 1536 = (ecdsaSign s.free Config.identityKey (sha256 192 body)).toNat))

/-- R336, R337, R349 to R351: CAP_CREATE installs an entry that was not valid, with the next generation, and answers its handle; the leaf
that maps bytes of a FILTER entry loses its R and W rights in its table (stated where one leaf does); a refused creation changes no
entry. CAP_REVOKE sweeps a region, clears V and steps GEN, so that the handle names nothing any more, and
completes when every command that started under the entry has set its tag; only then is its record written, and the cells of a region
are bytes again. Which index of those not valid, and with no revocation pending, a creation takes is the command processor's choice
(log 9); commands that are on their way to a unit as the entry is revoked have not started under it (log 42). -/
def Obligations.CapabilitiesAreCreatedAndRevoked : Prop :=
  (∀ (s : State) (q : Nat) (ws : List Nat), s.taking q 0x08 = some ws →
    let n := ((s.hq q).lcons + 1) % 2 ^ 32
    let stack := cword ws 1 / 2 ^ 29
    let hd := cword ws 1 % 2 ^ 32
    let key := handleKey hd
    let e := s.cap key
    ((cword ws 1).testBit 63 = false → s.createBad ws = false → (∃ i, i < 8192 ∧ (s.cap (8192 * stack + i)).valid = false ∧
        ∀ r ∈ s.revokes, r.key ≠ 8192 * stack + i) →
      ∃ t i, i < 8192 ∧ (∀ r ∈ s.revokes, r.key ≠ 8192 * stack + i) ∧ exec (.capCreate q) s = .next t ∧ MemSame s t ∧ t.ctxs = s.ctxs ∧
        let x := t.cap (8192 * stack + i)
        let gen := ((s.cap (8192 * stack + i)).gen + 1) % 2 ^ 16
        (s.cap (8192 * stack + i)).valid = false ∧ x.valid = true ∧ x.gen = gen ∧ x.owner = cword ws 3 / 2 ^ 46 % 2 ^ 11 ∧
        x.ch = cword ws 2 / 2 ^ 59 ∧ x.base = cword ws 2 / 2 ^ 34 % 2 ^ 25 ∧ x.len = cword ws 2 / 2 ^ 9 % 2 ^ 25 ∧
        x.filter = (cword ws 3).testBit 62 ∧ x.copy = (cword ws 3).testBit 57 ∧ (∀ k, k ≠ 8192 * stack + i → t.cap k = s.cap k) ∧
        (x.filter = true → s.deadChs = [] → ∀ l loc, let u : State := { s with caps := t.caps }
          u.leaves.filter (fun l => (pteR l.pte || pteW l.pte) && u.covers l) = [l] → paLoc s.ncc l.at_ = some loc →
          t.shut = mset 0 s.shut l.at_ l.pte ∧
          ∃ w ∈ t.order 131, w.loc = loc ∧ w.n = 8 ∧ w.val = l.pte - l.pte / 2 % 4 * 2) ∧
        (x.filter = false → (∀ e ∈ s.caps, e.2.filter = false) → t.shut = s.shut) ∧
        Recorded s t q n 0x08 0x00 (stack * 2 ^ 29 + i * 2 ^ 16 + gen)) ∧
    ((cword ws 1).testBit 63 = false → (s.createBad ws = true ∨ ∀ i, i < 8192 → (s.cap (8192 * stack + i)).valid = true ∨
        ∃ r ∈ s.revokes, r.key = 8192 * stack + i) → ∃ t, exec (.capCreate q) s = .next t ∧ Recorded s t q n 0x08 0x01 0 ∧ QueuesOnly s t) ∧
    (cword ws 1 / 2 ^ 32 = 2 ^ 31 → zeroFrom ws 2 = true → e.valid = true → e.gen = handleGen hd →
      ∃ t v, exec (.capRevoke q) s = .next t ∧ t.cap key = { e with valid := false, gen := (e.gen + 1) % 2 ^ 16 } ∧
        (∀ k, k ≠ key → t.cap k = s.cap k) ∧ t.revokes = s.revokes ++ [v] ∧ v.queue = q ∧ v.seq = n ∧ v.handle = hd ∧ v.key = key ∧
        (∀ c, s.cmds = [(c.id, some c)] → (c.id ∈ v.cmds ↔ c.startedUnder key = true)) ∧
        (e.filter = true → s.poison = [] → ∀ a ∈ regionCells key e, t.cell a = e.catchUp (s.cell a)) ∧
        (∀ w : BitVec 64, capHandle w = hd → t.staleCap w = true) ∧ t.orders = s.orders ∧ t.ctxs = s.ctxs ∧ MemSame s t) ∧
    ((cword ws 1).testBit 63 = true → (cword ws 1 / 2 ^ 32 ≠ 2 ^ 31 ∨ zeroFrom ws 2 = false ∨ e.valid = false ∨ e.gen ≠ handleGen hd) →
      ∃ t, exec (.capRevoke q) s = .next t ∧ Recorded s t q n 0x08 0x01 0 ∧ QueuesOnly s t)) ∧
  (∀ (s : State) (v : Revoke) (hd : BitVec 32), s.revokes = [v] → v.handle = hd.toNat →
    ((∀ id ∈ v.cmds, s.cmd? id = none) → ∃ t, exec (.revocationComplete hd) s = .next t ∧ t.revokes = [] ∧
      Recorded s t v.queue v.seq 0x08 0x00 v.handle ∧ t.ctxs = s.ctxs ∧ MemSame s t ∧ (∀ k, t.cap k = s.cap k) ∧
      ((s.cap v.key).filter = true → s.poison = [] → (∀ e ∈ s.caps, e.1 ≠ v.key → e.2.filter = false) →
        ∀ a ∈ regionCells v.key (s.cap v.key), ∃ w ∈ t.order 131, w.loc = a ∧ w.n = 32 ∧
          w.val = ((s.cap v.key).catchUp (s.cell a)).bytes % 256 ^ 32)) ∧
    ((∃ id ∈ v.cmds, s.cmd? id ≠ none) → exec (.revocationComplete hd) s = .next s))

/-- `Claim.QueuesServeLaunchWaitAndSignal` and `Claim.QueuesServeExposureTranslationAndReports`. -/
def Obligations.QueuesServeTheirCommands : Prop :=
  Sys2Proof.Claim.QueuesServeLaunchWaitAndSignal ∧ Sys2Proof.Claim.QueuesServeExposureTranslationAndReports

/-- R388: PREEMPT marks a queue and completes once each context of its kernels is saved or has exited; RESUME clears the mark and
completes once none is frozen and each that was resumed is bound again. That the mark holds the contexts of kernels admitted later too is
the model's reading (log 40). R383: ABORT, out of turn, ends every context of the kernel and of its descendants, at once where it has
stopped and at the next bundle boundary where it runs; its pending writes and tags stay; and waits for their completion. R217, R380,
R384: CRESUME is consumed as soon as it is available; once the trapped context's save is over it restores it at RESUME of its record, from
the state record in memory, and completes when it is bound again, at Z; where there is no such context, or it is lost with its bench, it
completes with 0x01. That a freeze that ends a context does not wait for its FENCE is log 42, and the cycle Z is log 40. -/
def Obligations.ContextsAreHeldAbortedAndResumed : Prop :=
  ∀ (s : State) (q : Nat),
    let h := s.hq q
    let next := (h.lcons + 1) % 2 ^ 32
    let ends (i : Instr) (seq op st : Nat) : Prop := ∃ t, exec i s = .next t ∧ Recorded s t q seq op st 0 ∧ QueuesOnly s t
    (∀ (op : Nat) (i : Instr) (mark : Bool) (put : Nat → Nat → Held),
      (op = 0x0A ∧ i = .preempt q ∧ mark = true ∧ put = .preempt) ∨ (op = 0x0B ∧ i = .resumeCommand q ∧ mark = false ∧ put = .resume) →
      ∀ ws, s.taking q op = some ws →
        (cword ws 1 < 64 → zeroFrom ws 2 = true → ∃ t, exec i s = .next t ∧ t = { s with hqs := t.hqs } ∧
          t.hq q = { h with lcons := next, held := put next (cword ws 1), frozen := if cword ws 1 = q then mark else h.frozen } ∧
          (cword ws 1 ≠ q → t.hq (cword ws 1) = { s.hq (cword ws 1) with frozen := mark }) ∧
          ∀ k, k ≠ q → k ≠ cword ws 1 → t.hq k = s.hq k) ∧
        (64 ≤ cword ws 1 ∨ zeroFrom ws 2 = false → ends i next op 0x01)) ∧
    (∀ (n tq : Nat) (u : State), u = s.setHq q { h with held := .preempt n tq } →
      ((∀ x ∈ u.queueCtxs tq, u.away x = true) → ∃ t, exec (.preempt q) u = .next t ∧ Recorded s t q n 0x0A 0x00 0 ∧
        QueuesOnly s t ∧ (t.hq q).held = .none) ∧
      ((∃ x ∈ u.queueCtxs tq, u.away x = false) → exec (.preempt q) u = .next u)) ∧
    (∀ (n tq : Nat) (u : State), u = s.setHq q { h with held := .resume n tq } →
      let back (x : Nat) : Prop := (u.ctx x).life ≠ .frozen ∧ ((u.ctx x).life = .running → (u.ctx x).resumeAt ≤ s.cycle)
      ((∀ x ∈ u.queueCtxs tq, back x) → ∃ t, exec (.resumeCommand q) u = .next t ∧
        Recorded s t q n 0x0B 0x00 0 ∧ QueuesOnly s t ∧ (t.hq q).held = .none) ∧
      ((∃ x ∈ u.queueCtxs tq, ¬ back x) → exec (.resumeCommand q) u = .next u)) ∧
    let ended (c d : Ctx) : Prop := d.life = .exited ∧ d.outbox = c.outbox ∧ d.view = c.view ∧ d.tagPend = c.tagPend ∧
      d.tagSet = c.tagSet ∧ d.kernel = c.kernel
    (∀ u, (s.ctx u).doomed = true → ((s.ctx u).life = .frozen ∨ (s.ctx u).life = .trapped ∨ (Live s u ∧ s.issued = false ∧
        ∃ f, (s.ctx u).pre = .at_ f ∧ f ≤ s.cycle)) →
      ∃ t, exec (.contextFreeze u) s = .next t ∧ ended (s.ctx u) (t.ctx u) ∧ OthersSame u s t ∧ MemSame s t ∧
        ((s.ctx u).life ≠ .trapped → t.orders = s.orders) ∧ ∀ r ∈ t.inflight, r.ctx ≠ u) ∧
    (∀ n ws, s.takingEarly q 0x0C = some (n, ws) →
      (∀ key, s.abortTarget ws = some key → abortOk ws = true → ∃ t, exec (.abort q) s = .next t ∧ MemSame s t ∧
        let all := s.family s.kernels.length [key]
        let fam := all.filter (fun k => (s.kernel k).alive)
        t.aborts = s.aborts ++ [{ queue := q, seq := n, kernels := fam }] ∧ key ∈ fam ∧
        (∀ k ∈ fam, (t.kernel k).aborted = true ∧ (s.Keyed → ∀ u ∈ s.ctxsOf k, let c := s.ctx u
          (c.life = .frozen ∨ c.life = .trapped → ended c (t.ctx u)) ∧
          (c.life = .running → t.ctx u = { c with doomed := true, pre := .at_ (s.cycle + 1) }))) ∧
        (∀ u, (∀ k ∈ fam, u ∉ s.ctxsOf k) → t.ctx u = s.ctx u) ∧ ∀ c ∈ t.pool, c.parent ∉ all) ∧
      (s.abortTarget ws = none ∨ abortOk ws = false → ends (.abort q) n 0x0C 0x01)) ∧
    (∀ n ws, s.takingEarly q 0x0D = some (n, ws) → (∀ r ∈ s.cresumes, r.queue = q → s.cresumeOver r = false) →
      (∀ u, s.cresumeTarget ws = some u → zeroFrom ws 3 = true → ∃ t, exec (.cresume q) s = .next t ∧
        t.cresumes = s.cresumes ++ [{ queue := q, seq := n, ctx := u }] ∧ QueuesOnly { s with cresumes := t.cresumes } t) ∧
      (s.cresumeTarget ws = none ∨ zeroFrom ws 3 = false → ends (.cresume q) n 0x0D 0x01)) ∧
    (∀ r, s.cresumes = [r] → r.queue = q → s.deadChs = [] →
      let c := s.ctx r.ctx
      let rd := s.recordBytes r.ctx
      let ends (st : Nat) : Prop := ∃ t, exec (.cresume q) s = .next t ∧ t.cresumes = [] ∧ Recorded s t q r.seq 0x0D st 0 ∧
        QueuesOnly { s with cresumes := [] } t
      (∀ z, r.at_ = some z → (z ≤ s.cycle → ends 0x00) ∧ (s.cycle < z → c.lost = true → ends 0x01) ∧
        (s.cycle < z → c.lost = false → s.takingEarly q 0x0D = none → exec (.cresume q) s = .next s)) ∧
      (r.at_ = none → c.life = .trapped → s.canResume r.ctx = true → ∃ t z, exec (.cresume q) s = .next t ∧ s.cycle < z ∧
        t.cresumes = [{ r with at_ := some z }] ∧ t.hqs = s.hqs ∧ MemSame s t ∧ OthersSame r.ctx s t ∧
        let d := t.ctx r.ctx
        d.life = .running ∧ d.trap = none ∧ d.resumeAt = z ∧ d.readyAt = d.resumeAt + (c.restored rd).gapLeft ∧
        d.pc = State.readPaLong 2 s ((s.kernel c.kernel).trapArea + 32 * c.worker + 16) 8 ∧ d.sheet = (c.restored rd).sheet ∧
        ∀ n : BitVec 6, n ≠ 0#6 → (d.s n).toNat = rd 0 512 / 2 ^ (64 * n.toNat) % 2 ^ 64) ∧
      (r.at_ = none → c.life = .trapped → c.lost = false → s.canResume r.ctx = false → s.takingEarly q 0x0D = none →
        exec (.cresume q) s = .next s) ∧
      (r.at_ = none → c.life ≠ .trapped ∨ c.lost = true → ends 0x01))

/-- R113, R120, R180, R220, R249, R288 and R317 to R322: an admitted launch becomes a kernel with its header's shares on the lowest cores
that fit (the model's choice, log 9) and on each of its dies, and a KID that no other holds. Its workers are bound to free contexts with
their range of the iteration space, their part of the spoil bank, the handles and tensor entries of the header, an acquired view, and
every other register at reset. The shares of the die and of the cluster scratchpads are zero, the routine-table range holds the image's
routines and nothing else, its microprogram words stand in the store, and the unit scratchpads are zero but for the image's bank data;
banks that another kernel owns keep their bytes (log 39). -/
def Sys2Proof.Claim.LaunchesAreAdmitted : Prop :=
  ∀ (s : State) (q : Nat) (ws : List Nat) (cores : List Nat), s.admitNext = some q → s.headWords q = some ws →
    s.place ws noneIgnored = some cores → slotsLack ws cores = false → s.coresOn cores = true → s.Keyed → s.deadChs = [] →
    (∀ e ∈ s.ctxs, e.1 < s.nextId) → ∃ t, exec (.kernelAdmission q) s = .next t ∧ t.locked = true ∧
      let key := s.nextId
      let kn := t.kernel key
      let n := hCtx ws
      let L := ((hWork ws).map Prod.snd).foldl (· * ·) 1
      (kn.alive = true ∧ kn.cores = cores ∧ kn.dies = (List.range 2).filter (fun d => (hDies ws).testBit d) ∧ kn.ctxN = n ∧
        kn.queue = q ∧ kn.asid = hAsid ws ∧ kn.banks = hBanks ws ∧ kn.work = hWork ws ∧ kn.nest = hNest ws ∧
        kn.csig.toNat = hword ws 16 % 2 ^ 64 ∧ kn.cadd.toNat = hword ws 17 % 2 ^ 64 ∧ kn.prio = (s.hq q).prio ∧
        kn.windows = s.readWindows ws ∧ kn.expo = some (hExpr ws) ∧ kn.saveArea = hword ws 18 ∧ kn.trapArea = hword ws 19 ∧
        kn.children = hChildren ws ∧ kn.poolHeld = hChildren ws ∧
        kn.kid < 4096 ∧ ∀ e ∈ s.kernels, e.2.alive = true → e.2.kid ≠ kn.kid) ∧
      (∀ c x, s.headOf q = some (.child c x) → kn.parent = some c.parent ∧ c ∉ t.pool) ∧
      (∀ x, s.headOf q = some (.host x) → kn.parent = none ∧ kn.seq = ((s.hq q).lcons + 1) % 2 ^ 32 ∧ (t.hq q).launch = none) ∧
      (∀ i c k, cores[i]? = some c → k < n → ∃ u, s.nextId < u ∧
        let d := t.ctx u
        d.hw ∈ s.freeHw c ∧ (∀ j, j ≤ 3 → (s.order (domainOf c j)).length ≤ d.view.at j) ∧
        (∀ j, j < 16 → d.qh j = s.readHandle ws j) ∧ (∀ j, j < 64 → mget {} d.t j = s.readEntry ws j) ∧
        d = { life := .running, core := c, hw := d.hw, kernel := key, worker := i * n + k, kctx := k, q := d.q, t := d.t, pc := hword ws 0
              sp := if hSpv ws = true then { base := k * hSpl ws, lim := (k + 1) * hSpl ws, bank := hSpb ws } else {}
              next := (i * n + k) * L / (hCores ws * n), rangeHi := (i * n + k + 1) * L / (hCores ws * n), born := s.cycle + 1
              readyAt := s.cycle + 1, fetchAt := s.cycle, resumeAt := s.cycle + 1, view := d.view } ∧
        d.v = [] ∧ d.sr = [] ∧ d.ar = [] ∧ d.m = [] ∧ d.fpcr = 0#5 ∧ d.fpstat = 0#7 ∧ d.stage = 0xFE#8 ∧ d.vrot = 0 ∧ d.seed = 0#64 ∧
        d.srctr = 0#64 ∧ d.tagPend = 0#64 ∧ d.tagSet = 0#64 ∧ d.mstat = 0#64 ∧ d.wid = 0#64 ∧ d.mp = [] ∧ d.pl = [] ∧ d.shape = [] ∧
        d.sp.depth = 0 ∧ d.loop = none ∧ d.lent = 0#16 ∧ d.pend = .none ∧ d.outbox = []) ∧
      (∀ u, u < s.nextId → (s.ctx u).life ≠ .exited → t.ctx u = s.ctx u) ∧
      (∀ a, (∀ c ∈ cores, ∀ b o, a ≠ unitLoc c b o) → readByte t.mem a = readByte s.mem a) ∧
      (hDieLen ws ≠ 0 → ∀ d ∈ kn.dies, ∃ w ∈ t.order 131, w.loc = dieLoc d (kn.dieBase d) ∧ w.n = hDieLen ws ∧ w.val = 0) ∧
      (hClLen ws ≠ 0 → ∀ c ∈ cores, ∃ w ∈ t.order 131, w.loc = clLoc (coreCluster c) (kn.clBase (coreCluster c)) ∧
        w.n = hClLen ws ∧ w.val = 0) ∧
      ∀ l, s.imageOf ws = some l → (∀ r ∈ l, r.bad ws = false) → ∀ c ∈ cores,
        let cl := t.cluster (coreCluster c)
        let free (b : Nat) : Prop := (hBanks ws).testBit b = true ∨ (s.ownedBanks c).testBit b = false
        (∀ b o, b < 16 → o < 2 ^ 18 → free b → (∀ r ∈ l, r.kind = 1 → r.bank = b → o < r.at_ ∨ r.at_ + r.n ≤ o) →
          readByte t.mem (unitLoc c b o) = 0#8) ∧
        (∀ l1 r l2, l = l1 ++ r :: l2 → r.kind = 1 → ∀ j, j < r.n →
          (∀ x ∈ l2, x.kind = 1 → x.bank = r.bank → r.at_ + j < x.at_ ∨ x.at_ + x.n ≤ r.at_ + j) →
          (readByte t.mem (unitLoc c r.bank (r.at_ + j))).toNat = r.val / 256 ^ j % 256) ∧
        (∀ j, j < hRoutes ws → (∀ r ∈ l, r.kind = 2 → r.at_ ≠ j) → mget 0#32 cl.table (kn.tBase (coreCluster c) + j) = 0#32) ∧
        (∀ l1 r l2, l = l1 ++ r :: l2 → r.kind = 2 →
          ((∀ x ∈ l2, x.kind = 2 → x.at_ ≠ r.at_) → mget 0#32 cl.table (kn.tBase (coreCluster c) + r.at_) =
            BitVec.ofNat 32 (r.hdr % 2 ^ 22 + r.hdr / 2 ^ 31 * 2 ^ 31 + feedMask r.words * 2 ^ 22)) ∧
          ∀ j w, r.words[j]? = some w → (∀ x ∈ l2, x.kind = 2 → r.hdr % 2 ^ 11 + j < x.hdr % 2 ^ 11 ∨
              x.hdr % 2 ^ 11 + blockLen x.hdr ≤ r.hdr % 2 ^ 11 + j) →
            mget 0#32 cl.store (kn.uBase (coreCluster c) + r.hdr % 2 ^ 11 + j) = BitVec.ofNat 32 w) ∧
        (hStrm ws = true → cl.streams = [])

/-- R285, R318, R319, R322 and R325: a launch with a slot table that leaves a chosen core's bench without a slot is refused, a host's with
0x03; while a bench is not powered the launch waits; a refused child frees its entry and leaves LREJ; a head that has stood for 1,000
ticks holds. -/
def Sys2Proof.Claim.LaunchesAreRefusedOrHeld : Prop :=
  (∀ (s : State) (q : Nat) (ws : List Nat) (cores : List Nat), s.admitNext = some q → s.headWords q = some ws →
    s.place ws noneIgnored = some cores →
    (slotsLack ws cores = true → ∀ x, s.headOf q = some (.host x) → ∃ t, exec (.kernelAdmission q) s = .next t ∧
      Recorded s t q (((s.hq q).lcons + 1) % 2 ^ 32) 0x01 0x03 0 ∧ QueuesOnly s t) ∧
    (slotsLack ws cores = false → s.coresOn cores = false → exec (.kernelAdmission q) s = .next s)) ∧
  (∀ (s : State) (q : Nat) (c : Child) (words : Option (List Nat)), s.admitNext = some q → s.headOf q = some (.child c words) →
    (s.headWords q = none ∨ ∃ ws cores, s.headWords q = some ws ∧ s.place ws noneIgnored = some cores ∧ slotsLack ws cores = true) →
    c.parent ≠ s.nextId → (s.kernel c.parent).alive = true →
    ∃ t, exec (.kernelAdmission q) s = .next t ∧ t.pool = s.pool.filter (fun x => x != c) ∧ MemSame s t ∧ t.ctxs = s.ctxs ∧
      t.kernel c.parent = { s.kernel c.parent with poolHeld := (s.kernel c.parent).poolHeld - 1, lrej := true }) ∧
  (∀ (s : State) (q : Nat),
    let stands : Prop := (s.hq q).en = true ∧ (s.headOf q).isSome = true ∧ s.headSince q + 1000 ≤ s.scht
    (stands → (s.hq q).hold = false → exec (.admissionHold q) s = .next (s.setHq q { s.hq q with hold := true })) ∧
    (¬ stands ∨ (s.hq q).hold = true → exec (.admissionHold q) s = .next s))

/-- R114, R322, R382 and R383: a complete grid is published at SYS, with what the commands of its contexts covered at their ends, then
signalled and recorded; a child's entry of the pool is free again, and an ABORT whose kernels are all complete ends. The word of a signal
is read at the system commit point (log 19). -/
def Sys2Proof.Claim.GridsComplete : Prop :=
  ∀ (s : State) (key : Nat), s.gridDone key = true →
    let k := s.kernel key
    ∃ t, exec (.gridCompletion key) s = .next t ∧ MemSame s t ∧ (t.kernel key).alive = false ∧
      (∀ u ∈ s.ctxsOf key, Published s t u 3 ∧ ∀ j, j < 3 → ∀ w ∈ (s.order (domainOf (s.ctx u).core j)).take ((s.ctx u).cmdView.at j),
        w.n ≠ 0 → ∃ x ∈ t.order (domainParent (domainOf (s.ctx u).core j)), x.id = w.id) ∧
      (∀ u, RegsSame (s.ctx u) (t.ctx u) ∧ (t.ctx u).life = (s.ctx u).life) ∧
      (∀ loc, let p := (s.ctxsOf key).foldl State.publishExited s
        k.csig ≠ 0#64 → p.signalHome key ((k.cores.head?).getD 0) .add k.csig = some loc →
        ∃ w ∈ t.order 131, w.id = p.nextId ∧ w.loc = loc ∧ w.n = 8 ∧ w.val = (p.homeValue loc + k.cadd.toNat) % 2 ^ 64) ∧
      (k.parent = none → Recorded s t k.queue k.seq 0x01 (if k.failed = true ∨ k.aborted = true then 0x04 else 0x00)
        (k.exit.toNat + (if k.lovf = true then 2 ^ 32 else 0) + (if k.lrej = true then 2 ^ 33 else 0) +
          (if k.trapped = true then 2 ^ 34 else 0) + (if k.aborted = true then 2 ^ 35 else 0) + k.kid * 2 ^ 36)) ∧
      (∀ p, k.parent = some p → p ≠ key → (s.kernel p).alive = true →
        t.kernel p = { s.kernel p with poolHeld := (s.kernel p).poolHeld - 1 }) ∧
      ∀ a ∈ s.aborts, (∀ x ∈ a.kernels, (t.kernel x).alive = false) → a ∉ t.aborts ∧ Recorded s t a.queue a.seq 0x0C 0x00 0

/-- `Claim.LaunchesAreAdmitted`, `Claim.LaunchesAreRefusedOrHeld` and `Claim.GridsComplete`. -/
def Obligations.KernelsAreAdmittedAndComplete : Prop :=
  Sys2Proof.Claim.LaunchesAreAdmitted ∧ Sys2Proof.Claim.LaunchesAreRefusedOrHeld ∧ Sys2Proof.Claim.GridsComplete

/-- R328, R389, R394, R403: until the first admission, and only while firmware runs (R395), host software writes DCFG, EVBASE
and FABCFG; later writes are ignored. R390, R415: budgets and weights written take effect at the next period, and a weight
written as 0 is ignored; which number a budget register has is the model's (log 42). R379, R407: queue registers and job tags
hold what is written to their assigned bits. R394: a load reads the current value of a register; of one that is not there the value is
free, and nothing else changes (log 26). R7: SCHT counts by one, modulo 2^64 (log 1). -/
def Sys2Proof.Claim.ManagementRegistersAreWritten : Prop :=
  ∀ (s : State) (v : BitVec 64) (d q : Nat),
    let up : Prop := s.boot = .running
    let free : Prop := up ∧ s.locked = false
    (free → exec (.dcfgWrite v) s = .next { s with ncc := v.toNat % 2 ^ 10 } ∧
      exec (.fabcfgWrite v) s = .next { s with fabcfg := v &&& 0xFFDFF#64 } ∧
      (d < 2 → exec (.evbaseWrite d v) s = .next { s with evbase := mset 0 s.evbase d (v &&& 0x800FFFFFF0000000#64) })) ∧
    (¬ free → exec (.dcfgWrite v) s = .next s ∧ exec (.fabcfgWrite v) s = .next s ∧ exec (.evbaseWrite d v) s = .next s) ∧
    (up → q < 64 →
      exec (.registerWrite (.qring q) v) s = .next (s.setHq q { s.hq q with ring := v &&& 0x800FFFFFFFFFFFC0#64 }) ∧
      exec (.registerWrite (.qcomp q) v) s = .next (s.setHq q { s.hq q with comp := v &&& 0x800FFFFFFFFFFFC0#64 }) ∧
      (v.getLsbD 0 = false → (s.hq q).early = [] → exec (.registerWrite (.qcfg q) v) s =
        .next (s.setHq q { s.hq q with cfg := v &&& 0xF0701#64 }))) ∧
    (up → d < 2 ^ 11 → exec (.registerWrite (.jobTag d) v) s = .next { s with jobTags := mset 0 s.jobTags d (v.setWidth 16) }) ∧
    (exec (.registerWrite (.qprog q) v) s = .next s ∧ exec (.registerWrite .bootaddr v) s = .next { s with bootaddr := v }) ∧
    (up → d < 2 → ∃ t, exec (.arbwWrite d v) s = .next t ∧ t = { s with arbwNext := t.arbwNext } ∧
      let old := (mget none s.arbwNext d).getD ((mget none s.arbw d).getD 0x0808#64)
      let byte (k : Nat) : Nat := if v.toNat / 2 ^ (8 * k) % 2 ^ 8 = 0 then old.toNat / 2 ^ (8 * k) % 2 ^ 8 else v.toNat / 2 ^ (8 * k) % 2 ^ 8
      mget none t.arbwNext d = some (BitVec.ofNat 64 (byte 0 + 2 ^ 8 * byte 1))) ∧
    (up → d < 15 → exec (.budgetWrite d v) s = .next { s with budNext := mset none s.budNext d (some (v &&& 0x1FF#64)) }) ∧
    (∃ t, exec .budgetPeriod s = .next t ∧
      t = { s with budgets := t.budgets, budNext := [], arbw := t.arbw, arbwNext := [] } ∧
      (mwf none s.budNext = true → mwf none s.arbwNext = true →
        (∀ i, mget none t.budgets i = (mget none s.budNext i).or (mget none s.budgets i)) ∧
        ∀ i, mget none t.arbw i = (mget none s.arbwNext i).or (mget none s.arbw i))) ∧
    let reads (r : ApRead) (x : Nat) : Prop := ∀ n, exec (.hostLoad (.reg r) n) s = .next { s with reports := s.reports ++ [.load (.reg r) n x false] }
    reads .bootaddr s.bootaddr.toNat ∧
      (up → reads .dcfg s.ncc ∧ reads .fabcfg s.fabcfg.toNat ∧ reads .corrected s.eccCount ∧
        (q < 64 → reads (.qring q) (s.hq q).ring.toNat ∧ reads (.qcfg q) (s.hq q).cfg.toNat ∧ reads (.qbell q) (s.hq q).tail ∧
          reads (.qprog q) ((s.hq q).lcons * 2 ^ 32 + (s.hq q).lcomp) ∧ reads (.qcomp q) (s.hq q).comp.toNat) ∧
        (d < 2 → reads (.evbase d) (mget 0#64 s.evbase d).toNat ∧ reads (.arbw d) ((mget none s.arbw d).getD 0x0808#64).toNat) ∧
        (d < 2 ^ 11 → reads (.jobTag d) (mget 0#16 s.jobTags d).toNat)) ∧
    (∀ r n, up → s.apValue r = none → ∃ t v, exec (.hostLoad (.reg r) n) s = .next t ∧
      t = { s with freeCtr := t.freeCtr, reports := s.reports ++ [.load (.reg r) n v false] }) ∧
    exec .scheduleTick s = .next { s with scht := (s.scht + 1) % 2 ^ 64 } ∧ exec (.patrolScrub d) s = .next s

/-- R115, R393: a host store is appended to the system commit point, and a host load returns its latest write; both wait for
firmware (R395). Where no device DRAM is, a store has no effect (log 26); a store into a page table may clear rights under a FILTER entry
again (R350, log 57). R399: a correctable error is counted and nothing else; an uncorrectable one marks its unit. R400: a failed
bench, channel or port is retired and reported. R396: firmware runs only if the key, signature and version of the image at
BOOTADDR, of the length that its header gives, all hold; the places of these in the image's header are not the spec's to give,
and the digest that is kept is that of the whole image (log 11); SHA-256 and the verification are those of FIPS 180-4 and 186-4, which
the rule names. R395: a reset leaves every register and SRAM at its reset value (log 2); retired units stay retired (log 44). An error at
a place that is no word of the device has no effect (log 26). -/
def Sys2Proof.Claim.HostReachesMemoryAndUnitsFail : Prop :=
  ∀ (s : State) (pa n val loc : Nat),
    let up : Prop := s.boot = .running
    (up → 0 < n → pa % 4096 + n ≤ 4096 → pa + n ≤ 2 ^ 41 → paLoc s.ncc pa = some loc → s.deadAt loc = false →
      s.dramRange pa n = true →
      (∃ u w, exec (.hostStore pa n val) s = .next u.keepShut ∧ MemSame s u ∧ u.ctxs = s.ctxs ∧ u.order 131 = s.order 131 ++ [w] ∧
        w.loc = loc ∧ w.n = n ∧ w.val = val % 256 ^ n ∧ (∀ k, k ≠ 131 → u.order k = s.order k) ∧
        u.readPa pa n = val % 256 ^ n ∧ ((∀ e ∈ s.caps, e.2.filter = false) → u.keepShut = u)) ∧
      ∃ t bad, exec (.hostLoad (.mem pa) n) s = .next t ∧ t = { s with freeCtr := t.freeCtr, reports := t.reports } ∧
        t.reports = s.reports ++ [.load (.mem pa) n (s.readPa pa n) bad] ∧ (s.poison = [] → s.deadChs = [] → bad = false)) ∧
    (up → paLoc s.ncc pa = none → pa % 4096 + n ≤ 4096 → exec (.hostStore pa n val) s = .next s.keepShut ∧
      ∃ t v, exec (.hostLoad (.mem pa) n) s = .next t ∧
        t = { s with freeCtr := t.freeCtr, reports := s.reports ++ [.load (.mem pa) n v false] }) ∧
    (¬ up → exec (.hostStore pa n val) s = .next s ∧ exec (.hostLoad (.mem pa) n) s = .next s) ∧
    (ownPlace loc = true → exec (.eccError loc true) s = .next { s with eccCount := s.eccCount + 1 } ∧
      ∃ t, exec (.eccError loc false) s = .next t ∧ t = { s with poison := t.poison } ∧ t.unitBad loc = true ∧
        ∀ a, a / 64 ≠ loc / 64 → t.unitBad a = s.unitBad a) ∧
    (ownPlace loc = false → ∀ b, exec (.eccError loc b) s = .next s) ∧
    (∀ c, c < 256 → c ∉ s.deadChs → exec (.unitRetirement (.channel c)) s = .next { s with
      deadChs := s.deadChs.filter (fun x => decide (x < c)) ++ c :: s.deadChs.filter (fun x => decide (c < x))
      reports := s.reports ++ [.retired (.channel c)] }) ∧
    (∀ p, p < 32 → (s.port p).retired = false → ∃ t, exec (.unitRetirement (.port p)) s = .next t ∧ (t.port p).retired = true ∧
      Report.retired (.port p) ∈ t.reports ∧ MemSame s t) ∧
    (∀ d b, d < 2 → b < 4 → (s.bench d b).retired = false → exec (.unitRetirement (.bench d b)) s = exec (.benchFailure d b) s) ∧
    (¬ up →
      let image (k : Nat) : Nat := s.readSysBlock (hostLoc s.bootaddr.toNat) k
      let len := 256 + Config.bootLength (image 256)
      let sig := image (len + 64) / 256 ^ len
      let be (x : Nat) : Nat := ((List.range 32).map (fun i => x / 256 ^ i % 256 * 256 ^ (31 - i))).sum
      let digest := sha256 len (image len)
      let key := Config.bootKey (image 256)
      (∀ k, k ≠ len → exec (.bootImageCheck k) s = .next s) ∧
      ∃ t, exec (.bootImageCheck len) s = .next t ∧ t = { s with boot := t.boot, image := t.image } ∧
        (t.boot = .running ↔ sha256 64 key.toNat = Config.rootKeyDigest ∧
          ecdsaVerify key digest (be (sig % 256 ^ 32)) (be (sig / 256 ^ 32)) = true ∧
          Config.minSecurityVersion ≤ Config.bootVersion (image 256)) ∧
        (t.boot = .running → t.image = (sha256 (len + 64) (image (len + 64)), Config.bootVersion (image 256)))) ∧
    (∃ t, exec .deviceReset s = .next t ∧ t.boot = .waiting ∧ t.locked = false ∧ t.ctxs = [] ∧ t.kernels = [] ∧ t.cores = [] ∧
      t.clusters = [] ∧ t.orders = [] ∧ t.hqs = [] ∧ t.caps = [] ∧ t.cells = [] ∧ t.expos = [] ∧ t.roots = [] ∧ t.cmds = [] ∧
      t.inbound = [] ∧ t.cresumes = [] ∧ t.scht = 0 ∧ t.ncc = 0 ∧ t.deadChs = s.deadChs ∧ (∀ d b, (t.bench d b).powered = false) ∧
      (mwf ({} : Port) s.ports = true → ∀ p, (t.port p).retired = (s.port p).retired) ∧
      (mwf ({} : Bench) s.benches = true → ∀ d b, (t.bench d b).retired = (s.bench d b).retired) ∧
      ∀ a, a < 2 ^ 64 → readByte t.mem a = 0#8)

/-- `Claim.ManagementRegistersAreWritten` and `Claim.HostReachesMemoryAndUnitsFail`. -/
def Obligations.ManagementHostAndHealth : Prop :=
  Sys2Proof.Claim.ManagementRegistersAreWritten ∧ Sys2Proof.Claim.HostReachesMemoryAndUnitsFail

/-! ### Encoding, reset, the invariant and the stops -/

/-- R39, R52 to R58, R251: words written out from the spec's encodings decode to the instructions they stand for: a header parcel
and a slot word of each slot, and micro-words. -/
def Obligations.SpecWordsDecode : Prop :=
  decodeTableWord 96 (0xA0000001 + 0x0002043000000000 * 2 ^ 32) = some (.add 0#3 8#6 4#6 (.reg 12#6)) ∧
  decodeTableWord 96 (0xA0000001 + 0x4811400000000C01 * 2 ^ 32) = some (.spmark 0#3 5#6 (.imm 0x0C01#32)) ∧
  decodeTableWord 96 (0xA0000004 + 0x0300A01482A3CC00 * 2 ^ 32) =
    some (.vfma { g := 0#3, opd := 40#11, opa := 41#11, opb := 42#11, msk := 3#4, ty := .bf16, ro := 3#2, fls := .none, opx := 0#8 }) ∧
  decodeTableWord 96 (0xA0000010 + 0x0010180000B28008 * 2 ^ 32) =
    some (.vld { g := 0#3, opd := 1030#11, sh := 0#2, sw := false, ty := .i4, opx := 0#9, spa := .bank 5#4 true 2#4 true 8#15 }) ∧
  decodeTableWord 96 (0xA0000008 + 0x0200600000000000 * 2 ^ 32) = some (.lend 0#3 3#4) ∧
  decodeTableWord 96 (0xA0000080 + 0x0300280000000000 * 2 ^ 32) = some (.twany 0#3 20#6) ∧
  decodeTableWord 96 (0xA0000040 + 0x00028000C0600001 * 2 ^ 32) = some (.cpyLd
    { g := 0#3, tag := 5#6, aq := none, rl := none, sh := 0#2, sw := false, sa := 3#6 } false (.bank 3#4 false 0#4 false 1#15)) ∧
  decodeTableWord 32 0x20000000 = some (.mac 0#3) ∧ decodeTableWord 32 0x90001803 = some (.loopk 3#14 3#11) ∧
  decodeTableWord 32 0xB0000000 = some (.endR 0#3 false)

/-- R37, R39, R52 to R60, R251: for every well-formed instruction that has a word, the word that `encode` gives it decodes to it
with every operand, alone and as the one slot of a bundle; and whatever a slot or a micro-word decodes to is well-formed. -/
def Obligations.EncodedInstructionsDecodeBack : Prop :=
  (∀ (i : Instr) (sp : Space) (w : Nat), i.wf = true → i.encode = some (sp, w) → decodeSpace sp w = .ok i ∧
    (sp = .micro → decodeTableWord 32 w = some i) ∧
    ∀ (sl : Slot) (h : Header), sp.slot true = some sl → h.smask = BitVec.ofNat 8 (2 ^ sl.code) → h.profile.toNat < 10 →
      decodeTableWord 96 (h.word + w * 2 ^ 32) = some i ∧ decodeBundle (h.word + w * 2 ^ 32) = .ok ⟨h, [(sl, i)]⟩) ∧
  (∀ (sl : Slot) (w : Nat) (i : Instr), decodeSlot sl w = .ok i → i.wf = true) ∧
  (∀ (w : Nat) (i : Instr), decodeMicro w = .ok i → i.wf = true)

/-- R120 to R122, R248, R252, R292, R328, R329, R336, R379, R385, R390, R395: what reset leaves. Every context register stands at zero
but STAGE, whose predicates 1 to 7 are set; exposure registers hold LIMIT 2,000 and LSEXP 16; no entry, queue or kernel is valid.
Where the spec gives a register no reset value, SCHT among them, zero is the model's choice (log 1); memory reads as zero, its form
canonical (the model's choice where the spec gives no value, log 2). -/
def Obligations.ResetLeavesTheResetValues : Prop :=
  let s := State.reset
  s.Inv ∧ (∀ a, readByte s.mem a = 0#8) ∧ s.boot = .waiting ∧ s.locked = false ∧ s.ncc = 0 ∧ s.scht = 0 ∧ s.cycle = 0 ∧
  (∀ u, let c := s.ctx u
    c.life = .unbound ∧ (∀ n, c.vr n = 0#4096 ∧ c.s (BitVec.ofNat 6 n) = 0#64 ∧ c.a (BitVec.ofNat 4 n) = 0#32) ∧
    c.mask 0#4 = BitVec.allOnes 1024 ∧ (∀ n : BitVec 4, n ≠ 0#4 → c.mask n = 0#1024) ∧
    c.fpcr = 0#5 ∧ c.fpstat = 0#7 ∧ c.seed = 0#64 ∧ c.srctr = 0#64 ∧ c.stage = 0xFE#8 ∧ c.vrot = 0 ∧ c.tagPend = 0#64 ∧
    c.tagSet = 0#64 ∧ c.mstat = 0#64 ∧ c.wid = 0#64 ∧ c.sp = {} ∧ c.loop = none ∧ c.pend = .none ∧ c.outbox = []) ∧
  (∀ k, (s.core k).routine = none ∧ (s.cluster k).streams = [] ∧ (s.kernel k).alive = false ∧ (s.cap k).valid = false ∧
    s.order k = [] ∧ (s.hq k).en = false ∧ (s.hq k).lcons = 0 ∧ (s.hq k).lcomp = 0 ∧ s.tlb k = [] ∧
    (mget {} s.expos k).limit = 2000 ∧ (mget {} s.expos k).lsexp = 16 ∧ (mget {} s.expos k).count = 0) ∧
  s.cmdList = [] ∧ s.poison = [] ∧ s.deadChs = [] ∧ s.shut = [] ∧ s.ringStarts = [] ∧ s.reports = []

/-- The invariant of the model (log 2): whatever step is taken, by the machine or by an instruction alone, memory keeps its
canonical form, so that two memories that read alike are equal. -/
def Obligations.EveryStepKeepsMemoryCanonical : Prop :=
  (∀ s t : State, s.Inv → step s = .next t → t.Inv) ∧ (∀ (i : Instr) (s t : State), s.Inv → exec i s = .next t → t.Inv) ∧
  (∀ s t : State, s.Inv → t.Inv → MemSame s t → s.mem = t.mem)

/-- R145: no instruction and no step ends in a fault or a refusal: an instruction of a bundle or a micro-word answers a next
state of its own effect or of the trap that the spec gives it, and an event of a unit, of the host or of another device one of its
effect; where such an event names a place that is not there the model gives it no effect, or a free value (DESIGN CHOICE, log 26). -/
def Obligations.EveryStepAnswersANextState : Prop :=
  (∀ (i : Instr) (s : State), ∃ t, exec i s = .next t) ∧ ∀ s : State, ∃ t, step s = .next t
end

