-- ==== Sys2Proof/Laws/Encoding.lean ====
section
/-! SUPPORT. The fields of the words that `encode` writes, read back (R37 to R58, R251). -/

namespace Sys2Proof

theorem b2n_le (b : Bool) : b2n b ≤ 1 := by cases b <;> decide
theorem b2n_false : b2n false = 0 := rfl
theorem b2n_true : b2n true = 1 := rfl

/-! ### Reading a field -/

theorem bit_of (w i : Nat) (b : Bool) (h : w / 2 ^ i % 2 = b2n b) : bit w i = b := by
  unfold bit; rw [h]; cases b <;> rfl

theorem bfld_of {n : Nat} (w lo : Nat) (v : BitVec n) (h : w / 2 ^ lo % 2 ^ n = v.toNat) : bfld w lo n = v :=
  BitVec.eq_of_toNat_eq (by simpa [bfld] using h)

theorem fld_of (w lo n v : Nat) (h : w / 2 ^ lo % 2 ^ n = v) : fld w lo n = v := h

/-! ### Codes -/

@[simp] theorem ETy.ofCode_code (t : ETy) : ETy.ofCode t.code = some t := by cases t <;> rfl
theorem ETy.code_lt (t : ETy) : t.code < 15 := by cases t <;> decide
@[simp] theorem Fls.ofCode_code (t : Fls) : Fls.ofCode t.code = some t := by cases t <;> rfl
theorem Fls.code_lt (t : Fls) : t.code < 3 := by cases t <;> decide
@[simp] theorem Scope.ofCode_code (t : Scope) : Scope.ofCode t.code = some t := by cases t <;> rfl
theorem Scope.code_lt (t : Scope) : t.code < 6 := by cases t <;> decide
@[simp] theorem Ord.ofCode_code (t : Ord) : Ord.ofCode t.code = some t := by cases t <;> rfl
theorem Ord.code_lt (t : Ord) : t.code < 4 := by cases t <;> decide
@[simp] theorem Cond.ofCode_code (t : Cond) : Cond.ofCode t.code = some t := by cases t <;> rfl
theorem Cond.code_lt (t : Cond) : t.code < 10 := by cases t <;> decide

/-- The two halves of well-formedness that the decoder checks. -/
theorem Instr.wf_parts {i : Instr} (h : i.wf = true) : i.zeroOk = true ∧ i.codeOk = true := by
  simp only [Instr.wf, Bool.and_eq_true] at h
  exact h.1

theorem checked_ok {ok : Bool} {i : Instr} (ho : ok = true) (h : i.wf = true) : checked ok (some i) = .ok i := by
  obtain ⟨hz, hc⟩ := Instr.wf_parts h
  simp [checked, ho, hz, hc]

/-! ### V words (R53) -/

/-- The fields of a V word. -/
theorem vWord_fields (op : Nat) (f : VF) (w : Nat) (hW : w = f.word op) (h : op < 256) :
    vRaw w = f ∧ fld w 56 8 = op ∧ fld w 12 4 = f.ty.code ∧ fld w 8 2 = f.fls.code := by
  have h1 := f.g.isLt; have h2 := f.opd.isLt; have h3 := f.opa.isLt; have h4 := f.opb.isLt; have h5 := f.msk.isLt
  have h6 := f.ty.code_lt; have h7 := f.ro.isLt; have h8 := f.fls.code_lt; have h9 := f.opx.isLt
  simp only [VF.word, Nat.reducePow] at *
  have ho : fld w 56 8 = op := fld_of _ _ _ _ (by simp only [Nat.reducePow]; omega)
  have ht : fld w 12 4 = f.ty.code := fld_of _ _ _ _ (by simp only [Nat.reducePow]; omega)
  have hf : fld w 8 2 = f.fls.code := fld_of _ _ _ _ (by simp only [Nat.reducePow]; omega)
  refine ⟨?_, ho, ht, hf⟩
  unfold vRaw
  rw [ht, hf, ETy.ofCode_code, Fls.ofCode_code,
    bfld_of w 53 f.g (by simp only [Nat.reducePow]; omega), bfld_of w 42 f.opd (by simp only [Nat.reducePow]; omega),
    bfld_of w 31 f.opa (by simp only [Nat.reducePow]; omega), bfld_of w 20 f.opb (by simp only [Nat.reducePow]; omega),
    bfld_of w 16 f.msk (by simp only [Nat.reducePow]; omega), bfld_of w 10 f.ro (by simp only [Nat.reducePow]; omega),
    bfld_of w 0 f.opx (by simp only [Nat.reducePow]; omega)]
  rfl

/-- Every V opcode may stand in VB (R59). -/
theorem decodeV_word (op : Nat) (mk : VF → Instr) (f : VF) (w : Nat) (hW : w = f.word op) (h : op < 256)
    (hm : vOp op = some mk) (hw : (mk f).wf = true) : decodeV true w = .ok (mk f) := by
  obtain ⟨hr, ho, ht, hf⟩ := vWord_fields op f w hW h
  have h6 := f.ty.code_lt; have h8 := f.fls.code_lt
  clear hW
  unfold decodeV
  rw [ho, hm, ht, hf, hr]
  simp only [Bool.not_true, Bool.false_and, Bool.false_eq_true, if_false]
  rw [if_neg (by omega)]
  exact checked_ok rfl hw

/-! ### Scratchpad blocks, L and S words (R54, R55) -/

theorem Spa.bits_lt (a : Spa) : a.bits < 2 ^ 26 := by
  cases a with
  | bank b au an inc off =>
    have h1 := b.isLt; have h2 := b2n_le au; have h3 := an.isLt; have h4 := b2n_le inc; have h5 := off.isLt
    simp only [Spa.bits, Nat.reducePow] at *; omega
  | queue q k wt =>
    have h1 := q.isLt; have h2 := k.isLt; have h3 := wt.isLt
    simp only [Spa.bits, Nat.reducePow] at *; omega

theorem spaRaw_word (k : Nat) (a : Spa) (w : Nat) (hW : w = k * 2 ^ 26 + a.bits) : spaRaw w = (a, true) := by
  cases a with
  | bank b au an inc off =>
    have h1 := b.isLt; have h2 := b2n_le au; have h3 := an.isLt; have h4 := b2n_le inc; have h5 := off.isLt
    simp only [Spa.bits, Nat.reducePow] at *
    have hb : bit w 25 = false := bit_of _ _ _ (by rw [b2n_false]; simp only [Nat.reducePow]; omega)
    unfold spaRaw
    rw [if_neg (by simp [hb]), bfld_of _ _ b (by simp only [Nat.reducePow]; omega),
      bit_of _ _ au (by simp only [Nat.reducePow]; omega), bfld_of _ _ an (by simp only [Nat.reducePow]; omega),
      bit_of _ _ inc (by simp only [Nat.reducePow]; omega), bfld_of _ _ off (by simp only [Nat.reducePow]; omega)]
  | queue q n wt =>
    have h1 := q.isLt; have h2 := n.isLt; have h3 := wt.isLt
    simp only [Spa.bits, Nat.reducePow] at *
    have hb : bit w 25 = true := bit_of _ _ _ (by rw [b2n_true]; simp only [Nat.reducePow]; omega)
    unfold spaRaw
    rw [if_pos hb, bfld_of _ _ q (by simp only [Nat.reducePow]; omega),
      bfld_of _ _ n (by simp only [Nat.reducePow]; omega), bfld_of _ _ wt (by simp only [Nat.reducePow]; omega),
      fld_of w 0 4 0 (by simp only [Nat.reducePow]; omega)]
    rfl

/-- The fields of an L or S word. -/
theorem lWord_fields (op : Nat) (f : LF) (w : Nat) (hW : w = f.word op) (h : op < 256) :
    lRaw w = f ∧ fld w 56 8 = op ∧ fld w 35 4 = f.ty.code ∧ (spaRaw w).2 = true := by
  have h1 := f.g.isLt; have h2 := f.opd.isLt; have h3 := f.sh.isLt; have h4 := b2n_le f.sw; have h5 := f.ty.code_lt
  have h6 := f.opx.isLt; have h7 := f.spa.bits_lt
  have hs := spaRaw_word (op * 2 ^ 30 + f.g.toNat * 2 ^ 27 + f.opd.toNat * 2 ^ 16 + f.sh.toNat * 2 ^ 14 + b2n f.sw * 2 ^ 13 +
    f.ty.code * 2 ^ 9 + f.opx.toNat) f.spa w (by rw [hW]; simp only [LF.word, Nat.reducePow]; omega)
  simp only [LF.word, Nat.reducePow] at hW h1 h2 h3 h4 h5 h6 h7
  have ht : fld w 35 4 = f.ty.code := fld_of _ _ _ _ (by simp only [Nat.reducePow]; omega)
  refine ⟨?_, fld_of _ _ _ _ (by simp only [Nat.reducePow]; omega), ht, by rw [hs]⟩
  unfold lRaw
  rw [ht, hs, ETy.ofCode_code, bfld_of w 53 f.g (by simp only [Nat.reducePow]; omega),
    bfld_of w 42 f.opd (by simp only [Nat.reducePow]; omega), bfld_of w 40 f.sh (by simp only [Nat.reducePow]; omega),
    bit_of w 39 f.sw (by simp only [Nat.reducePow]; omega), bfld_of w 26 f.opx (by simp only [Nat.reducePow]; omega)]
  rfl

theorem lCheck_word (op : Nat) (mk : LF → Instr) (f : LF) (w : Nat) (hW : w = f.word op) (h : op < 256)
    (hw : (mk f).wf = true) : lCheck w mk = .ok (mk f) := by
  obtain ⟨hr, -, ht, hs⟩ := lWord_fields op f w hW h
  have h5 := f.ty.code_lt
  clear hW
  unfold lCheck
  rw [ht, hr, hs, if_neg (by omega)]
  exact checked_ok rfl hw

theorem decodeL_word (op : Nat) (mk : LF → Instr) (f : LF) (w : Nat) (hW : w = f.word op) (h : op < 256)
    (hm : lOp op = some mk) (hw : (mk f).wf = true) : decodeL w = .ok (mk f) := by
  have ho := (lWord_fields op f w hW h).2.1
  unfold decodeL
  rw [ho, hm]
  exact lCheck_word op mk f w hW h hw

theorem decodeS_word (op : Nat) (mk : LF → Instr) (f : LF) (w : Nat) (hW : w = f.word op) (h : op < 4)
    (hm : sOp op = some mk) (hw : (mk f).wf = true) : decodeS w = .ok (mk f) := by
  have h' : op < 256 := by omega
  have ho := (lWord_fields op f w hW h').2.1
  unfold decodeS
  rw [ho, hm, if_neg (by omega)]
  exact lCheck_word op mk f w hW h' hw

/-! ### C words (R56) -/

/-- Code of a scope field; 0 where its flag is clear. -/
def scopeCode : Option Scope → Nat
  | none => 0
  | some s => s.code

theorem scopeCode_lt (o : Option Scope) : scopeCode o < 6 := by
  cases o with
  | none => decide
  | some s => exact s.code_lt

theorem scopeBits_eq (p r : Nat) (o : Option Scope) : scopeBits p r o = b2n o.isSome * 2 ^ p + scopeCode o * 2 ^ r := by
  cases o <;> simp [scopeBits, scopeCode, b2n]

/-- The fields of a C word. -/
theorem cWord_fields (op : Nat) (f : CF) (opx low : Nat) (w : Nat) (hW : w = f.word op opx low) (h : op < 256)
    (hx : opx < 16) (hl : low < 2 ^ 26) :
    cRaw w = (f, true, true) ∧ fld w 56 8 = op ∧ fld w 0 30 = opx * 2 ^ 26 + low ∧ bit w 46 = f.aq.isSome ∧
    bit w 42 = f.rl.isSome := by
  obtain ⟨g, tag, aq, rl, sh, sw, sa⟩ := f
  have h1 := g.isLt; have h2 := tag.isLt; have h3 := sh.isLt; have h4 := b2n_le sw; have h5 := sa.isLt
  have h6 := scopeCode_lt aq; have h7 := scopeCode_lt rl; have h8 := b2n_le aq.isSome; have h9 := b2n_le rl.isSome
  rw [CF.word, scopeBits_eq, scopeBits_eq] at hW
  simp only [Nat.reducePow] at *
  have k1 : bit w 46 = aq.isSome := bit_of _ _ _ (by simp only [Nat.reducePow]; omega)
  have k2 : bit w 42 = rl.isSome := bit_of _ _ _ (by simp only [Nat.reducePow]; omega)
  have k3 : fld w 43 3 = scopeCode aq := fld_of _ _ _ _ (by simp only [Nat.reducePow]; omega)
  have k4 : fld w 39 3 = scopeCode rl := fld_of _ _ _ _ (by simp only [Nat.reducePow]; omega)
  have k5 : fld w 56 8 = op := fld_of _ _ _ _ (by simp only [Nat.reducePow]; omega)
  have k6 : fld w 0 30 = opx * 67108864 + low := fld_of _ _ _ _ (by simp only [Nat.reducePow]; omega)
  have k7 : bfld w 53 3 = g := bfld_of _ _ _ (by simp only [Nat.reducePow]; omega)
  have k8 : bfld w 47 6 = tag := bfld_of _ _ _ (by simp only [Nat.reducePow]; omega)
  have k9 : bfld w 37 2 = sh := bfld_of _ _ _ (by simp only [Nat.reducePow]; omega)
  have k10 : bit w 36 = sw := bit_of _ _ _ (by simp only [Nat.reducePow]; omega)
  have k11 : bfld w 30 6 = sa := bfld_of _ _ _ (by simp only [Nat.reducePow]; omega)
  clear hW
  refine ⟨?_, k5, k6, k1, k2⟩
  unfold cRaw
  rw [k1, k2, k3, k4, k7, k8, k9, k10, k11]
  cases aq <;> cases rl <;> simp [scopeCode]

theorem cCheck_ok {w : Nat} {ok : Bool} {i : Instr} (hr : (cRaw w).2 = (true, true)) (ho : ok = true) (h : i.wf = true) :
    cCheck w ok i true = .ok i := by
  obtain ⟨hz, hc⟩ := Instr.wf_parts h
  simp [cCheck, hr, ho, hz, hc]

/-- The fields of a C word with a scratchpad block. -/
theorem cSpa_fields (op : Nat) (f : CF) (opx : Nat) (a : Spa) (w : Nat) (hW : w = f.word op opx a.bits) (h : op < 256)
    (hx : opx < 16) :
    cRaw w = (f, true, true) ∧ spaRaw w = (a, true) ∧ fld w 56 8 = op ∧ w / 2 ^ 26 % 2 ^ 4 = opx := by
  obtain ⟨hc, ho, hl, -, -⟩ := cWord_fields op f opx a.bits w hW h hx a.bits_lt
  have ha := a.bits_lt
  clear hW
  refine ⟨hc, spaRaw_word (w / 2 ^ 26) a w ?_, ho, ?_⟩
  · simp only [fld, Nat.reducePow] at *; omega
  · simp only [fld, Nat.reducePow] at *; omega

/-! ### X words (R52) -/

/-- An X-R word. -/
def xrWord (op : Nat) (g : BitVec 3) (sd sa sb sx cc n : Nat) : Nat :=
  op * 2 ^ 56 + g.toNat * 2 ^ 53 + sd * 2 ^ 46 + sa * 2 ^ 40 + sb * 2 ^ 34 + sx * 2 ^ 28 + cc * 2 ^ 24 + n * 2 ^ 23

/-- An X-I word. -/
def xiWord (op : Nat) (g : BitVec 3) (sd sa cc n imm : Nat) : Nat :=
  op * 2 ^ 56 + g.toNat * 2 ^ 53 + 2 ^ 52 + sd * 2 ^ 46 + sa * 2 ^ 40 + cc * 2 ^ 36 + n * 2 ^ 35 + imm

theorem xrWord_fields (op : Nat) (g : BitVec 3) (sd sa sb sx : BitVec 6) (cc : Nat) (n : Bool) (w : Nat)
    (hW : w = xrWord op g sd.toNat sa.toNat sb.toNat sx.toNat cc (b2n n)) (h : op < 256) (h5 : cc < 16) :
    fld w 56 8 = op ∧ xRaw w = ⟨g, false, sd, sa, sb, sx, cc, n, 0, 0⟩ := by
  have h0 := g.isLt; have h1 := sd.isLt; have h2 := sa.isLt; have h3 := sb.isLt; have h4 := sx.isLt; have h6 := b2n_le n
  simp only [xrWord, Nat.reducePow] at *
  have hi : bit w 52 = false := bit_of _ _ _ (by rw [b2n_false]; simp only [Nat.reducePow]; omega)
  refine ⟨fld_of _ _ _ _ (by simp only [Nat.reducePow]; omega), ?_⟩
  unfold xRaw
  rw [if_neg (by simp [hi]), bfld_of w 53 g (by simp only [Nat.reducePow]; omega),
    bfld_of w 46 sd (by simp only [Nat.reducePow]; omega), bfld_of w 40 sa (by simp only [Nat.reducePow]; omega),
    bfld_of w 34 sb (by simp only [Nat.reducePow]; omega), bfld_of w 28 sx (by simp only [Nat.reducePow]; omega),
    fld_of w 24 4 cc (by simp only [Nat.reducePow]; omega), bit_of w 23 n (by simp only [Nat.reducePow]; omega),
    fld_of w 0 23 0 (by simp only [Nat.reducePow]; omega)]

theorem xiWord_fields (op : Nat) (g : BitVec 3) (sd sa : BitVec 6) (cc : Nat) (n : Bool) (imm : BitVec 32) (w : Nat)
    (hW : w = xiWord op g sd.toNat sa.toNat cc (b2n n) imm.toNat) (h : op < 256) (h5 : cc < 16) :
    fld w 56 8 = op ∧ xRaw w = ⟨g, true, sd, sa, 0, 0, cc, n, imm, 0⟩ := by
  have h0 := g.isLt; have h1 := sd.isLt; have h2 := sa.isLt; have h3 := imm.isLt; have h6 := b2n_le n
  simp only [xiWord, Nat.reducePow] at *
  have hi : bit w 52 = true := bit_of _ _ _ (by rw [b2n_true]; simp only [Nat.reducePow]; omega)
  refine ⟨fld_of _ _ _ _ (by simp only [Nat.reducePow]; omega), ?_⟩
  unfold xRaw
  rw [if_pos hi, bfld_of w 53 g (by simp only [Nat.reducePow]; omega),
    bfld_of w 46 sd (by simp only [Nat.reducePow]; omega), bfld_of w 40 sa (by simp only [Nat.reducePow]; omega),
    fld_of w 36 4 cc (by simp only [Nat.reducePow]; omega), bit_of w 35 n (by simp only [Nat.reducePow]; omega),
    bfld_of w 0 imm (by simp only [Nat.reducePow]; omega), fld_of w 32 3 0 (by simp only [Nat.reducePow]; omega)]

end Sys2Proof
end

