-- ==== Sys2Proof/Laws/Lanes.lean ====
section
/-! SUPPORT. Lanes: what packed lanes read as, and what a masked write leaves. -/

namespace Sys2Proof

theorem ETy.width_mul_lanes (t : ETy) : t.width * t.lanes = 4096 := by cases t <;> decide

end Sys2Proof

namespace Sys2Proof.Machine

theorem laneAt_lt (w v i : Nat) : laneAt w v i < 2 ^ w := Nat.mod_lt _ (Nat.two_pow_pos w)

theorem lane_lt (t : ETy) (v : VReg) (i : Nat) : lane t v i < 2 ^ t.width := Nat.mod_lt _ (Nat.two_pow_pos _)

theorem packLanes_lt (w : Nat) (l : List Nat) : packLanes w l < 2 ^ (w * l.length) := by
  induction l with
  | nil => simp [packLanes]
  | cons x l ih =>
    have h := Nat.mod_lt x (Nat.two_pow_pos w)
    have e : 2 ^ (w * (l.length + 1)) = 2 ^ w * 2 ^ (w * l.length) := by rw [← Nat.pow_add, Nat.mul_succ, Nat.add_comm]
    simp only [packLanes, List.length_cons, e]
    calc x % 2 ^ w + 2 ^ w * packLanes w l < 2 ^ w + 2 ^ w * packLanes w l := by omega
      _ = 2 ^ w * (packLanes w l + 1) := by rw [Nat.mul_add, Nat.mul_one, Nat.add_comm]
      _ ≤ 2 ^ w * 2 ^ (w * l.length) := Nat.mul_le_mul_left _ ih

/-- Lane `k` of packed lanes is the `k`-th of them. -/
theorem laneAt_packLanes (w : Nat) (l : List Nat) (k : Nat) (h : k < l.length) :
    laneAt w (packLanes w l) k = l[k] % 2 ^ w := by
  induction l generalizing k with
  | nil => simp at h
  | cons x l ih =>
    have hx := Nat.mod_lt x (Nat.two_pow_pos w)
    cases k with
    | zero =>
      simp only [laneAt, packLanes, Nat.mul_zero, Nat.pow_zero, Nat.div_one, List.getElem_cons_zero]
      rw [Nat.add_mul_mod_self_left, Nat.mod_mod]
    | succ k =>
      have e : 2 ^ (w * (k + 1)) = 2 ^ w * 2 ^ (w * k) := by rw [← Nat.pow_add, Nat.mul_succ, Nat.add_comm]
      simp only [laneAt, packLanes, List.getElem_cons_succ, e]
      rw [← Nat.div_div_eq_div_mul, Nat.add_mul_div_left _ _ (Nat.two_pow_pos w), Nat.div_eq_of_lt hx, Nat.zero_add]
      exact ih k (by simpa using h)

/-- Bit `j` of lane `k`. -/
theorem laneAt_testBit (w v k j : Nat) : (laneAt w v k).testBit j = (decide (j < w) && v.testBit (w * k + j)) := by
  simp only [laneAt, Nat.testBit_mod_two_pow, Nat.testBit_div_two_pow, Nat.add_comm]

theorem lane_eq (t : ETy) (v : VReg) (k : Nat) : lane t v k = laneAt t.width v.toNat k := rfl

/-- A lane of a register all of whose lanes are in 4,096 bits. -/
theorem lane_ofNat (t : ETy) (v k : Nat) (hk : k < t.lanes) : lane t (BitVec.ofNat 4096 v) k = laneAt t.width v k := by
  rw [lane_eq]
  apply Nat.eq_of_testBit_eq
  intro j
  rw [laneAt_testBit, laneAt_testBit, BitVec.toNat_ofNat, Nat.testBit_mod_two_pow]
  by_cases hj : j < t.width
  · have h1 := t.width_mul_lanes
    have h2 : t.width * k + t.width ≤ t.width * t.lanes := by
      rw [← Nat.mul_succ]; exact Nat.mul_le_mul_left _ hk
    have : t.width * k + j < 4096 := by omega
    simp [hj, this]
  · simp [hj]

/-- A masked write, lane by lane: a lane whose mask is all ones takes the new bits, one whose mask is 0 keeps the old. -/
theorem lane_merge (t : ETy) (old val mask : VReg) (k : Nat) (on : Bool)
    (hm : lane t mask k = if on then 2 ^ t.width - 1 else 0) :
    lane t ((old &&& ~~~mask) ||| (val &&& mask)) k = if on then lane t val k else lane t old k := by
  have hb : ∀ j, j < t.width → mask.toNat.testBit (t.width * k + j) = on := by
    intro j hj
    have h := congrArg (fun n => n.testBit j) hm
    simp only [lane_eq, laneAt_testBit, hj, decide_true, Bool.true_and] at h
    rw [h]
    cases on
    · simp
    · simp [Nat.testBit_two_pow_sub_one, hj]
  apply Nat.eq_of_testBit_eq
  intro j
  have e : ∀ x : VReg, (lane t x k).testBit j = (decide (j < t.width) && x.toNat.testBit (t.width * k + j)) :=
    fun x => by rw [lane_eq, laneAt_testBit]
  rw [e]
  by_cases hj : j < t.width
  · have hm' := hb j hj
    rw [← BitVec.getLsbD] at hm'
    rw [← BitVec.getLsbD, BitVec.getLsbD_or, BitVec.getLsbD_and, BitVec.getLsbD_and, BitVec.getLsbD_not, hm']
    cases on
    · simp only [Bool.false_eq_true, if_false, e, hj, decide_true, Bool.true_and, Bool.not_false, Bool.and_true,
        Bool.and_false, Bool.or_false]
      by_cases hl : t.width * k + j < 4096
      · simp [hl, BitVec.getLsbD]
      · simp only [hl, decide_false, Bool.and_false]
        exact (BitVec.getLsbD_of_ge old _ (by omega)).symm
    · simp only [if_true, e, hj, decide_true, Bool.true_and, Bool.not_true, Bool.and_false, Bool.and_true, Bool.false_or]
      rfl
  · cases on <;> simp [e, hj]

/-! ### Lists of lane results -/

theorem laneResults_length (n : Nat) (act : Nat → Bool) (f : Nat → Nat × Flags) : (laneResults n act f).length = n := by
  simp [laneResults]

theorem laneResults_getElem (n : Nat) (act : Nat → Bool) (f : Nat → Nat × Flags) (k : Nat) (h : k < n) :
    (laneResults n act f)[k]'(by simpa [laneResults] using h) =
      if act k then ⟨true, (f k).1, (f k).2⟩ else ⟨false, 0, 0⟩ := by simp [laneResults]

/-- Lanes of the value and of the mask that lane results give. -/
theorem lane_lanesVal (t : ETy) (act : Nat → Bool) (f : Nat → Nat × Flags) (k : Nat) (hk : k < t.lanes) :
    lane t (lanesVal t.width (laneResults t.lanes act f)) k = if act k then (f k).1 % 2 ^ t.width else 0 := by
  rw [lanesVal, lane_ofNat _ _ _ hk, laneAt_packLanes _ _ _ (by simpa [laneResults] using hk)]
  cases h : act k <;> simp [laneResults, h]

theorem lane_lanesMask (t : ETy) (act : Nat → Bool) (f : Nat → Nat × Flags) (k : Nat) (hk : k < t.lanes) :
    lane t (lanesMask t.width (laneResults t.lanes act f)) k = if act k then 2 ^ t.width - 1 else 0 := by
  rw [lanesMask, lane_ofNat _ _ _ hk, laneAt_packLanes _ _ _ (by simpa [laneResults] using hk)]
  have hp := Nat.two_pow_pos t.width
  cases h : act k
  · simp [laneResults, h]
  · simp only [laneResults, List.getElem_map, List.getElem_range, h, if_true]
    exact Nat.mod_eq_of_lt (Nat.sub_lt hp Nat.one_pos)

theorem orLanes_eq (on : Nat → Bool) (f : Nat → Nat × Flags) (n : Nat) :
    lanesFlags (laneResults n on f) = orLanes on (fun k => (f k).2) n := by
  induction n with
  | zero => rfl
  | succ n ih =>
    rw [orLanes, ← ih]
    simp only [lanesFlags, laneResults, List.range_succ, List.map_append, List.map_cons, List.map_nil, List.foldl_append,
      List.foldl_cons, List.foldl_nil]
    cases on n <;> rfl

end Sys2Proof.Machine
end

