-- ==== Sys2Proof/Laws/Map.lean ====
section
/-! SUPPORT. Laws of sparse tables and of memory: read after write, and the canonical form kept by every operation. -/

namespace Sys2Proof.Machine

variable {α : Type}

/-! ### Reading -/

@[simp] theorem mget_nil (d : α) (k : Nat) : mget d [] k = d := rfl

theorem mget_cons (d : α) (j : Nat) (v : α) (l : Map α) (k : Nat) :
    mget d ((j, v) :: l) k = if j = k then v else mget d l k := rfl

theorem mget_merase (d : α) (m : Map α) (k j : Nat) :
    mget d (merase m k) j = if j = k then d else mget d m j := by
  induction m with
  | nil => simp [merase]
  | cons e l ih =>
    obtain ⟨i, v⟩ := e
    by_cases hi : i = k
    · subst hi
      simp only [merase, if_true, ih, mget_cons]
      by_cases hj : j = i
      · simp [hj]
      · simp [hj, Ne.symm hj]
    · simp only [merase, hi, if_false, mget_cons, ih]
      by_cases hj : j = k
      · subst hj; simp [hi]
      · simp [hj]

theorem mget_minsert (d : α) (m : Map α) (k : Nat) (v : α) (j : Nat) (h : mget d m k = d) (hk : ∀ w, (k, w) ∉ m) :
    mget d (minsert m k v) j = if j = k then v else mget d m j := by
  induction m with
  | nil =>
    by_cases hj : j = k
    · simp [minsert, mget_cons, hj]
    · simp [minsert, mget_cons, hj, Ne.symm hj]
  | cons e l ih =>
    obtain ⟨i, w⟩ := e
    have hik : i ≠ k := fun he => hk w (by simp [he])
    have hl : ∀ w, (k, w) ∉ l := fun w' hm => hk w' (List.mem_cons_of_mem _ hm)
    have hd : mget d l k = d := by simpa [mget_cons, hik] using h
    by_cases hlt : k < i
    · simp only [minsert, hlt, if_true, mget_cons]
      by_cases hj : j = k
      · simp [hj]
      · simp [hj, Ne.symm hj]
    · simp only [minsert, hlt, if_false, mget_cons, ih hd hl]
      by_cases hij : i = j
      · subst hij; simp [hik]
      · simp [hij]

theorem not_mem_merase (m : Map α) (k : Nat) (w : α) : (k, w) ∉ merase m k := by
  induction m with
  | nil => simp [merase]
  | cons e l ih =>
    obtain ⟨i, v⟩ := e
    by_cases hi : i = k
    · simpa [merase, hi] using ih
    · simp [merase, hi, ih, Ne.symm hi]

variable [DecidableEq α]

/-- Reading a table after a write. -/
theorem mget_mset (d : α) (m : Map α) (k : Nat) (v : α) (j : Nat) :
    mget d (mset d m k v) j = if j = k then v else mget d m j := by
  unfold mset
  by_cases hv : v = d
  · simp only [hv, if_true, mget_merase]
  · simp only [hv, if_false]
    rw [mget_minsert d _ k v j (by simp [mget_merase]) (not_mem_merase m k), mget_merase]
    by_cases hj : j = k <;> simp [hj]

@[simp] theorem mget_mset_same (d : α) (m : Map α) (k : Nat) (v : α) : mget d (mset d m k v) k = v := by
  simp [mget_mset]

@[simp] theorem mget_mset_ne (d : α) (m : Map α) (k j : Nat) (v : α) (h : j ≠ k) :
    mget d (mset d m k v) j = mget d m j := by simp [mget_mset, h]

/-! ### The canonical form -/

theorem mwfFrom_mono (d : α) {lo lo' : Nat} {m : Map α} (h : mwfFrom d lo m = true) (hl : lo' ≤ lo) :
    mwfFrom d lo' m = true := by
  cases m with
  | nil => rfl
  | cons e l =>
    obtain ⟨k, v⟩ := e
    simp only [mwfFrom, Bool.and_eq_true, decide_eq_true_eq] at h ⊢
    exact ⟨⟨Nat.le_trans hl h.1.1, h.1.2⟩, h.2⟩

theorem mwfFrom_merase (d : α) (k : Nat) {lo : Nat} {m : Map α} (h : mwfFrom d lo m = true) :
    mwfFrom d lo (merase m k) = true := by
  induction m generalizing lo with
  | nil => rfl
  | cons e l ih =>
    obtain ⟨i, v⟩ := e
    simp only [mwfFrom, Bool.and_eq_true, decide_eq_true_eq] at h
    by_cases hi : i = k
    · simpa [merase, hi] using mwfFrom_mono d (ih h.2) (Nat.le_succ_of_le h.1.1)
    · simp [merase, hi, mwfFrom, h.1.1, h.1.2, ih h.2]

theorem mwfFrom_minsert (d : α) (k : Nat) (v : α) (hv : v ≠ d) {lo : Nat} {m : Map α} (h : mwfFrom d lo m = true)
    (hlo : lo ≤ k) (hk : ∀ w, (k, w) ∉ m) : mwfFrom d lo (minsert m k v) = true := by
  induction m generalizing lo with
  | nil => simp [minsert, mwfFrom, hlo, hv]
  | cons e l ih =>
    obtain ⟨i, w⟩ := e
    simp only [mwfFrom, Bool.and_eq_true, decide_eq_true_eq] at h
    have hik : i ≠ k := fun he => hk w (by simp [he])
    by_cases hlt : k < i
    · simp [minsert, hlt, mwfFrom, hlo, hv, h.1.2, h.2, Nat.succ_le_of_lt hlt]
    · have hl : ∀ w, (k, w) ∉ l := fun w' hm => hk w' (List.mem_cons_of_mem _ hm)
      simp [minsert, hlt, mwfFrom, h.1.1, h.1.2, ih h.2 (by omega) hl]

/-- A write keeps a table in canonical form. -/
theorem mwf_mset (d : α) (m : Map α) (k : Nat) (v : α) (h : mwf d m = true) : mwf d (mset d m k v) = true := by
  unfold mset
  split
  · exact mwfFrom_merase d k h
  · next hv => exact mwfFrom_minsert d k v hv (mwfFrom_merase d k h) (Nat.zero_le k) (not_mem_merase m k)

theorem mwfFrom_filter (d : α) (p : Nat × α → Bool) {lo : Nat} {m : Map α} (h : mwfFrom d lo m = true) :
    mwfFrom d lo (m.filter p) = true := by
  induction m generalizing lo with
  | nil => rfl
  | cons e l ih =>
    obtain ⟨i, v⟩ := e
    simp only [mwfFrom, Bool.and_eq_true, decide_eq_true_eq] at h
    by_cases hp : p (i, v) = true
    · simp [hp, mwfFrom, h.1.1, h.1.2, ih h.2]
    · simpa [List.filter_cons, hp] using mwfFrom_mono d (ih h.2) (Nat.le_succ_of_le h.1.1)

/-- Leaving entries out keeps a table in canonical form. -/
theorem mwf_filter (d : α) (p : Nat × α → Bool) (m : Map α) (h : mwf d m = true) : mwf d (m.filter p) = true :=
  mwfFrom_filter d p h

/-- A canonical table lists nothing below its first key. -/
theorem mget_below (d : α) {lo : Nat} {m : Map α} (h : mwfFrom d lo m = true) {k : Nat} (hk : k < lo) : mget d m k = d := by
  induction m generalizing lo with
  | nil => rfl
  | cons e l ih =>
    obtain ⟨i, v⟩ := e
    simp only [mwfFrom, Bool.and_eq_true, decide_eq_true_eq] at h
    have : i ≠ k := by omega
    simp [mget_cons, this, ih h.2 (Nat.lt_succ_of_lt (Nat.lt_of_lt_of_le hk h.1.1))]

/-! ### Memory -/

theorem readByte_writeByte (m : Memory) (a b : Nat) (v : BitVec 8) :
    readByte (writeByte m a v) b = if b = a then v else readByte m b := mget_mset _ _ _ _ _

theorem wf_writeByte (m : Memory) (a : Nat) (v : BitVec 8) (h : Memory.wf m = true) :
    Memory.wf (writeByte m a v) = true := mwf_mset _ _ _ _ h

theorem wf_writeRun (m : Memory) (a n v : Nat) (h : Memory.wf m = true) : Memory.wf (writeRun m a n v) = true := by
  induction n generalizing m a v with
  | zero => exact h
  | succ n ih => exact ih _ _ _ (wf_writeByte _ _ _ h)

theorem wf_writeBank (m : Memory) (core bank off n v mask : Nat) (h : Memory.wf m = true) :
    Memory.wf (writeBank m core bank off n v mask) = true := by
  induction n generalizing m off v mask with
  | zero => exact h
  | succ n ih => exact ih _ _ _ _ (wf_writeByte _ _ _ h)

theorem wf_writePieces (m : Memory) (core bank : Nat) (l : List (Nat × Nat × Nat × Nat)) (h : Memory.wf m = true) :
    Memory.wf (writePieces m core bank l) = true := by
  induction l generalizing m with
  | nil => exact h
  | cons p l ih => exact ih _ (wf_writeBank _ _ _ _ _ _ _ h)

theorem wf_filter (m : Memory) (p : Nat × BitVec 8 → Bool) (h : Memory.wf m = true) : Memory.wf (m.filter p) = true :=
  mwf_filter _ _ _ h

/-- A run written outside the byte read leaves it. -/
theorem readByte_writeRun_of_out (m : Memory) (a n v b : Nat) (h : b < a ∨ a + n ≤ b) :
    readByte (writeRun m a n v) b = readByte m b := by
  induction n generalizing m a v with
  | zero => rfl
  | succ n ih =>
    rw [writeRun, ih _ _ _ (by omega), readByte_writeByte, if_neg (by omega)]

/-- A byte inside a run that has been written. -/
theorem readByte_writeRun_of_in (m : Memory) (a n v i : Nat) (h : i < n) :
    readByte (writeRun m a n v) (a + i) = BitVec.ofNat 8 (v / 256 ^ i) := by
  induction n generalizing m a v i with
  | zero => omega
  | succ n ih =>
    cases i with
    | zero =>
      rw [writeRun, readByte_writeRun_of_out _ _ _ _ _ (by omega), readByte_writeByte]
      simp
    | succ i =>
      rw [writeRun, show a + (i + 1) = a + 1 + i by omega, ih _ _ _ _ (by omega), Nat.pow_succ', Nat.div_div_eq_div_mul]

/-- A store to a bank leaves every byte outside its run. -/
theorem readByte_writeBank_of_out (m : Memory) (core bank off n v mask b : Nat)
    (h : ∀ i, i < n → b ≠ unitLoc core bank (off + i)) : readByte (writeBank m core bank off n v mask) b = readByte m b := by
  induction n generalizing m off v mask with
  | zero => rfl
  | succ n ih =>
    have h0 : b ≠ unitLoc core bank off := h 0 (Nat.succ_pos n)
    rw [writeBank, ih _ _ _ _ (fun i hi => by simpa [Nat.add_assoc, Nat.add_comm 1 i] using h (i + 1) (by omega)),
      readByte_writeByte, if_neg h0]

/-- Reading back a run gives the number written. -/
theorem readRun_writeRun (m : Memory) (a n v : Nat) : readRun (writeRun m a n v) a n = v % 256 ^ n := by
  have key : ∀ k j w, k + j ≤ n → w = v / 256 ^ j → readRun (writeRun m a n v) (a + j) k = w % 256 ^ k := by
    intro k
    induction k with
    | zero => intro j w _ _; simp [readRun, Nat.mod_one]
    | succ k ih =>
      intro j w hk hw
      have hb := readByte_writeRun_of_in m a n v j (by omega)
      rw [readRun, hb, Nat.add_assoc a j 1, ih (j + 1) (w / 256) (by omega)
        (by rw [hw, Nat.div_div_eq_div_mul, Nat.pow_succ])]
      rw [hw, BitVec.toNat_ofNat, show 256 ^ (k + 1) = 256 * 256 ^ k from Nat.pow_succ', Nat.mod_mul]
  simpa using key n 0 v (by omega) (by simp)

end Sys2Proof.Machine
end

