-- ==== Sys2Proof/Laws/State.lean ====
section
/-! SUPPORT. What each named update of the state changes: one lemma for each field and update, so that no later proof
unfolds a record update. -/

namespace Sys2Proof.Machine

variable (s : State)

/-! ### `setCtx` -/

@[simp] theorem State.setCtx_cycle (u : Nat) (c : Ctx) : (s.setCtx u c).cycle = s.cycle := rfl
@[simp] theorem State.setCtx_issued (u : Nat) (c : Ctx) : (s.setCtx u c).issued = s.issued := rfl
@[simp] theorem State.setCtx_cur (u : Nat) (c : Ctx) : (s.setCtx u c).cur = s.cur := rfl
@[simp] theorem State.setCtx_iss (u : Nat) (c : Ctx) : (s.setCtx u c).iss = s.iss := rfl
@[simp] theorem State.setCtx_rcore (u : Nat) (c : Ctx) : (s.setCtx u c).rcore = s.rcore := rfl
@[simp] theorem State.setCtx_freeCtr (u : Nat) (c : Ctx) : (s.setCtx u c).freeCtr = s.freeCtr := rfl
@[simp] theorem State.setCtx_nextId (u : Nat) (c : Ctx) : (s.setCtx u c).nextId = s.nextId := rfl
@[simp] theorem State.setCtx_agenda (u : Nat) (c : Ctx) : (s.setCtx u c).agenda = s.agenda := rfl
@[simp] theorem State.setCtx_cores (u : Nat) (c : Ctx) : (s.setCtx u c).cores = s.cores := rfl
@[simp] theorem State.setCtx_clusters (u : Nat) (c : Ctx) : (s.setCtx u c).clusters = s.clusters := rfl
@[simp] theorem State.setCtx_benches (u : Nat) (c : Ctx) : (s.setCtx u c).benches = s.benches := rfl
@[simp] theorem State.setCtx_kernels (u : Nat) (c : Ctx) : (s.setCtx u c).kernels = s.kernels := rfl
@[simp] theorem State.setCtx_inflight (u : Nat) (c : Ctx) : (s.setCtx u c).inflight = s.inflight := rfl
@[simp] theorem State.setCtx_ends (u : Nat) (c : Ctx) : (s.setCtx u c).ends = s.ends := rfl
@[simp] theorem State.setCtx_stores (u : Nat) (c : Ctx) : (s.setCtx u c).stores = s.stores := rfl
@[simp] theorem State.setCtx_putqs (u : Nat) (c : Ctx) : (s.setCtx u c).putqs = s.putqs := rfl
@[simp] theorem State.setCtx_mem (u : Nat) (c : Ctx) : (s.setCtx u c).mem = s.mem := rfl
@[simp] theorem State.setCtx_poison (u : Nat) (c : Ctx) : (s.setCtx u c).poison = s.poison := rfl
@[simp] theorem State.setCtx_eccCount (u : Nat) (c : Ctx) : (s.setCtx u c).eccCount = s.eccCount := rfl
@[simp] theorem State.setCtx_ncc (u : Nat) (c : Ctx) : (s.setCtx u c).ncc = s.ncc := rfl
@[simp] theorem State.setCtx_orders (u : Nat) (c : Ctx) : (s.setCtx u c).orders = s.orders := rfl
@[simp] theorem State.setCtx_expos (u : Nat) (c : Ctx) : (s.setCtx u c).expos = s.expos := rfl
@[simp] theorem State.setCtx_sigs (u : Nat) (c : Ctx) : (s.setCtx u c).sigs = s.sigs := rfl
@[simp] theorem State.setCtx_cmds (u : Nat) (c : Ctx) : (s.setCtx u c).cmds = s.cmds := rfl
@[simp] theorem State.setCtx_ceNext (u : Nat) (c : Ctx) : (s.setCtx u c).ceNext = s.ceNext := rfl
@[simp] theorem State.setCtx_ceLast (u : Nat) (c : Ctx) : (s.setCtx u c).ceLast = s.ceLast := rfl
@[simp] theorem State.setCtx_collLast (u : Nat) (c : Ctx) : (s.setCtx u c).collLast = s.collLast := rfl
@[simp] theorem State.setCtx_tlbs (u : Nat) (c : Ctx) : (s.setCtx u c).tlbs = s.tlbs := rfl
@[simp] theorem State.setCtx_faultSeq (u : Nat) (c : Ctx) : (s.setCtx u c).faultSeq = s.faultSeq := rfl
@[simp] theorem State.setCtx_slip (u : Nat) (c : Ctx) : (s.setCtx u c).slip = s.slip := rfl
@[simp] theorem State.setCtx_slipRing (u : Nat) (c : Ctx) : (s.setCtx u c).slipRing = s.slipRing := rfl
@[simp] theorem State.setCtx_caps (u : Nat) (c : Ctx) : (s.setCtx u c).caps = s.caps := rfl
@[simp] theorem State.setCtx_cells (u : Nat) (c : Ctx) : (s.setCtx u c).cells = s.cells := rfl
@[simp] theorem State.setCtx_shut (u : Nat) (c : Ctx) : (s.setCtx u c).shut = s.shut := rfl
@[simp] theorem State.setCtx_revokes (u : Nat) (c : Ctx) : (s.setCtx u c).revokes = s.revokes := rfl
@[simp] theorem State.setCtx_deadChs (u : Nat) (c : Ctx) : (s.setCtx u c).deadChs = s.deadChs := rfl
@[simp] theorem State.setCtx_locked (u : Nat) (c : Ctx) : (s.setCtx u c).locked = s.locked := rfl
@[simp] theorem State.setCtx_evbase (u : Nat) (c : Ctx) : (s.setCtx u c).evbase = s.evbase := rfl
@[simp] theorem State.setCtx_fabcfg (u : Nat) (c : Ctx) : (s.setCtx u c).fabcfg = s.fabcfg := rfl
@[simp] theorem State.setCtx_exports (u : Nat) (c : Ctx) : (s.setCtx u c).exports = s.exports := rfl
@[simp] theorem State.setCtx_jobTags (u : Nat) (c : Ctx) : (s.setCtx u c).jobTags = s.jobTags := rfl
@[simp] theorem State.setCtx_ports (u : Nat) (c : Ctx) : (s.setCtx u c).ports = s.ports := rfl
@[simp] theorem State.setCtx_links (u : Nat) (c : Ctx) : (s.setCtx u c).links = s.links := rfl
@[simp] theorem State.setCtx_arbw (u : Nat) (c : Ctx) : (s.setCtx u c).arbw = s.arbw := rfl
@[simp] theorem State.setCtx_arbwNext (u : Nat) (c : Ctx) : (s.setCtx u c).arbwNext = s.arbwNext := rfl
@[simp] theorem State.setCtx_hqs (u : Nat) (c : Ctx) : (s.setCtx u c).hqs = s.hqs := rfl
@[simp] theorem State.setCtx_lastQ (u : Nat) (c : Ctx) : (s.setCtx u c).lastQ = s.lastQ := rfl
@[simp] theorem State.setCtx_pool (u : Nat) (c : Ctx) : (s.setCtx u c).pool = s.pool := rfl
@[simp] theorem State.setCtx_aborts (u : Nat) (c : Ctx) : (s.setCtx u c).aborts = s.aborts := rfl
@[simp] theorem State.setCtx_roots (u : Nat) (c : Ctx) : (s.setCtx u c).roots = s.roots := rfl
@[simp] theorem State.setCtx_budgets (u : Nat) (c : Ctx) : (s.setCtx u c).budgets = s.budgets := rfl
@[simp] theorem State.setCtx_budNext (u : Nat) (c : Ctx) : (s.setCtx u c).budNext = s.budNext := rfl
@[simp] theorem State.setCtx_boot (u : Nat) (c : Ctx) : (s.setCtx u c).boot = s.boot := rfl
@[simp] theorem State.setCtx_bootaddr (u : Nat) (c : Ctx) : (s.setCtx u c).bootaddr = s.bootaddr := rfl
@[simp] theorem State.setCtx_image (u : Nat) (c : Ctx) : (s.setCtx u c).image = s.image := rfl
@[simp] theorem State.setCtx_scht (u : Nat) (c : Ctx) : (s.setCtx u c).scht = s.scht := rfl
@[simp] theorem State.setCtx_reloc (u : Nat) (c : Ctx) : (s.setCtx u c).reloc = s.reloc := rfl
@[simp] theorem State.setCtx_evicted (u : Nat) (c : Ctx) : (s.setCtx u c).evicted = s.evicted := rfl
@[simp] theorem State.setCtx_cresumes (u : Nat) (c : Ctx) : (s.setCtx u c).cresumes = s.cresumes := rfl
@[simp] theorem State.setCtx_ringAborts (u : Nat) (c : Ctx) : (s.setCtx u c).ringAborts = s.ringAborts := rfl
@[simp] theorem State.setCtx_ringStarts (u : Nat) (c : Ctx) : (s.setCtx u c).ringStarts = s.ringStarts := rfl
@[simp] theorem State.setCtx_inbound (u : Nat) (c : Ctx) : (s.setCtx u c).inbound = s.inbound := rfl
@[simp] theorem State.setCtx_reports (u : Nat) (c : Ctx) : (s.setCtx u c).reports = s.reports := rfl

/-! ### `setCore` -/

@[simp] theorem State.setCore_cycle (k : Nat) (c : Core) : (s.setCore k c).cycle = s.cycle := rfl
@[simp] theorem State.setCore_issued (k : Nat) (c : Core) : (s.setCore k c).issued = s.issued := rfl
@[simp] theorem State.setCore_cur (k : Nat) (c : Core) : (s.setCore k c).cur = s.cur := rfl
@[simp] theorem State.setCore_iss (k : Nat) (c : Core) : (s.setCore k c).iss = s.iss := rfl
@[simp] theorem State.setCore_rcore (k : Nat) (c : Core) : (s.setCore k c).rcore = s.rcore := rfl
@[simp] theorem State.setCore_freeCtr (k : Nat) (c : Core) : (s.setCore k c).freeCtr = s.freeCtr := rfl
@[simp] theorem State.setCore_nextId (k : Nat) (c : Core) : (s.setCore k c).nextId = s.nextId := rfl
@[simp] theorem State.setCore_agenda (k : Nat) (c : Core) : (s.setCore k c).agenda = s.agenda := rfl
@[simp] theorem State.setCore_ctxs (k : Nat) (c : Core) : (s.setCore k c).ctxs = s.ctxs := rfl
@[simp] theorem State.setCore_clusters (k : Nat) (c : Core) : (s.setCore k c).clusters = s.clusters := rfl
@[simp] theorem State.setCore_benches (k : Nat) (c : Core) : (s.setCore k c).benches = s.benches := rfl
@[simp] theorem State.setCore_kernels (k : Nat) (c : Core) : (s.setCore k c).kernels = s.kernels := rfl
@[simp] theorem State.setCore_inflight (k : Nat) (c : Core) : (s.setCore k c).inflight = s.inflight := rfl
@[simp] theorem State.setCore_ends (k : Nat) (c : Core) : (s.setCore k c).ends = s.ends := rfl
@[simp] theorem State.setCore_stores (k : Nat) (c : Core) : (s.setCore k c).stores = s.stores := rfl
@[simp] theorem State.setCore_putqs (k : Nat) (c : Core) : (s.setCore k c).putqs = s.putqs := rfl
@[simp] theorem State.setCore_mem (k : Nat) (c : Core) : (s.setCore k c).mem = s.mem := rfl
@[simp] theorem State.setCore_poison (k : Nat) (c : Core) : (s.setCore k c).poison = s.poison := rfl
@[simp] theorem State.setCore_eccCount (k : Nat) (c : Core) : (s.setCore k c).eccCount = s.eccCount := rfl
@[simp] theorem State.setCore_ncc (k : Nat) (c : Core) : (s.setCore k c).ncc = s.ncc := rfl
@[simp] theorem State.setCore_orders (k : Nat) (c : Core) : (s.setCore k c).orders = s.orders := rfl
@[simp] theorem State.setCore_expos (k : Nat) (c : Core) : (s.setCore k c).expos = s.expos := rfl
@[simp] theorem State.setCore_sigs (k : Nat) (c : Core) : (s.setCore k c).sigs = s.sigs := rfl
@[simp] theorem State.setCore_cmds (k : Nat) (c : Core) : (s.setCore k c).cmds = s.cmds := rfl
@[simp] theorem State.setCore_ceNext (k : Nat) (c : Core) : (s.setCore k c).ceNext = s.ceNext := rfl
@[simp] theorem State.setCore_ceLast (k : Nat) (c : Core) : (s.setCore k c).ceLast = s.ceLast := rfl
@[simp] theorem State.setCore_collLast (k : Nat) (c : Core) : (s.setCore k c).collLast = s.collLast := rfl
@[simp] theorem State.setCore_tlbs (k : Nat) (c : Core) : (s.setCore k c).tlbs = s.tlbs := rfl
@[simp] theorem State.setCore_faultSeq (k : Nat) (c : Core) : (s.setCore k c).faultSeq = s.faultSeq := rfl
@[simp] theorem State.setCore_slip (k : Nat) (c : Core) : (s.setCore k c).slip = s.slip := rfl
@[simp] theorem State.setCore_slipRing (k : Nat) (c : Core) : (s.setCore k c).slipRing = s.slipRing := rfl
@[simp] theorem State.setCore_caps (k : Nat) (c : Core) : (s.setCore k c).caps = s.caps := rfl
@[simp] theorem State.setCore_cells (k : Nat) (c : Core) : (s.setCore k c).cells = s.cells := rfl
@[simp] theorem State.setCore_shut (k : Nat) (c : Core) : (s.setCore k c).shut = s.shut := rfl
@[simp] theorem State.setCore_revokes (k : Nat) (c : Core) : (s.setCore k c).revokes = s.revokes := rfl
@[simp] theorem State.setCore_deadChs (k : Nat) (c : Core) : (s.setCore k c).deadChs = s.deadChs := rfl
@[simp] theorem State.setCore_locked (k : Nat) (c : Core) : (s.setCore k c).locked = s.locked := rfl
@[simp] theorem State.setCore_evbase (k : Nat) (c : Core) : (s.setCore k c).evbase = s.evbase := rfl
@[simp] theorem State.setCore_fabcfg (k : Nat) (c : Core) : (s.setCore k c).fabcfg = s.fabcfg := rfl
@[simp] theorem State.setCore_exports (k : Nat) (c : Core) : (s.setCore k c).exports = s.exports := rfl
@[simp] theorem State.setCore_jobTags (k : Nat) (c : Core) : (s.setCore k c).jobTags = s.jobTags := rfl
@[simp] theorem State.setCore_ports (k : Nat) (c : Core) : (s.setCore k c).ports = s.ports := rfl
@[simp] theorem State.setCore_links (k : Nat) (c : Core) : (s.setCore k c).links = s.links := rfl
@[simp] theorem State.setCore_arbw (k : Nat) (c : Core) : (s.setCore k c).arbw = s.arbw := rfl
@[simp] theorem State.setCore_arbwNext (k : Nat) (c : Core) : (s.setCore k c).arbwNext = s.arbwNext := rfl
@[simp] theorem State.setCore_hqs (k : Nat) (c : Core) : (s.setCore k c).hqs = s.hqs := rfl
@[simp] theorem State.setCore_lastQ (k : Nat) (c : Core) : (s.setCore k c).lastQ = s.lastQ := rfl
@[simp] theorem State.setCore_pool (k : Nat) (c : Core) : (s.setCore k c).pool = s.pool := rfl
@[simp] theorem State.setCore_aborts (k : Nat) (c : Core) : (s.setCore k c).aborts = s.aborts := rfl
@[simp] theorem State.setCore_roots (k : Nat) (c : Core) : (s.setCore k c).roots = s.roots := rfl
@[simp] theorem State.setCore_budgets (k : Nat) (c : Core) : (s.setCore k c).budgets = s.budgets := rfl
@[simp] theorem State.setCore_budNext (k : Nat) (c : Core) : (s.setCore k c).budNext = s.budNext := rfl
@[simp] theorem State.setCore_boot (k : Nat) (c : Core) : (s.setCore k c).boot = s.boot := rfl
@[simp] theorem State.setCore_bootaddr (k : Nat) (c : Core) : (s.setCore k c).bootaddr = s.bootaddr := rfl
@[simp] theorem State.setCore_image (k : Nat) (c : Core) : (s.setCore k c).image = s.image := rfl
@[simp] theorem State.setCore_scht (k : Nat) (c : Core) : (s.setCore k c).scht = s.scht := rfl
@[simp] theorem State.setCore_reloc (k : Nat) (c : Core) : (s.setCore k c).reloc = s.reloc := rfl
@[simp] theorem State.setCore_evicted (k : Nat) (c : Core) : (s.setCore k c).evicted = s.evicted := rfl
@[simp] theorem State.setCore_cresumes (k : Nat) (c : Core) : (s.setCore k c).cresumes = s.cresumes := rfl
@[simp] theorem State.setCore_ringAborts (k : Nat) (c : Core) : (s.setCore k c).ringAborts = s.ringAborts := rfl
@[simp] theorem State.setCore_ringStarts (k : Nat) (c : Core) : (s.setCore k c).ringStarts = s.ringStarts := rfl
@[simp] theorem State.setCore_inbound (k : Nat) (c : Core) : (s.setCore k c).inbound = s.inbound := rfl
@[simp] theorem State.setCore_reports (k : Nat) (c : Core) : (s.setCore k c).reports = s.reports := rfl

/-! ### `setCluster` -/

@[simp] theorem State.setCluster_cycle (k : Nat) (c : Cluster) : (s.setCluster k c).cycle = s.cycle := rfl
@[simp] theorem State.setCluster_issued (k : Nat) (c : Cluster) : (s.setCluster k c).issued = s.issued := rfl
@[simp] theorem State.setCluster_cur (k : Nat) (c : Cluster) : (s.setCluster k c).cur = s.cur := rfl
@[simp] theorem State.setCluster_iss (k : Nat) (c : Cluster) : (s.setCluster k c).iss = s.iss := rfl
@[simp] theorem State.setCluster_rcore (k : Nat) (c : Cluster) : (s.setCluster k c).rcore = s.rcore := rfl
@[simp] theorem State.setCluster_freeCtr (k : Nat) (c : Cluster) : (s.setCluster k c).freeCtr = s.freeCtr := rfl
@[simp] theorem State.setCluster_nextId (k : Nat) (c : Cluster) : (s.setCluster k c).nextId = s.nextId := rfl
@[simp] theorem State.setCluster_agenda (k : Nat) (c : Cluster) : (s.setCluster k c).agenda = s.agenda := rfl
@[simp] theorem State.setCluster_ctxs (k : Nat) (c : Cluster) : (s.setCluster k c).ctxs = s.ctxs := rfl
@[simp] theorem State.setCluster_cores (k : Nat) (c : Cluster) : (s.setCluster k c).cores = s.cores := rfl
@[simp] theorem State.setCluster_benches (k : Nat) (c : Cluster) : (s.setCluster k c).benches = s.benches := rfl
@[simp] theorem State.setCluster_kernels (k : Nat) (c : Cluster) : (s.setCluster k c).kernels = s.kernels := rfl
@[simp] theorem State.setCluster_inflight (k : Nat) (c : Cluster) : (s.setCluster k c).inflight = s.inflight := rfl
@[simp] theorem State.setCluster_ends (k : Nat) (c : Cluster) : (s.setCluster k c).ends = s.ends := rfl
@[simp] theorem State.setCluster_stores (k : Nat) (c : Cluster) : (s.setCluster k c).stores = s.stores := rfl
@[simp] theorem State.setCluster_putqs (k : Nat) (c : Cluster) : (s.setCluster k c).putqs = s.putqs := rfl
@[simp] theorem State.setCluster_mem (k : Nat) (c : Cluster) : (s.setCluster k c).mem = s.mem := rfl
@[simp] theorem State.setCluster_poison (k : Nat) (c : Cluster) : (s.setCluster k c).poison = s.poison := rfl
@[simp] theorem State.setCluster_eccCount (k : Nat) (c : Cluster) : (s.setCluster k c).eccCount = s.eccCount := rfl
@[simp] theorem State.setCluster_ncc (k : Nat) (c : Cluster) : (s.setCluster k c).ncc = s.ncc := rfl
@[simp] theorem State.setCluster_orders (k : Nat) (c : Cluster) : (s.setCluster k c).orders = s.orders := rfl
@[simp] theorem State.setCluster_expos (k : Nat) (c : Cluster) : (s.setCluster k c).expos = s.expos := rfl
@[simp] theorem State.setCluster_sigs (k : Nat) (c : Cluster) : (s.setCluster k c).sigs = s.sigs := rfl
@[simp] theorem State.setCluster_cmds (k : Nat) (c : Cluster) : (s.setCluster k c).cmds = s.cmds := rfl
@[simp] theorem State.setCluster_ceNext (k : Nat) (c : Cluster) : (s.setCluster k c).ceNext = s.ceNext := rfl
@[simp] theorem State.setCluster_ceLast (k : Nat) (c : Cluster) : (s.setCluster k c).ceLast = s.ceLast := rfl
@[simp] theorem State.setCluster_collLast (k : Nat) (c : Cluster) : (s.setCluster k c).collLast = s.collLast := rfl
@[simp] theorem State.setCluster_tlbs (k : Nat) (c : Cluster) : (s.setCluster k c).tlbs = s.tlbs := rfl
@[simp] theorem State.setCluster_faultSeq (k : Nat) (c : Cluster) : (s.setCluster k c).faultSeq = s.faultSeq := rfl
@[simp] theorem State.setCluster_slip (k : Nat) (c : Cluster) : (s.setCluster k c).slip = s.slip := rfl
@[simp] theorem State.setCluster_slipRing (k : Nat) (c : Cluster) : (s.setCluster k c).slipRing = s.slipRing := rfl
@[simp] theorem State.setCluster_caps (k : Nat) (c : Cluster) : (s.setCluster k c).caps = s.caps := rfl
@[simp] theorem State.setCluster_cells (k : Nat) (c : Cluster) : (s.setCluster k c).cells = s.cells := rfl
@[simp] theorem State.setCluster_shut (k : Nat) (c : Cluster) : (s.setCluster k c).shut = s.shut := rfl
@[simp] theorem State.setCluster_revokes (k : Nat) (c : Cluster) : (s.setCluster k c).revokes = s.revokes := rfl
@[simp] theorem State.setCluster_deadChs (k : Nat) (c : Cluster) : (s.setCluster k c).deadChs = s.deadChs := rfl
@[simp] theorem State.setCluster_locked (k : Nat) (c : Cluster) : (s.setCluster k c).locked = s.locked := rfl
@[simp] theorem State.setCluster_evbase (k : Nat) (c : Cluster) : (s.setCluster k c).evbase = s.evbase := rfl
@[simp] theorem State.setCluster_fabcfg (k : Nat) (c : Cluster) : (s.setCluster k c).fabcfg = s.fabcfg := rfl
@[simp] theorem State.setCluster_exports (k : Nat) (c : Cluster) : (s.setCluster k c).exports = s.exports := rfl
@[simp] theorem State.setCluster_jobTags (k : Nat) (c : Cluster) : (s.setCluster k c).jobTags = s.jobTags := rfl
@[simp] theorem State.setCluster_ports (k : Nat) (c : Cluster) : (s.setCluster k c).ports = s.ports := rfl
@[simp] theorem State.setCluster_links (k : Nat) (c : Cluster) : (s.setCluster k c).links = s.links := rfl
@[simp] theorem State.setCluster_arbw (k : Nat) (c : Cluster) : (s.setCluster k c).arbw = s.arbw := rfl
@[simp] theorem State.setCluster_arbwNext (k : Nat) (c : Cluster) : (s.setCluster k c).arbwNext = s.arbwNext := rfl
@[simp] theorem State.setCluster_hqs (k : Nat) (c : Cluster) : (s.setCluster k c).hqs = s.hqs := rfl
@[simp] theorem State.setCluster_lastQ (k : Nat) (c : Cluster) : (s.setCluster k c).lastQ = s.lastQ := rfl
@[simp] theorem State.setCluster_pool (k : Nat) (c : Cluster) : (s.setCluster k c).pool = s.pool := rfl
@[simp] theorem State.setCluster_aborts (k : Nat) (c : Cluster) : (s.setCluster k c).aborts = s.aborts := rfl
@[simp] theorem State.setCluster_roots (k : Nat) (c : Cluster) : (s.setCluster k c).roots = s.roots := rfl
@[simp] theorem State.setCluster_budgets (k : Nat) (c : Cluster) : (s.setCluster k c).budgets = s.budgets := rfl
@[simp] theorem State.setCluster_budNext (k : Nat) (c : Cluster) : (s.setCluster k c).budNext = s.budNext := rfl
@[simp] theorem State.setCluster_boot (k : Nat) (c : Cluster) : (s.setCluster k c).boot = s.boot := rfl
@[simp] theorem State.setCluster_bootaddr (k : Nat) (c : Cluster) : (s.setCluster k c).bootaddr = s.bootaddr := rfl
@[simp] theorem State.setCluster_image (k : Nat) (c : Cluster) : (s.setCluster k c).image = s.image := rfl
@[simp] theorem State.setCluster_scht (k : Nat) (c : Cluster) : (s.setCluster k c).scht = s.scht := rfl
@[simp] theorem State.setCluster_reloc (k : Nat) (c : Cluster) : (s.setCluster k c).reloc = s.reloc := rfl
@[simp] theorem State.setCluster_evicted (k : Nat) (c : Cluster) : (s.setCluster k c).evicted = s.evicted := rfl
@[simp] theorem State.setCluster_cresumes (k : Nat) (c : Cluster) : (s.setCluster k c).cresumes = s.cresumes := rfl
@[simp] theorem State.setCluster_ringAborts (k : Nat) (c : Cluster) : (s.setCluster k c).ringAborts = s.ringAborts := rfl
@[simp] theorem State.setCluster_ringStarts (k : Nat) (c : Cluster) : (s.setCluster k c).ringStarts = s.ringStarts := rfl
@[simp] theorem State.setCluster_inbound (k : Nat) (c : Cluster) : (s.setCluster k c).inbound = s.inbound := rfl
@[simp] theorem State.setCluster_reports (k : Nat) (c : Cluster) : (s.setCluster k c).reports = s.reports := rfl

/-! ### `setKernel` -/

@[simp] theorem State.setKernel_cycle (k : Nat) (c : Kernel) : (s.setKernel k c).cycle = s.cycle := rfl
@[simp] theorem State.setKernel_issued (k : Nat) (c : Kernel) : (s.setKernel k c).issued = s.issued := rfl
@[simp] theorem State.setKernel_cur (k : Nat) (c : Kernel) : (s.setKernel k c).cur = s.cur := rfl
@[simp] theorem State.setKernel_iss (k : Nat) (c : Kernel) : (s.setKernel k c).iss = s.iss := rfl
@[simp] theorem State.setKernel_rcore (k : Nat) (c : Kernel) : (s.setKernel k c).rcore = s.rcore := rfl
@[simp] theorem State.setKernel_freeCtr (k : Nat) (c : Kernel) : (s.setKernel k c).freeCtr = s.freeCtr := rfl
@[simp] theorem State.setKernel_nextId (k : Nat) (c : Kernel) : (s.setKernel k c).nextId = s.nextId := rfl
@[simp] theorem State.setKernel_agenda (k : Nat) (c : Kernel) : (s.setKernel k c).agenda = s.agenda := rfl
@[simp] theorem State.setKernel_ctxs (k : Nat) (c : Kernel) : (s.setKernel k c).ctxs = s.ctxs := rfl
@[simp] theorem State.setKernel_cores (k : Nat) (c : Kernel) : (s.setKernel k c).cores = s.cores := rfl
@[simp] theorem State.setKernel_clusters (k : Nat) (c : Kernel) : (s.setKernel k c).clusters = s.clusters := rfl
@[simp] theorem State.setKernel_benches (k : Nat) (c : Kernel) : (s.setKernel k c).benches = s.benches := rfl
@[simp] theorem State.setKernel_inflight (k : Nat) (c : Kernel) : (s.setKernel k c).inflight = s.inflight := rfl
@[simp] theorem State.setKernel_ends (k : Nat) (c : Kernel) : (s.setKernel k c).ends = s.ends := rfl
@[simp] theorem State.setKernel_stores (k : Nat) (c : Kernel) : (s.setKernel k c).stores = s.stores := rfl
@[simp] theorem State.setKernel_putqs (k : Nat) (c : Kernel) : (s.setKernel k c).putqs = s.putqs := rfl
@[simp] theorem State.setKernel_mem (k : Nat) (c : Kernel) : (s.setKernel k c).mem = s.mem := rfl
@[simp] theorem State.setKernel_poison (k : Nat) (c : Kernel) : (s.setKernel k c).poison = s.poison := rfl
@[simp] theorem State.setKernel_eccCount (k : Nat) (c : Kernel) : (s.setKernel k c).eccCount = s.eccCount := rfl
@[simp] theorem State.setKernel_ncc (k : Nat) (c : Kernel) : (s.setKernel k c).ncc = s.ncc := rfl
@[simp] theorem State.setKernel_orders (k : Nat) (c : Kernel) : (s.setKernel k c).orders = s.orders := rfl
@[simp] theorem State.setKernel_expos (k : Nat) (c : Kernel) : (s.setKernel k c).expos = s.expos := rfl
@[simp] theorem State.setKernel_sigs (k : Nat) (c : Kernel) : (s.setKernel k c).sigs = s.sigs := rfl
@[simp] theorem State.setKernel_cmds (k : Nat) (c : Kernel) : (s.setKernel k c).cmds = s.cmds := rfl
@[simp] theorem State.setKernel_ceNext (k : Nat) (c : Kernel) : (s.setKernel k c).ceNext = s.ceNext := rfl
@[simp] theorem State.setKernel_ceLast (k : Nat) (c : Kernel) : (s.setKernel k c).ceLast = s.ceLast := rfl
@[simp] theorem State.setKernel_collLast (k : Nat) (c : Kernel) : (s.setKernel k c).collLast = s.collLast := rfl
@[simp] theorem State.setKernel_tlbs (k : Nat) (c : Kernel) : (s.setKernel k c).tlbs = s.tlbs := rfl
@[simp] theorem State.setKernel_faultSeq (k : Nat) (c : Kernel) : (s.setKernel k c).faultSeq = s.faultSeq := rfl
@[simp] theorem State.setKernel_slip (k : Nat) (c : Kernel) : (s.setKernel k c).slip = s.slip := rfl
@[simp] theorem State.setKernel_slipRing (k : Nat) (c : Kernel) : (s.setKernel k c).slipRing = s.slipRing := rfl
@[simp] theorem State.setKernel_caps (k : Nat) (c : Kernel) : (s.setKernel k c).caps = s.caps := rfl
@[simp] theorem State.setKernel_cells (k : Nat) (c : Kernel) : (s.setKernel k c).cells = s.cells := rfl
@[simp] theorem State.setKernel_shut (k : Nat) (c : Kernel) : (s.setKernel k c).shut = s.shut := rfl
@[simp] theorem State.setKernel_revokes (k : Nat) (c : Kernel) : (s.setKernel k c).revokes = s.revokes := rfl
@[simp] theorem State.setKernel_deadChs (k : Nat) (c : Kernel) : (s.setKernel k c).deadChs = s.deadChs := rfl
@[simp] theorem State.setKernel_locked (k : Nat) (c : Kernel) : (s.setKernel k c).locked = s.locked := rfl
@[simp] theorem State.setKernel_evbase (k : Nat) (c : Kernel) : (s.setKernel k c).evbase = s.evbase := rfl
@[simp] theorem State.setKernel_fabcfg (k : Nat) (c : Kernel) : (s.setKernel k c).fabcfg = s.fabcfg := rfl
@[simp] theorem State.setKernel_exports (k : Nat) (c : Kernel) : (s.setKernel k c).exports = s.exports := rfl
@[simp] theorem State.setKernel_jobTags (k : Nat) (c : Kernel) : (s.setKernel k c).jobTags = s.jobTags := rfl
@[simp] theorem State.setKernel_ports (k : Nat) (c : Kernel) : (s.setKernel k c).ports = s.ports := rfl
@[simp] theorem State.setKernel_links (k : Nat) (c : Kernel) : (s.setKernel k c).links = s.links := rfl
@[simp] theorem State.setKernel_arbw (k : Nat) (c : Kernel) : (s.setKernel k c).arbw = s.arbw := rfl
@[simp] theorem State.setKernel_arbwNext (k : Nat) (c : Kernel) : (s.setKernel k c).arbwNext = s.arbwNext := rfl
@[simp] theorem State.setKernel_hqs (k : Nat) (c : Kernel) : (s.setKernel k c).hqs = s.hqs := rfl
@[simp] theorem State.setKernel_lastQ (k : Nat) (c : Kernel) : (s.setKernel k c).lastQ = s.lastQ := rfl
@[simp] theorem State.setKernel_pool (k : Nat) (c : Kernel) : (s.setKernel k c).pool = s.pool := rfl
@[simp] theorem State.setKernel_aborts (k : Nat) (c : Kernel) : (s.setKernel k c).aborts = s.aborts := rfl
@[simp] theorem State.setKernel_roots (k : Nat) (c : Kernel) : (s.setKernel k c).roots = s.roots := rfl
@[simp] theorem State.setKernel_budgets (k : Nat) (c : Kernel) : (s.setKernel k c).budgets = s.budgets := rfl
@[simp] theorem State.setKernel_budNext (k : Nat) (c : Kernel) : (s.setKernel k c).budNext = s.budNext := rfl
@[simp] theorem State.setKernel_boot (k : Nat) (c : Kernel) : (s.setKernel k c).boot = s.boot := rfl
@[simp] theorem State.setKernel_bootaddr (k : Nat) (c : Kernel) : (s.setKernel k c).bootaddr = s.bootaddr := rfl
@[simp] theorem State.setKernel_image (k : Nat) (c : Kernel) : (s.setKernel k c).image = s.image := rfl
@[simp] theorem State.setKernel_scht (k : Nat) (c : Kernel) : (s.setKernel k c).scht = s.scht := rfl
@[simp] theorem State.setKernel_reloc (k : Nat) (c : Kernel) : (s.setKernel k c).reloc = s.reloc := rfl
@[simp] theorem State.setKernel_evicted (k : Nat) (c : Kernel) : (s.setKernel k c).evicted = s.evicted := rfl
@[simp] theorem State.setKernel_cresumes (k : Nat) (c : Kernel) : (s.setKernel k c).cresumes = s.cresumes := rfl
@[simp] theorem State.setKernel_ringAborts (k : Nat) (c : Kernel) : (s.setKernel k c).ringAborts = s.ringAborts := rfl
@[simp] theorem State.setKernel_ringStarts (k : Nat) (c : Kernel) : (s.setKernel k c).ringStarts = s.ringStarts := rfl
@[simp] theorem State.setKernel_inbound (k : Nat) (c : Kernel) : (s.setKernel k c).inbound = s.inbound := rfl
@[simp] theorem State.setKernel_reports (k : Nat) (c : Kernel) : (s.setKernel k c).reports = s.reports := rfl

/-! ### `draw` -/

@[simp] theorem State.draw_cycle : (s.draw).cycle = s.cycle := rfl
@[simp] theorem State.draw_issued : (s.draw).issued = s.issued := rfl
@[simp] theorem State.draw_cur : (s.draw).cur = s.cur := rfl
@[simp] theorem State.draw_iss : (s.draw).iss = s.iss := rfl
@[simp] theorem State.draw_rcore : (s.draw).rcore = s.rcore := rfl
@[simp] theorem State.draw_nextId : (s.draw).nextId = s.nextId := rfl
@[simp] theorem State.draw_agenda : (s.draw).agenda = s.agenda := rfl
@[simp] theorem State.draw_ctxs : (s.draw).ctxs = s.ctxs := rfl
@[simp] theorem State.draw_cores : (s.draw).cores = s.cores := rfl
@[simp] theorem State.draw_clusters : (s.draw).clusters = s.clusters := rfl
@[simp] theorem State.draw_benches : (s.draw).benches = s.benches := rfl
@[simp] theorem State.draw_kernels : (s.draw).kernels = s.kernels := rfl
@[simp] theorem State.draw_inflight : (s.draw).inflight = s.inflight := rfl
@[simp] theorem State.draw_ends : (s.draw).ends = s.ends := rfl
@[simp] theorem State.draw_stores : (s.draw).stores = s.stores := rfl
@[simp] theorem State.draw_putqs : (s.draw).putqs = s.putqs := rfl
@[simp] theorem State.draw_mem : (s.draw).mem = s.mem := rfl
@[simp] theorem State.draw_poison : (s.draw).poison = s.poison := rfl
@[simp] theorem State.draw_eccCount : (s.draw).eccCount = s.eccCount := rfl
@[simp] theorem State.draw_ncc : (s.draw).ncc = s.ncc := rfl
@[simp] theorem State.draw_orders : (s.draw).orders = s.orders := rfl
@[simp] theorem State.draw_expos : (s.draw).expos = s.expos := rfl
@[simp] theorem State.draw_sigs : (s.draw).sigs = s.sigs := rfl
@[simp] theorem State.draw_cmds : (s.draw).cmds = s.cmds := rfl
@[simp] theorem State.draw_ceNext : (s.draw).ceNext = s.ceNext := rfl
@[simp] theorem State.draw_ceLast : (s.draw).ceLast = s.ceLast := rfl
@[simp] theorem State.draw_collLast : (s.draw).collLast = s.collLast := rfl
@[simp] theorem State.draw_tlbs : (s.draw).tlbs = s.tlbs := rfl
@[simp] theorem State.draw_faultSeq : (s.draw).faultSeq = s.faultSeq := rfl
@[simp] theorem State.draw_slip : (s.draw).slip = s.slip := rfl
@[simp] theorem State.draw_slipRing : (s.draw).slipRing = s.slipRing := rfl
@[simp] theorem State.draw_caps : (s.draw).caps = s.caps := rfl
@[simp] theorem State.draw_cells : (s.draw).cells = s.cells := rfl
@[simp] theorem State.draw_shut : (s.draw).shut = s.shut := rfl
@[simp] theorem State.draw_revokes : (s.draw).revokes = s.revokes := rfl
@[simp] theorem State.draw_deadChs : (s.draw).deadChs = s.deadChs := rfl
@[simp] theorem State.draw_locked : (s.draw).locked = s.locked := rfl
@[simp] theorem State.draw_evbase : (s.draw).evbase = s.evbase := rfl
@[simp] theorem State.draw_fabcfg : (s.draw).fabcfg = s.fabcfg := rfl
@[simp] theorem State.draw_exports : (s.draw).exports = s.exports := rfl
@[simp] theorem State.draw_jobTags : (s.draw).jobTags = s.jobTags := rfl
@[simp] theorem State.draw_ports : (s.draw).ports = s.ports := rfl
@[simp] theorem State.draw_links : (s.draw).links = s.links := rfl
@[simp] theorem State.draw_arbw : (s.draw).arbw = s.arbw := rfl
@[simp] theorem State.draw_arbwNext : (s.draw).arbwNext = s.arbwNext := rfl
@[simp] theorem State.draw_hqs : (s.draw).hqs = s.hqs := rfl
@[simp] theorem State.draw_lastQ : (s.draw).lastQ = s.lastQ := rfl
@[simp] theorem State.draw_pool : (s.draw).pool = s.pool := rfl
@[simp] theorem State.draw_aborts : (s.draw).aborts = s.aborts := rfl
@[simp] theorem State.draw_roots : (s.draw).roots = s.roots := rfl
@[simp] theorem State.draw_budgets : (s.draw).budgets = s.budgets := rfl
@[simp] theorem State.draw_budNext : (s.draw).budNext = s.budNext := rfl
@[simp] theorem State.draw_boot : (s.draw).boot = s.boot := rfl
@[simp] theorem State.draw_bootaddr : (s.draw).bootaddr = s.bootaddr := rfl
@[simp] theorem State.draw_image : (s.draw).image = s.image := rfl
@[simp] theorem State.draw_scht : (s.draw).scht = s.scht := rfl
@[simp] theorem State.draw_reloc : (s.draw).reloc = s.reloc := rfl
@[simp] theorem State.draw_evicted : (s.draw).evicted = s.evicted := rfl
@[simp] theorem State.draw_cresumes : (s.draw).cresumes = s.cresumes := rfl
@[simp] theorem State.draw_ringAborts : (s.draw).ringAborts = s.ringAborts := rfl
@[simp] theorem State.draw_ringStarts : (s.draw).ringStarts = s.ringStarts := rfl
@[simp] theorem State.draw_inbound : (s.draw).inbound = s.inbound := rfl
@[simp] theorem State.draw_reports : (s.draw).reports = s.reports := rfl

/-! ### `defer` -/

@[simp] theorem State.defer_cycle (lat : Nat) (v : RVal) (fl : Flags) : (s.defer lat v fl).cycle = s.cycle := rfl
@[simp] theorem State.defer_issued (lat : Nat) (v : RVal) (fl : Flags) : (s.defer lat v fl).issued = s.issued := rfl
@[simp] theorem State.defer_cur (lat : Nat) (v : RVal) (fl : Flags) : (s.defer lat v fl).cur = s.cur := rfl
@[simp] theorem State.defer_iss (lat : Nat) (v : RVal) (fl : Flags) : (s.defer lat v fl).iss = s.iss := rfl
@[simp] theorem State.defer_rcore (lat : Nat) (v : RVal) (fl : Flags) : (s.defer lat v fl).rcore = s.rcore := rfl
@[simp] theorem State.defer_freeCtr (lat : Nat) (v : RVal) (fl : Flags) : (s.defer lat v fl).freeCtr = s.freeCtr := rfl
@[simp] theorem State.defer_nextId (lat : Nat) (v : RVal) (fl : Flags) : (s.defer lat v fl).nextId = s.nextId := rfl
@[simp] theorem State.defer_agenda (lat : Nat) (v : RVal) (fl : Flags) : (s.defer lat v fl).agenda = s.agenda := rfl
@[simp] theorem State.defer_ctxs (lat : Nat) (v : RVal) (fl : Flags) : (s.defer lat v fl).ctxs = s.ctxs := rfl
@[simp] theorem State.defer_cores (lat : Nat) (v : RVal) (fl : Flags) : (s.defer lat v fl).cores = s.cores := rfl
@[simp] theorem State.defer_clusters (lat : Nat) (v : RVal) (fl : Flags) : (s.defer lat v fl).clusters = s.clusters := rfl
@[simp] theorem State.defer_benches (lat : Nat) (v : RVal) (fl : Flags) : (s.defer lat v fl).benches = s.benches := rfl
@[simp] theorem State.defer_kernels (lat : Nat) (v : RVal) (fl : Flags) : (s.defer lat v fl).kernels = s.kernels := rfl
@[simp] theorem State.defer_ends (lat : Nat) (v : RVal) (fl : Flags) : (s.defer lat v fl).ends = s.ends := rfl
@[simp] theorem State.defer_stores (lat : Nat) (v : RVal) (fl : Flags) : (s.defer lat v fl).stores = s.stores := rfl
@[simp] theorem State.defer_putqs (lat : Nat) (v : RVal) (fl : Flags) : (s.defer lat v fl).putqs = s.putqs := rfl
@[simp] theorem State.defer_mem (lat : Nat) (v : RVal) (fl : Flags) : (s.defer lat v fl).mem = s.mem := rfl
@[simp] theorem State.defer_poison (lat : Nat) (v : RVal) (fl : Flags) : (s.defer lat v fl).poison = s.poison := rfl
@[simp] theorem State.defer_eccCount (lat : Nat) (v : RVal) (fl : Flags) : (s.defer lat v fl).eccCount = s.eccCount := rfl
@[simp] theorem State.defer_ncc (lat : Nat) (v : RVal) (fl : Flags) : (s.defer lat v fl).ncc = s.ncc := rfl
@[simp] theorem State.defer_orders (lat : Nat) (v : RVal) (fl : Flags) : (s.defer lat v fl).orders = s.orders := rfl
@[simp] theorem State.defer_expos (lat : Nat) (v : RVal) (fl : Flags) : (s.defer lat v fl).expos = s.expos := rfl
@[simp] theorem State.defer_sigs (lat : Nat) (v : RVal) (fl : Flags) : (s.defer lat v fl).sigs = s.sigs := rfl
@[simp] theorem State.defer_cmds (lat : Nat) (v : RVal) (fl : Flags) : (s.defer lat v fl).cmds = s.cmds := rfl
@[simp] theorem State.defer_ceNext (lat : Nat) (v : RVal) (fl : Flags) : (s.defer lat v fl).ceNext = s.ceNext := rfl
@[simp] theorem State.defer_ceLast (lat : Nat) (v : RVal) (fl : Flags) : (s.defer lat v fl).ceLast = s.ceLast := rfl
@[simp] theorem State.defer_collLast (lat : Nat) (v : RVal) (fl : Flags) : (s.defer lat v fl).collLast = s.collLast := rfl
@[simp] theorem State.defer_tlbs (lat : Nat) (v : RVal) (fl : Flags) : (s.defer lat v fl).tlbs = s.tlbs := rfl
@[simp] theorem State.defer_faultSeq (lat : Nat) (v : RVal) (fl : Flags) : (s.defer lat v fl).faultSeq = s.faultSeq := rfl
@[simp] theorem State.defer_slip (lat : Nat) (v : RVal) (fl : Flags) : (s.defer lat v fl).slip = s.slip := rfl
@[simp] theorem State.defer_slipRing (lat : Nat) (v : RVal) (fl : Flags) : (s.defer lat v fl).slipRing = s.slipRing := rfl
@[simp] theorem State.defer_caps (lat : Nat) (v : RVal) (fl : Flags) : (s.defer lat v fl).caps = s.caps := rfl
@[simp] theorem State.defer_cells (lat : Nat) (v : RVal) (fl : Flags) : (s.defer lat v fl).cells = s.cells := rfl
@[simp] theorem State.defer_shut (lat : Nat) (v : RVal) (fl : Flags) : (s.defer lat v fl).shut = s.shut := rfl
@[simp] theorem State.defer_revokes (lat : Nat) (v : RVal) (fl : Flags) : (s.defer lat v fl).revokes = s.revokes := rfl
@[simp] theorem State.defer_deadChs (lat : Nat) (v : RVal) (fl : Flags) : (s.defer lat v fl).deadChs = s.deadChs := rfl
@[simp] theorem State.defer_locked (lat : Nat) (v : RVal) (fl : Flags) : (s.defer lat v fl).locked = s.locked := rfl
@[simp] theorem State.defer_evbase (lat : Nat) (v : RVal) (fl : Flags) : (s.defer lat v fl).evbase = s.evbase := rfl
@[simp] theorem State.defer_fabcfg (lat : Nat) (v : RVal) (fl : Flags) : (s.defer lat v fl).fabcfg = s.fabcfg := rfl
@[simp] theorem State.defer_exports (lat : Nat) (v : RVal) (fl : Flags) : (s.defer lat v fl).exports = s.exports := rfl
@[simp] theorem State.defer_jobTags (lat : Nat) (v : RVal) (fl : Flags) : (s.defer lat v fl).jobTags = s.jobTags := rfl
@[simp] theorem State.defer_ports (lat : Nat) (v : RVal) (fl : Flags) : (s.defer lat v fl).ports = s.ports := rfl
@[simp] theorem State.defer_links (lat : Nat) (v : RVal) (fl : Flags) : (s.defer lat v fl).links = s.links := rfl
@[simp] theorem State.defer_arbw (lat : Nat) (v : RVal) (fl : Flags) : (s.defer lat v fl).arbw = s.arbw := rfl
@[simp] theorem State.defer_arbwNext (lat : Nat) (v : RVal) (fl : Flags) : (s.defer lat v fl).arbwNext = s.arbwNext := rfl
@[simp] theorem State.defer_hqs (lat : Nat) (v : RVal) (fl : Flags) : (s.defer lat v fl).hqs = s.hqs := rfl
@[simp] theorem State.defer_lastQ (lat : Nat) (v : RVal) (fl : Flags) : (s.defer lat v fl).lastQ = s.lastQ := rfl
@[simp] theorem State.defer_pool (lat : Nat) (v : RVal) (fl : Flags) : (s.defer lat v fl).pool = s.pool := rfl
@[simp] theorem State.defer_aborts (lat : Nat) (v : RVal) (fl : Flags) : (s.defer lat v fl).aborts = s.aborts := rfl
@[simp] theorem State.defer_roots (lat : Nat) (v : RVal) (fl : Flags) : (s.defer lat v fl).roots = s.roots := rfl
@[simp] theorem State.defer_budgets (lat : Nat) (v : RVal) (fl : Flags) : (s.defer lat v fl).budgets = s.budgets := rfl
@[simp] theorem State.defer_budNext (lat : Nat) (v : RVal) (fl : Flags) : (s.defer lat v fl).budNext = s.budNext := rfl
@[simp] theorem State.defer_boot (lat : Nat) (v : RVal) (fl : Flags) : (s.defer lat v fl).boot = s.boot := rfl
@[simp] theorem State.defer_bootaddr (lat : Nat) (v : RVal) (fl : Flags) : (s.defer lat v fl).bootaddr = s.bootaddr := rfl
@[simp] theorem State.defer_image (lat : Nat) (v : RVal) (fl : Flags) : (s.defer lat v fl).image = s.image := rfl
@[simp] theorem State.defer_scht (lat : Nat) (v : RVal) (fl : Flags) : (s.defer lat v fl).scht = s.scht := rfl
@[simp] theorem State.defer_reloc (lat : Nat) (v : RVal) (fl : Flags) : (s.defer lat v fl).reloc = s.reloc := rfl
@[simp] theorem State.defer_evicted (lat : Nat) (v : RVal) (fl : Flags) : (s.defer lat v fl).evicted = s.evicted := rfl
@[simp] theorem State.defer_cresumes (lat : Nat) (v : RVal) (fl : Flags) : (s.defer lat v fl).cresumes = s.cresumes := rfl
@[simp] theorem State.defer_ringAborts (lat : Nat) (v : RVal) (fl : Flags) : (s.defer lat v fl).ringAborts = s.ringAborts := rfl
@[simp] theorem State.defer_ringStarts (lat : Nat) (v : RVal) (fl : Flags) : (s.defer lat v fl).ringStarts = s.ringStarts := rfl
@[simp] theorem State.defer_inbound (lat : Nat) (v : RVal) (fl : Flags) : (s.defer lat v fl).inbound = s.inbound := rfl
@[simp] theorem State.defer_reports (lat : Nat) (v : RVal) (fl : Flags) : (s.defer lat v fl).reports = s.reports := rfl

/-! ### `atEnd` -/

@[simp] theorem State.atEnd_cycle (w : EndWrite) : (s.atEnd w).cycle = s.cycle := rfl
@[simp] theorem State.atEnd_issued (w : EndWrite) : (s.atEnd w).issued = s.issued := rfl
@[simp] theorem State.atEnd_cur (w : EndWrite) : (s.atEnd w).cur = s.cur := rfl
@[simp] theorem State.atEnd_iss (w : EndWrite) : (s.atEnd w).iss = s.iss := rfl
@[simp] theorem State.atEnd_rcore (w : EndWrite) : (s.atEnd w).rcore = s.rcore := rfl
@[simp] theorem State.atEnd_freeCtr (w : EndWrite) : (s.atEnd w).freeCtr = s.freeCtr := rfl
@[simp] theorem State.atEnd_nextId (w : EndWrite) : (s.atEnd w).nextId = s.nextId := rfl
@[simp] theorem State.atEnd_agenda (w : EndWrite) : (s.atEnd w).agenda = s.agenda := rfl
@[simp] theorem State.atEnd_ctxs (w : EndWrite) : (s.atEnd w).ctxs = s.ctxs := rfl
@[simp] theorem State.atEnd_cores (w : EndWrite) : (s.atEnd w).cores = s.cores := rfl
@[simp] theorem State.atEnd_clusters (w : EndWrite) : (s.atEnd w).clusters = s.clusters := rfl
@[simp] theorem State.atEnd_benches (w : EndWrite) : (s.atEnd w).benches = s.benches := rfl
@[simp] theorem State.atEnd_kernels (w : EndWrite) : (s.atEnd w).kernels = s.kernels := rfl
@[simp] theorem State.atEnd_inflight (w : EndWrite) : (s.atEnd w).inflight = s.inflight := rfl
@[simp] theorem State.atEnd_stores (w : EndWrite) : (s.atEnd w).stores = s.stores := rfl
@[simp] theorem State.atEnd_putqs (w : EndWrite) : (s.atEnd w).putqs = s.putqs := rfl
@[simp] theorem State.atEnd_mem (w : EndWrite) : (s.atEnd w).mem = s.mem := rfl
@[simp] theorem State.atEnd_poison (w : EndWrite) : (s.atEnd w).poison = s.poison := rfl
@[simp] theorem State.atEnd_eccCount (w : EndWrite) : (s.atEnd w).eccCount = s.eccCount := rfl
@[simp] theorem State.atEnd_ncc (w : EndWrite) : (s.atEnd w).ncc = s.ncc := rfl
@[simp] theorem State.atEnd_orders (w : EndWrite) : (s.atEnd w).orders = s.orders := rfl
@[simp] theorem State.atEnd_expos (w : EndWrite) : (s.atEnd w).expos = s.expos := rfl
@[simp] theorem State.atEnd_sigs (w : EndWrite) : (s.atEnd w).sigs = s.sigs := rfl
@[simp] theorem State.atEnd_cmds (w : EndWrite) : (s.atEnd w).cmds = s.cmds := rfl
@[simp] theorem State.atEnd_ceNext (w : EndWrite) : (s.atEnd w).ceNext = s.ceNext := rfl
@[simp] theorem State.atEnd_ceLast (w : EndWrite) : (s.atEnd w).ceLast = s.ceLast := rfl
@[simp] theorem State.atEnd_collLast (w : EndWrite) : (s.atEnd w).collLast = s.collLast := rfl
@[simp] theorem State.atEnd_tlbs (w : EndWrite) : (s.atEnd w).tlbs = s.tlbs := rfl
@[simp] theorem State.atEnd_faultSeq (w : EndWrite) : (s.atEnd w).faultSeq = s.faultSeq := rfl
@[simp] theorem State.atEnd_slip (w : EndWrite) : (s.atEnd w).slip = s.slip := rfl
@[simp] theorem State.atEnd_slipRing (w : EndWrite) : (s.atEnd w).slipRing = s.slipRing := rfl
@[simp] theorem State.atEnd_caps (w : EndWrite) : (s.atEnd w).caps = s.caps := rfl
@[simp] theorem State.atEnd_cells (w : EndWrite) : (s.atEnd w).cells = s.cells := rfl
@[simp] theorem State.atEnd_shut (w : EndWrite) : (s.atEnd w).shut = s.shut := rfl
@[simp] theorem State.atEnd_revokes (w : EndWrite) : (s.atEnd w).revokes = s.revokes := rfl
@[simp] theorem State.atEnd_deadChs (w : EndWrite) : (s.atEnd w).deadChs = s.deadChs := rfl
@[simp] theorem State.atEnd_locked (w : EndWrite) : (s.atEnd w).locked = s.locked := rfl
@[simp] theorem State.atEnd_evbase (w : EndWrite) : (s.atEnd w).evbase = s.evbase := rfl
@[simp] theorem State.atEnd_fabcfg (w : EndWrite) : (s.atEnd w).fabcfg = s.fabcfg := rfl
@[simp] theorem State.atEnd_exports (w : EndWrite) : (s.atEnd w).exports = s.exports := rfl
@[simp] theorem State.atEnd_jobTags (w : EndWrite) : (s.atEnd w).jobTags = s.jobTags := rfl
@[simp] theorem State.atEnd_ports (w : EndWrite) : (s.atEnd w).ports = s.ports := rfl
@[simp] theorem State.atEnd_links (w : EndWrite) : (s.atEnd w).links = s.links := rfl
@[simp] theorem State.atEnd_arbw (w : EndWrite) : (s.atEnd w).arbw = s.arbw := rfl
@[simp] theorem State.atEnd_arbwNext (w : EndWrite) : (s.atEnd w).arbwNext = s.arbwNext := rfl
@[simp] theorem State.atEnd_hqs (w : EndWrite) : (s.atEnd w).hqs = s.hqs := rfl
@[simp] theorem State.atEnd_lastQ (w : EndWrite) : (s.atEnd w).lastQ = s.lastQ := rfl
@[simp] theorem State.atEnd_pool (w : EndWrite) : (s.atEnd w).pool = s.pool := rfl
@[simp] theorem State.atEnd_aborts (w : EndWrite) : (s.atEnd w).aborts = s.aborts := rfl
@[simp] theorem State.atEnd_roots (w : EndWrite) : (s.atEnd w).roots = s.roots := rfl
@[simp] theorem State.atEnd_budgets (w : EndWrite) : (s.atEnd w).budgets = s.budgets := rfl
@[simp] theorem State.atEnd_budNext (w : EndWrite) : (s.atEnd w).budNext = s.budNext := rfl
@[simp] theorem State.atEnd_boot (w : EndWrite) : (s.atEnd w).boot = s.boot := rfl
@[simp] theorem State.atEnd_bootaddr (w : EndWrite) : (s.atEnd w).bootaddr = s.bootaddr := rfl
@[simp] theorem State.atEnd_image (w : EndWrite) : (s.atEnd w).image = s.image := rfl
@[simp] theorem State.atEnd_scht (w : EndWrite) : (s.atEnd w).scht = s.scht := rfl
@[simp] theorem State.atEnd_reloc (w : EndWrite) : (s.atEnd w).reloc = s.reloc := rfl
@[simp] theorem State.atEnd_evicted (w : EndWrite) : (s.atEnd w).evicted = s.evicted := rfl
@[simp] theorem State.atEnd_cresumes (w : EndWrite) : (s.atEnd w).cresumes = s.cresumes := rfl
@[simp] theorem State.atEnd_ringAborts (w : EndWrite) : (s.atEnd w).ringAborts = s.ringAborts := rfl
@[simp] theorem State.atEnd_ringStarts (w : EndWrite) : (s.atEnd w).ringStarts = s.ringStarts := rfl
@[simp] theorem State.atEnd_inbound (w : EndWrite) : (s.atEnd w).inbound = s.inbound := rfl
@[simp] theorem State.atEnd_reports (w : EndWrite) : (s.atEnd w).reports = s.reports := rfl

/-! ### `block` -/

@[simp] theorem State.block_cycle : (s.block).cycle = s.cycle := rfl
@[simp] theorem State.block_issued : (s.block).issued = s.issued := rfl
@[simp] theorem State.block_cur : (s.block).cur = s.cur := rfl
@[simp] theorem State.block_rcore : (s.block).rcore = s.rcore := rfl
@[simp] theorem State.block_freeCtr : (s.block).freeCtr = s.freeCtr := rfl
@[simp] theorem State.block_nextId : (s.block).nextId = s.nextId := rfl
@[simp] theorem State.block_agenda : (s.block).agenda = s.agenda := rfl
@[simp] theorem State.block_ctxs : (s.block).ctxs = s.ctxs := rfl
@[simp] theorem State.block_cores : (s.block).cores = s.cores := rfl
@[simp] theorem State.block_clusters : (s.block).clusters = s.clusters := rfl
@[simp] theorem State.block_benches : (s.block).benches = s.benches := rfl
@[simp] theorem State.block_kernels : (s.block).kernels = s.kernels := rfl
@[simp] theorem State.block_inflight : (s.block).inflight = s.inflight := rfl
@[simp] theorem State.block_ends : (s.block).ends = s.ends := rfl
@[simp] theorem State.block_stores : (s.block).stores = s.stores := rfl
@[simp] theorem State.block_putqs : (s.block).putqs = s.putqs := rfl
@[simp] theorem State.block_mem : (s.block).mem = s.mem := rfl
@[simp] theorem State.block_poison : (s.block).poison = s.poison := rfl
@[simp] theorem State.block_eccCount : (s.block).eccCount = s.eccCount := rfl
@[simp] theorem State.block_ncc : (s.block).ncc = s.ncc := rfl
@[simp] theorem State.block_orders : (s.block).orders = s.orders := rfl
@[simp] theorem State.block_expos : (s.block).expos = s.expos := rfl
@[simp] theorem State.block_sigs : (s.block).sigs = s.sigs := rfl
@[simp] theorem State.block_cmds : (s.block).cmds = s.cmds := rfl
@[simp] theorem State.block_ceNext : (s.block).ceNext = s.ceNext := rfl
@[simp] theorem State.block_ceLast : (s.block).ceLast = s.ceLast := rfl
@[simp] theorem State.block_collLast : (s.block).collLast = s.collLast := rfl
@[simp] theorem State.block_tlbs : (s.block).tlbs = s.tlbs := rfl
@[simp] theorem State.block_faultSeq : (s.block).faultSeq = s.faultSeq := rfl
@[simp] theorem State.block_slip : (s.block).slip = s.slip := rfl
@[simp] theorem State.block_slipRing : (s.block).slipRing = s.slipRing := rfl
@[simp] theorem State.block_caps : (s.block).caps = s.caps := rfl
@[simp] theorem State.block_cells : (s.block).cells = s.cells := rfl
@[simp] theorem State.block_shut : (s.block).shut = s.shut := rfl
@[simp] theorem State.block_revokes : (s.block).revokes = s.revokes := rfl
@[simp] theorem State.block_deadChs : (s.block).deadChs = s.deadChs := rfl
@[simp] theorem State.block_locked : (s.block).locked = s.locked := rfl
@[simp] theorem State.block_evbase : (s.block).evbase = s.evbase := rfl
@[simp] theorem State.block_fabcfg : (s.block).fabcfg = s.fabcfg := rfl
@[simp] theorem State.block_exports : (s.block).exports = s.exports := rfl
@[simp] theorem State.block_jobTags : (s.block).jobTags = s.jobTags := rfl
@[simp] theorem State.block_ports : (s.block).ports = s.ports := rfl
@[simp] theorem State.block_links : (s.block).links = s.links := rfl
@[simp] theorem State.block_arbw : (s.block).arbw = s.arbw := rfl
@[simp] theorem State.block_arbwNext : (s.block).arbwNext = s.arbwNext := rfl
@[simp] theorem State.block_hqs : (s.block).hqs = s.hqs := rfl
@[simp] theorem State.block_lastQ : (s.block).lastQ = s.lastQ := rfl
@[simp] theorem State.block_pool : (s.block).pool = s.pool := rfl
@[simp] theorem State.block_aborts : (s.block).aborts = s.aborts := rfl
@[simp] theorem State.block_roots : (s.block).roots = s.roots := rfl
@[simp] theorem State.block_budgets : (s.block).budgets = s.budgets := rfl
@[simp] theorem State.block_budNext : (s.block).budNext = s.budNext := rfl
@[simp] theorem State.block_boot : (s.block).boot = s.boot := rfl
@[simp] theorem State.block_bootaddr : (s.block).bootaddr = s.bootaddr := rfl
@[simp] theorem State.block_image : (s.block).image = s.image := rfl
@[simp] theorem State.block_scht : (s.block).scht = s.scht := rfl
@[simp] theorem State.block_reloc : (s.block).reloc = s.reloc := rfl
@[simp] theorem State.block_evicted : (s.block).evicted = s.evicted := rfl
@[simp] theorem State.block_cresumes : (s.block).cresumes = s.cresumes := rfl
@[simp] theorem State.block_ringAborts : (s.block).ringAborts = s.ringAborts := rfl
@[simp] theorem State.block_ringStarts : (s.block).ringStarts = s.ringStarts := rfl
@[simp] theorem State.block_inbound : (s.block).inbound = s.inbound := rfl
@[simp] theorem State.block_reports : (s.block).reports = s.reports := rfl

/-! ### Reading a component after an update -/

theorem State.setCtx_ctx (u v : Nat) (c : Ctx) : (s.setCtx u c).ctx v = if v = u then c else s.ctx v := mget_mset _ _ _ _ _

@[simp] theorem State.setCtx_ctx_same (u : Nat) (c : Ctx) : (s.setCtx u c).ctx u = c := by simp [State.setCtx_ctx]

theorem State.setCtx_ctx_ne (u v : Nat) (c : Ctx) (h : v ≠ u) : (s.setCtx u c).ctx v = s.ctx v := by
  simp [State.setCtx_ctx, h]

theorem State.setCore_core (u v : Nat) (c : Core) : (s.setCore u c).core v = if v = u then c else s.core v :=
  mget_mset _ _ _ _ _

@[simp] theorem State.setCore_core_same (u : Nat) (c : Core) : (s.setCore u c).core u = c := by simp [State.setCore_core]

theorem State.setCluster_cluster (u v : Nat) (c : Cluster) :
    (s.setCluster u c).cluster v = if v = u then c else s.cluster v := mget_mset _ _ _ _ _

@[simp] theorem State.setCluster_cluster_same (u : Nat) (c : Cluster) : (s.setCluster u c).cluster u = c := by
  simp [State.setCluster_cluster]

theorem State.setKernel_kernel (u v : Nat) (c : Kernel) : (s.setKernel u c).kernel v = if v = u then c else s.kernel v :=
  mget_mset _ _ _ _ _

@[simp] theorem State.setKernel_kernel_same (u : Nat) (c : Kernel) : (s.setKernel u c).kernel u = c := by
  simp [State.setKernel_kernel]

/-! ### Components not touched -/

@[simp] theorem State.setCtx_core (u v : Nat) (c : Ctx) : (s.setCtx u c).core v = s.core v := rfl
@[simp] theorem State.setCtx_cluster (u v : Nat) (c : Ctx) : (s.setCtx u c).cluster v = s.cluster v := rfl
@[simp] theorem State.setCtx_kernel (u v : Nat) (c : Ctx) : (s.setCtx u c).kernel v = s.kernel v := rfl
@[simp] theorem State.setCore_ctx (u v : Nat) (c : Core) : (s.setCore u c).ctx v = s.ctx v := rfl
@[simp] theorem State.setCluster_ctx (u v : Nat) (c : Cluster) : (s.setCluster u c).ctx v = s.ctx v := rfl
@[simp] theorem State.setCluster_core (u v : Nat) (c : Cluster) : (s.setCluster u c).core v = s.core v := rfl
@[simp] theorem State.setKernel_ctx (u v : Nat) (c : Kernel) : (s.setKernel u c).ctx v = s.ctx v := rfl
@[simp] theorem State.draw_ctx (v : Nat) : s.draw.ctx v = s.ctx v := rfl
@[simp] theorem State.draw_kernel (v : Nat) : s.draw.kernel v = s.kernel v := rfl
@[simp] theorem State.defer_ctx (lat : Nat) (r : RVal) (fl : Flags) (v : Nat) : (s.defer lat r fl).ctx v = s.ctx v := rfl
@[simp] theorem State.defer_me (lat : Nat) (r : RVal) (fl : Flags) : (s.defer lat r fl).me = s.me := rfl
@[simp] theorem State.atEnd_ctx (w : EndWrite) (v : Nat) : (s.atEnd w).ctx v = s.ctx v := rfl
@[simp] theorem State.block_ctx (v : Nat) : s.block.ctx v = s.ctx v := rfl
@[simp] theorem State.setMe_me (c : Ctx) : (s.setMe c).me = c := by simp [State.setMe, State.me]

/-! ### What the changed field holds -/

@[simp] theorem State.draw_freeCtr : s.draw.freeCtr = s.freeCtr + 1 := rfl
theorem State.defer_inflight (lat : Nat) (v : RVal) (fl : Flags) :
    (s.defer lat v fl).inflight = s.inflight ++
      [{ ctx := s.cur, due := s.cycle + lat, issued := s.cycle, slot := s.iss.slot, val := v, flags := fl }] := rfl
theorem State.atEnd_ends (w : EndWrite) : (s.atEnd w).ends = s.ends ++ [(s.cur, s.iss.slot, w)] := rfl
@[simp] theorem State.block_blocked : s.block.iss.blocked = true := rfl

end Sys2Proof.Machine
end

