-- ==== Sys2Proof/Laws/Writeback.lean ====
section
/-! SUPPORT. RESULT_WRITEBACK of one result: what reaches each kind of register (R120, R124, R208). -/

namespace Sys2Proof.Machine

theorem State.clean_mem (s : State) (a n : Nat) : (s.clean a n).mem = s.mem := by unfold State.clean; split <;> rfl
theorem State.clean_ctx (s : State) (a n u : Nat) : (s.clean a n).ctx u = s.ctx u := by unfold State.clean; split <;> rfl

/-- Writing one result changes its context alone. -/
theorem State.land_ctx (s : State) (u v : Nat) (x : RVal) (f : Flags) :
    (s.land u x f).ctx v = if v = u then ((s.ctx u).writeRes x).orFlags f else s.ctx v := by
  unfold State.land
  cases x <;> simp only [State.setCtx_ctx]
  split <;> simp only [State.clean_ctx, State.setCtx_ctx]

theorem State.land_mem (s : State) (u : Nat) (x : RVal) (f : Flags) : (s.land u x f).mem = s.mem := by
  unfold State.land
  cases x <;> simp only [State.setCtx_mem]
  split <;> simp only [State.clean_mem, State.setCtx_mem]

/-- With one result due, and nothing else, RESULT_WRITEBACK writes it. -/
theorem execResultWriteback_one {s : State} {r : Res} (h : Ready s r) (hl : r.isLatch = false) :
    execResultWriteback s = .next ((({ s with inflight := [] } : State)).land r.ctx r.val r.flags) := by
  have he : s.endWrites = s := by
    unfold State.endWrites
    rw [h.ends]
    show ({ s with ends := [] } : State) = s
    rw [← h.ends]
  have hd : Res.due? s.cycle r = true := by simp [Res.due?, h.due, hl]
  unfold execResultWriteback
  simp only [he, h.inflight, List.filter_cons, hd, if_true, Bool.not_true, Bool.false_eq_true, if_false, List.filter_nil,
    sortBy, insertBy, List.foldl_cons, List.foldl_nil]
  have hlife : (({ s with inflight := [] } : State).ctx r.ctx).life = .running := h.life
  unfold State.writeBack
  simp only [hlife]
  cases hv : r.val with
  | latch k x => simp [Res.isLatch, hv] at hl
  | _ => rfl

theorem atWriteback_of {r : Res} {P : Ctx → Ctx → Prop} (hl : r.isLatch = false)
    (hP : ∀ c : Ctx, P c ((c.writeRes r.val).orFlags r.flags)) (hf : ∀ c : Ctx, (c.writeRes r.val).fpstat = c.fpstat) :
    AtWriteback r P := by
  intro s h
  refine ⟨_, execResultWriteback_one h hl, ?_, ?_, ?_, ?_⟩
  · rw [State.land_ctx, if_pos rfl]; exact hP _
  · rw [State.land_ctx, if_pos rfl]
    show ((s.ctx r.ctx).writeRes r.val).fpstat ||| r.flags = _
    rw [hf]
  · intro a; rw [State.land_mem]
  · intro v hv; rw [State.land_ctx, if_neg hv]; rfl

/-- Reading S registers after a write. -/
theorem Ctx.writeRes_s (c : Ctx) (sd : BitVec 6) (v : BitVec 64) (n : BitVec 6) :
    (c.writeRes (.s sd v)).s n = if n = 0#6 then 0#64 else if n = sd then v else c.s n := by
  by_cases h0 : n = 0#6
  · simp [Ctx.s, h0]
  · by_cases hs : sd = 0
    · have : n ≠ sd := by rw [hs]; exact h0
      simp [Ctx.writeRes, hs, h0]
    · have e : (n.toNat = sd.toNat) = (n = sd) := by simp [BitVec.toNat_inj]
      have hs' : ¬ sd = 0#6 := hs
      simp [Ctx.writeRes, hs', h0, Ctx.s, mget_mset, e]

theorem atWriteback_s (r : Res) (sd : BitVec 6) (v : BitVec 64) (h : r.val = .s sd v) :
    AtWriteback r (fun c d => (∀ n, d.s n = if n = 0#6 then 0#64 else if n = sd then v else c.s n) ∧
      d.v = c.v ∧ d.ar = c.ar ∧ d.m = c.m) := by
  have e : ∀ c : Ctx, ∀ x, (c.writeRes (.s sd v)).v = c.v ∧ (c.writeRes (.s sd v)).ar = c.ar ∧
      (c.writeRes (.s sd v)).m = c.m ∧ (c.writeRes (.s sd v)).fpstat = c.fpstat ∧
      ((c.writeRes (.s sd v)).orFlags r.flags).s x = (c.writeRes (.s sd v)).s x := by
    intro c x
    unfold Ctx.writeRes
    dsimp only
    split <;> exact ⟨rfl, rfl, rfl, rfl, rfl⟩
  refine atWriteback_of (by simp [Res.isLatch, h]) (fun c => ?_) (fun c => by rw [h]; exact (e c 0).2.2.2.1)
  rw [h]
  exact ⟨fun n => by rw [(e c n).2.2.2.2, Ctx.writeRes_s], (e c 0).1, (e c 0).2.1, (e c 0).2.2.1⟩

theorem atWriteback_a (r : Res) (ad : BitVec 4) (v : BitVec 32) (h : r.val = .a ad v) :
    AtWriteback r (fun c d => (∀ n, d.a n = if n = ad then v else c.a n) ∧ d.v = c.v ∧ d.sr = c.sr ∧ d.m = c.m) := by
  refine atWriteback_of (by simp [Res.isLatch, h]) (fun c => ?_) (fun c => by rw [h]; rfl)
  rw [h]
  refine ⟨fun n => ?_, rfl, rfl, rfl⟩
  have e : (n.toNat = ad.toNat) = (n = ad) := by simp [BitVec.toNat_inj]
  show mget 0 (mset 0 c.ar ad.toNat v) n.toNat = _
  simp only [mget_mset, e, Ctx.a]

/-- Writing a masked V result. -/
theorem atWriteback_v (r : Res) (p : Nat) (val mask : BitVec 4096) (t : ETy) (h : r.val = .v p val mask t) :
    AtWriteback r (fun c d => mget 0#4096 d.v p = (mget 0#4096 c.v p &&& ~~~mask) ||| (val &&& mask) ∧
      (∀ n, n ≠ p → mget 0#4096 d.v n = mget 0#4096 c.v n) ∧ d.sr = c.sr ∧ d.ar = c.ar ∧ d.m = c.m) := by
  refine atWriteback_of (by simp [Res.isLatch, h]) (fun c => ?_) (fun c => by rw [h]; rfl)
  rw [h]
  refine ⟨?_, fun n hn => ?_, rfl, rfl, rfl⟩
  · show mget 0 (mset 0 c.v p _) p = _
    rw [mget_mset_same]; rfl
  · show mget 0 (mset 0 c.v p _) n = _
    rw [mget_mset_ne _ _ _ _ _ hn]; rfl

/-- A V result made of lane results. -/
theorem vResult_of (s : State) (lat d : Nat) (t : ETy) (on : Nat → Bool) (f : Nat → Nat × Flags) :
    VResult s (s.result lat (.v (physV s.me.vrot d) (lanesVal t.width (laneResults t.lanes on f))
        (lanesMask t.width (laneResults t.lanes on f)) t) (lanesFlags (laneResults t.lanes on f))) lat d t on
      (fun k => (f k).1) (fun k => (f k).2) := by
  refine ⟨rfl, rfl, rfl, rfl, orLanes_eq on f t.lanes, ?_⟩
  intro s' h
  obtain ⟨t', he, hP, hf, hm, ho⟩ := atWriteback_v _ (physV s.me.vrot d) _ _ t rfl s' h
  refine ⟨t', he, ⟨fun k hk => ?_, hP.2.1, hP.2.2.1, hP.2.2.2.1, hP.2.2.2.2⟩, hf, hm, ho⟩
  rw [hP.1, lane_merge t _ _ _ k (on k) (lane_lanesMask t on f k hk), lane_lanesVal t on f k hk]
  cases on k <;> simp

theorem atWriteback_m (r : Res) (md : BitVec 4) (val mask : BitVec 1024) (h : r.val = .m md val mask) :
    AtWriteback r (fun c d =>
      (∀ k, k < 1024 → md ≠ 0#4 → (d.mask md).getLsbD k = if mask.getLsbD k then val.getLsbD k else (c.mask md).getLsbD k) ∧
      (∀ n, n ≠ md → d.mask n = c.mask n) ∧ d.mask 0#4 = BitVec.allOnes 1024 ∧ d.v = c.v ∧ d.sr = c.sr ∧ d.ar = c.ar) := by
  have e : ∀ c : Ctx, (c.writeRes (.m md val mask)).fpstat = c.fpstat := by
    intro c; unfold Ctx.writeRes; dsimp only; split <;> rfl
  refine atWriteback_of (by simp [Res.isLatch, h]) (fun c => ?_) (fun c => by rw [h]; exact e c)
  rw [h]
  by_cases h0 : md = 0#4
  · have hw : c.writeRes (.m md val mask) = c := by simp [Ctx.writeRes, h0]
    rw [hw]
    exact ⟨fun _ _ hn => absurd h0 hn, fun n _ => rfl, by simp [Ctx.mask], rfl, rfl, rfl⟩
  · have hw : c.writeRes (.m md val mask) =
        { c with m := mset 0 c.m md.toNat ((mget 0 c.m md.toNat &&& ~~~mask) ||| (val &&& mask)) } := by
      simp [Ctx.writeRes, h0]
    rw [hw]
    refine ⟨fun k hk _ => ?_, fun n hn => ?_, by simp [Ctx.mask], rfl, rfl, rfl⟩
    · have hv : Ctx.mask (({ c with m := mset 0 c.m md.toNat ((mget 0 c.m md.toNat &&& ~~~mask) ||| (val &&& mask)) } : Ctx).orFlags r.flags) md =
          (mget 0 c.m md.toNat &&& ~~~mask) ||| (val &&& mask) := by
        simp [Ctx.mask, h0, Ctx.orFlags]
      rw [hv]
      have hc : c.mask md = mget 0 c.m md.toNat := by simp [Ctx.mask, h0]
      rw [hc]
      rw [BitVec.getLsbD_or, BitVec.getLsbD_and, BitVec.getLsbD_and, BitVec.getLsbD_not]
      cases mask.getLsbD k <;> simp [hk]
    · have e : (n.toNat = md.toNat) = (n = md) := by simp [BitVec.toNat_inj]
      by_cases hn0 : n = 0#4
      · simp [Ctx.mask, hn0]
      · simp [Ctx.mask, hn0, Ctx.orFlags, e, hn]

end Sys2Proof.Machine
end

