-- ==== Sys2Proof/Laws/Ops.lean ====
section
/-! SUPPORT. One lemma for each shared operation, saying all that it does: guards and slots (R48, R149), results in flight
(R208), the trap (R145), waits of queue operands (R188), the writes of the command processor and the completion of a
command (R382). -/

namespace Sys2Proof.Machine

/-! ### Guards and slots -/

theorem guardOk_of {s : State} {g : BitVec 3} (h : s.Runs g) : guardOk s.me g = true := by
  unfold guardOk
  rcases h with h | h <;> simp [h]

theorem guardOk_not {s : State} {g : BitVec 3} (h : s.Idles g) : guardOk s.me g = false := by simp [guardOk, h.1, h.2]

/-- Every state runs a guard or idles it. -/
theorem runs_or_idles (s : State) (g : BitVec 3) : s.Runs g ∨ s.Idles g := by
  unfold State.Runs State.Idles
  by_cases h : g = 0#3
  · exact .inl (.inl h)
  · cases hb : s.me.stage.getLsbD g.toNat
    · exact .inr ⟨h, rfl⟩
    · exact .inl (.inr rfl)

/-- An open slot acts. -/
theorem slotDo_runs {s : State} {g : BitVec 3} (h : s.Runs g) (act : State → State) : slotDo g s act = .next (act s) := by
  simp [slotDo, guardOk_of h]

/-- A closed slot does nothing. -/
theorem slotDo_idles {s : State} {g : BitVec 3} (h : s.Idles g) (act : State → State) : slotDo g s act = .next s := by
  simp [slotDo, guardOk_not h]

/-- A slot always ends in a next state. -/
theorem slotDo_next (g : BitVec 3) (s : State) (act : State → State) : ∃ t, slotDo g s act = .next t := ⟨_, rfl⟩

/-! ### Results in flight -/

theorem State.defer_eq (s : State) (lat : Nat) (v : RVal) : s.defer lat v 0 = s.plus [s.result lat v 0#7] := rfl

theorem State.deferS_eq (s : State) (lat : Nat) (sd : BitVec 6) (v : BitVec 64) :
    s.deferS lat sd v = s.plus [s.result lat (.s sd v) 0#7] := rfl

theorem State.atEnd_eq (s : State) (w : EndWrite) : s.atEnd w = s.plusEnd w := rfl

theorem xsrc_eq (c : Ctx) (b : XSrc) : c.xsrc b = match b with | .reg r => c.s r | .imm v => v.signExtend 64 := by cases b <;> rfl

theorem xsrcZ_eq (c : Ctx) (b : XSrc) : c.xsrcZ b = match b with | .reg r => c.s r | .imm v => v.zeroExtend 64 := by cases b <;> rfl

/-- A scalar operation whose guard is open has one result in flight, of its function. -/
theorem scalarOp_runs (lat : Nat) (f : Word → Word → Word) {g : BitVec 3} (sd sa : BitVec 6) (b : XSrc) {s : State} (h : s.Runs g) :
    scalarOp lat f g sd sa b s = .next (s.plus [s.result lat (.s sd (f (s.me.s sa) (s.me.xsrc b))) 0#7]) := by
  rw [scalarOp, slotDo_runs h]; rfl

/-- An answer with one scalar result in flight writes it. -/
theorem writesS_of {i : Instr} {s b : State} {lat : Nat} {sd : BitVec 6} {v v' : BitVec 64}
    (h : exec i s = .next (b.plus [s.result lat (.s sd v) 0#7])) (e : v = v') : WritesS i s b lat sd v' := by
  subst e
  exact ⟨h, atWriteback_s _ _ _ rfl⟩

theorem writesA_of {i : Instr} {s : State} {lat : Nat} {ad : BitVec 4} {v v' : BitVec 32}
    (h : exec i s = .next (s.plus [s.result lat (.a ad v) 0#7])) (e : v = v') : WritesA i s lat ad v' := by
  subst e
  exact ⟨h, atWriteback_a _ _ _ rfl⟩

/-! ### V slots -/

/-- No register of the list is lent: none is hit. -/
theorem lentHit_none {s : State} {regs : List Nat} (h : s.NotLent regs) : lentHit s.me regs = none := by
  unfold lentHit
  rw [List.find?_eq_none]
  intro b hb
  obtain ⟨n, hn, rfl⟩ := List.mem_map.mp hb
  simp only [bankOfReg, h n hn, Bool.false_eq_true, not_false_eq_true]

/-- A slot whose registers are free acts. -/
theorem State.withRegs_free {s : State} {regs : List Nat} (h : s.NotLent regs) (act : State → State) :
    s.withRegs regs act = act s := by
  rw [State.withRegs, lentHit_none h]

/-- A V slot that runs. -/
theorem vSlot_runs {s : State} {f : VF} {regs : List Nat} (h : s.RunsV f regs) (act : State → State) :
    vSlot f regs s act = .next (act s) := by
  rw [vSlot, slotDo_runs h.1, State.withRegs_free h.2]

theorem State.srTick_eq (s : State) (ro : BitVec 2) : s.srTick ro = s.afterRo ro := rfl

/-- A lane-wise V slot that runs writes each active lane with its function's value and flags. -/
theorem writesV_of {i : Instr} {s : State} {f : VF} {regs : List Nat} {lat : Nat} {fn : State → Nat → Nat × Flags}
    (he : exec i s = vLanes lat f regs s fn) (h : s.RunsV f regs) :
    WritesV i s (s.afterRo f.ro) lat f.opd.toNat f.ty (s.on f) (fun k => (fn s k).1) (fun k => (fn s k).2) := by
  refine ⟨_, ?_, vResult_of s lat f.opd.toNat f.ty (s.on f) (fn s)⟩
  rw [he, vLanes, vSlot_runs h]
  simp only [State.srTick]
  unfold State.afterRo
  by_cases hr : f.ro = 3
  · simp only [hr, if_true]; rfl
  · have hr' : ¬ f.ro = 3#2 := hr
    simp only [hr, hr', if_false]; rfl

/-! ### Writes of the command processor -/

@[simp] theorem State.writeSys_mem (s : State) (a n v : Nat) : (s.writeSys a n v).mem = s.mem := rfl
@[simp] theorem State.writeSys_ctxs (s : State) (a n v : Nat) : (s.writeSys a n v).ctxs = s.ctxs := rfl
@[simp] theorem State.writeSys_hqs (s : State) (a n v : Nat) : (s.writeSys a n v).hqs = s.hqs := rfl

theorem State.appendOrder_order (s : State) (d : Nat) (l : List Wr) (k : Nat) :
    (s.appendOrder d l).order k = if k = d then s.order k ++ l else s.order k := by
  unfold State.appendOrder
  by_cases hl : l.isEmpty
  · have : l = [] := by simpa using hl
    simp [this]
  · simp only [hl, Bool.false_eq_true, if_false, State.order, mget_mset]
    split <;> simp_all

/-- A write at the system commit point stands last in its order; no other order changes. -/
theorem State.writeSys_order (s : State) (a n v k : Nat) :
    (s.writeSys a n v).order k = if k = 131 then s.order 131 ++ [⟨s.nextId, a, n, v % 256 ^ n⟩] else s.order k := by
  have := State.appendOrder_order s 131 [⟨s.nextId, a, n, v % 256 ^ n⟩] k
  show (s.appendOrder 131 _).order k = _
  rw [this]
  split <;> simp_all

/-- A write of the command processor changes orders, marks and identifiers alone. -/
theorem State.writePa_eq (s : State) (pa n v : Nat) :
    s.writePa pa n v = { s with poison := (s.writePa pa n v).poison, orders := (s.writePa pa n v).orders
                                nextId := (s.writePa pa n v).nextId } := by
  unfold State.writePa
  split
  · split
    · rfl
    · simp only [State.writeSys, State.appendOrder, State.clean]
      split <;> rfl
  · rfl

@[simp] theorem State.writePa_mem (s : State) (pa n v : Nat) : (s.writePa pa n v).mem = s.mem := by rw [State.writePa_eq]
@[simp] theorem State.writePa_ctxs (s : State) (pa n v : Nat) : (s.writePa pa n v).ctxs = s.ctxs := by rw [State.writePa_eq]
@[simp] theorem State.writePa_iss (s : State) (pa n v : Nat) : (s.writePa pa n v).iss = s.iss := by rw [State.writePa_eq]
@[simp] theorem State.writePa_reports (s : State) (pa n v : Nat) : (s.writePa pa n v).reports = s.reports := by rw [State.writePa_eq]

/-! ### The trap (R145) -/

/-- Taking a trap: every context but one is as before, and memory too. -/
theorem State.takeTrap_spec (s : State) (u : Nat) (t : TrapInfo) (pc resume : Nat) :
    let x := s.takeTrap u t pc resume
    x.mem = s.mem ∧ x.iss = s.iss ∧ x.cur = s.cur ∧ (∀ v, v ≠ u → x.ctx v = s.ctx v) ∧ (x.ctx u).life = .trapped ∧
    (x.ctx u).trap = some t ∧ (x.ctx u).trapPc = pc ∧ (x.ctx u).resumePc = resume ∧ (x.ctx u).yielded = false ∧
    RegsSame (s.ctx u) (x.ctx u) ∧ (x.kernel (s.ctx u).kernel).trapped = true := by
  intro x
  have hx : ∀ v, x.ctx v = if v = u then { s.ctx u with
      life := .trapped, frozenAt := s.cycle, yielded := false, fq := [], mread := none, pre := .none
      gapLeft := (s.ctx u).readyAt - s.cycle
      trap := some t, trapPc := pc, resumePc := resume, sheet := (s.ctx u).resheet s.cycle, released := false
      releaseAt := s.releaseTime s.cycle
      loop := (s.ctx u).loop.map (fun l => { l with buf := [], met := if resume = pc then l.met else l.met + 1 }) } else s.ctx v := by
    intro v
    simp only [x, State.takeTrap, State.ctx, State.setKernel, State.setCtx, State.draw, mget_mset]
  have hu := (hx u).trans (if_pos rfl)
  have hr : (x.kernel (s.ctx u).kernel).trapped = true := by simp only [x, State.takeTrap, State.kernel, State.setKernel, mget_mset, if_pos]
  have hk : RegsSame (s.ctx u) (x.ctx u) := by rw [hu]; exact ⟨rfl, rfl, rfl, rfl, rfl, rfl, rfl, rfl, rfl, rfl⟩
  exact ⟨rfl, rfl, rfl, fun v hv => by rw [hx, if_neg hv], by rw [hu], by rw [hu], by rw [hu], by rw [hu], by rw [hu], hk, hr⟩

/-- A trap of the running slot is what `Trapped` says. -/
theorem State.trap_spec (s : State) (code cause info addr : Nat) : Trapped s (s.trap code cause info addr) code cause info addr := by
  obtain ⟨hm, _, _, ho, h1, h2, h3, h4, h5, h6, h7⟩ := State.takeTrap_spec s s.cur
    { code := code, cause := cause, slot := s.iss.slot, info := info, addr := addr } s.iss.pc s.iss.pc
  exact ⟨h1, h2, h3, h4, h5, h6, ho, fun a => congrArg (fun m => readByte m a) hm, h7⟩

/-! ### Waits of queue operands (R188) -/

/-- The four ways of a slot with a scratchpad operand: a handle without the slot, a wait that is met, a wait that may still
end, and one that never can. -/
theorem State.withQueue_cases (s : State) (side : Side) (spa : Spa) (run : Bool → State → State) :
    (handleOk s.me spa = false ∧ s.withQueue side spa run = s.trap 0x01 0x09 0 0) ∨
    (handleOk s.me spa = true ∧ waitMet s.me side spa = true ∧ s.withQueue side spa run = run false s) ∨
    (handleOk s.me spa = true ∧ waitMet s.me side spa = false ∧ waitCanEnd s.me side spa = true ∧
      s.withQueue side spa run = s.block) ∨
    (handleOk s.me spa = true ∧ waitMet s.me side spa = false ∧ waitCanEnd s.me side spa = false ∧
      s.withQueue side spa run = run true s) := by
  unfold State.withQueue
  cases handleOk s.me spa <;> cases waitMet s.me side spa <;> cases waitCanEnd s.me side spa <;> simp

/-! ### Completion of a command (R382) -/

theorem HwQueue.settle_spec (n : Nat) (h : HwQueue) : ∃ l d, HwQueue.settle n h = { h with lcomp := l, done := d } := by
  induction n generalizing h with
  | zero => exact ⟨_, _, rfl⟩
  | succ n ih =>
    unfold HwQueue.settle
    dsimp only
    split
    · exact ih _
    · exact ⟨_, _, rfl⟩

/-- Only grows: what an order held, it holds. -/
def Grows (s t : State) : Prop := ∀ k, ∀ w ∈ s.order k, w ∈ t.order k

/-- A completion writes its record and moves its queue alone. -/
theorem State.complete_spec (s : State) (q seq op status detail : Nat) (ho : op < 256) (hs : status < 256) :
    Recorded s (s.complete q seq op status detail) q seq op status detail ∧
    QueuesOnly s (s.complete q seq op status detail) ∧ Grows s (s.complete q seq op status detail) := by
  unfold State.complete
  dsimp only
  cases hl : s.ringLoc (s.hq q).comp (16 * (seq % (s.hq q).slots)) with
  | none =>
    refine ⟨fun loc h => ?_, rfl, fun _ _ h => h⟩
    rw [hl] at h; cases h
  | some loc =>
    refine ⟨fun loc' h => ?_, rfl, fun k w h => ?_⟩
    · rw [hl] at h; cases h
      refine ⟨⟨s.nextId, loc, 16, (seq % 2 ^ 32 * 2 ^ 32 + status * 2 ^ 8 + op + detail % 2 ^ 64 * 2 ^ 64) % 256 ^ 16⟩, ?_, rfl, rfl, ?_⟩
      · show _ ∈ (s.writeSys loc 16 _).order 131
        rw [State.writeSys_order, if_pos rfl]
        exact List.mem_append_right _ (List.mem_singleton.mpr rfl)
      · refine Nat.mod_eq_of_lt ?_
        have h1 : seq % 2 ^ 32 < 2 ^ 32 := Nat.mod_lt _ (by decide)
        have h2 : detail % 2 ^ 64 < 2 ^ 64 := Nat.mod_lt _ (by decide)
        simp only [Nat.reducePow] at *
        omega
    · show w ∈ (s.writeSys loc 16 _).order k
      rw [State.writeSys_order]
      split
      · rename_i hk; subst hk; exact List.mem_append_left _ h
      · exact h

/-- `QueuesOnly` and `Grows` follow one another. -/
theorem QueuesOnly.trans {s t u : State} (h1 : QueuesOnly s t) (h2 : QueuesOnly t u) : QueuesOnly s u := by
  unfold QueuesOnly at *
  rw [h2, h1]

theorem Grows.trans {s t u : State} (h1 : Grows s t) (h2 : Grows t u) : Grows s u := fun k w h => h2 k w (h1 k w h)

/-- What a queue turns away moves queues and records alone. -/
theorem State.settleQueue_spec (n : Nat) (s : State) (q : Nat) :
    QueuesOnly s (State.settleQueue n s q) ∧ Grows s (State.settleQueue n s q) := by
  induction n generalizing s with
  | zero => exact ⟨rfl, fun _ _ h => h⟩
  | succ n ih =>
    unfold State.settleQueue
    dsimp only
    split
    · exact ⟨QueuesOnly.trans (t := s.setHq q _) rfl (ih _).1, Grows.trans (t := s.setHq q _) (fun _ _ h => h) (ih _).2⟩
    · split
      · exact ⟨rfl, fun _ _ h => h⟩
      · split
        · exact ⟨rfl, fun _ _ h => h⟩
        · rename_i ws _ _ st hst
          split
          · have ho : cOp ws < 256 := Nat.mod_lt _ (by decide)
            have hs : st < 256 := by
              unfold badStatus at hst
              split at hst
              · cases hst; decide
              · split at hst
                · cases hst
                · cases hst; decide
            have hc := fun (x : State) => State.complete_spec x q (s.hq q).next (cOp ws) st 0 ho hs
            exact ⟨(QueuesOnly.trans (t := s.setHq q _) rfl (hc _).2.1).trans (ih _).1,
              (Grows.trans (t := s.setHq q _) (fun _ _ h => h) (hc _).2.2).trans (ih _).2⟩
          · exact ⟨rfl, fun _ _ h => h⟩

/-- A command that completes has its record, and nothing but queues, orders and identifiers differs. -/
theorem State.conclude_spec (s : State) (q seq op status detail : Nat) (ho : op < 256) (hs : status < 256) :
    Recorded s (s.conclude q seq op status detail) q seq op status detail ∧ QueuesOnly s (s.conclude q seq op status detail) ∧
    Grows s (s.conclude q seq op status detail) := by
  have h1 := State.complete_spec s q seq op status detail ho hs
  have h2 := State.settleQueue_spec ringMax (s.complete q seq op status detail) q
  refine ⟨fun loc h => ?_, h1.2.1.trans h2.1, h1.2.2.trans h2.2⟩
  obtain ⟨w, hw, e⟩ := h1.1 loc h
  exact ⟨w, h2.2 131 w hw, e⟩

end Sys2Proof.Machine
end

