-- ==== Sys2Proof/Laws/Order.lean ====
section
/-! SUPPORT. Publish and Acquire (R104, R105): they change orders and the party's own view and pending writes alone; an order
only grows, and a view never moves back (R102). -/

namespace Sys2Proof.Machine

/-- Only the orders differ. -/
def OrdersOnly (s t : State) : Prop := t = { s with orders := t.orders }

theorem OrdersOnly.refl (s : State) : OrdersOnly s s := rfl

theorem OrdersOnly.trans {s t u : State} (h1 : OrdersOnly s t) (h2 : OrdersOnly t u) : OrdersOnly s u := by
  unfold OrdersOnly at *
  rw [h2, h1]

theorem State.appendOrder_spec (s : State) (d : Nat) (l : List Wr) :
    OrdersOnly s (s.appendOrder d l) ∧ Grows s (s.appendOrder d l) := by
  constructor
  · unfold State.appendOrder
    split <;> rfl
  · intro k w h
    rw [State.appendOrder_order]
    split
    · exact List.mem_append_left _ h
    · exact h

theorem carryChain_spec (core : Nat) (v : View) (n j p : Nat) (s : State) :
    OrdersOnly s (carryChain core v n j p s) ∧ Grows s (carryChain core v n j p s) := by
  induction n generalizing j p s with
  | zero => exact ⟨rfl, fun _ _ h => h⟩
  | succ n ih =>
    have h := State.appendOrder_spec s (domainParent (domainOf core j))
      (missing (s.order (domainOf core j)) (s.order (domainParent (domainOf core j))) (max p (v.at j)))
    exact ⟨h.1.trans (ih _ _ _).1, h.2.trans (ih _ _ _).2⟩

theorem pushPending_spec (core : Nat) (pend : List Wr) (n j : Nat) (s : State) :
    OrdersOnly s (pushPending core pend n j s) ∧ Grows s (pushPending core pend n j s) := by
  induction n generalizing j s with
  | zero => exact ⟨rfl, fun _ _ h => h⟩
  | succ n ih =>
    unfold pushPending
    dsimp only
    have h := State.appendOrder_spec s (domainOf core j)
      (pend.filter (fun w => !(holds (s.order (domainOf core j)) w) && (j == 3 || !w.remote)))
    split
    · exact ⟨h.1.trans (ih _ _).1, h.2.trans (ih _ _).2⟩
    · have h2 := State.appendOrder_spec (s.appendOrder (domainOf core j)
        (pend.filter (fun w => !(holds (s.order (domainOf core j)) w) && (j == 3 || !w.remote)))) (domainParent (domainOf core j))
      exact ⟨(h.1.trans (h2 _).1).trans (ih _ _).1, (h.2.trans (h2 _).2).trans (ih _ _).2⟩

theorem View.raise_at (v : View) (j p k : Nat) : v.at k ≤ (v.raise j p).at k := by
  unfold View.raise View.at
  split <;> split <;> first | exact Nat.le_refl _ | exact Nat.le_max_left _ _

theorem raiseAll_at (core : Nat) (s t : State) (n : Nat) (v : View) (k : Nat) : v.at k ≤ (raiseAll core s t n v).at k := by
  induction n generalizing v with
  | zero => exact Nat.le_refl _
  | succ n ih =>
    unfold raiseAll
    dsimp only
    split
    · exact Nat.le_trans (View.raise_at _ _ _ _) (ih _)
    · exact ih _

/-- Publish: orders grow and nothing else changes; the view does not move back; at SYS nothing stays pending. -/
theorem State.publish_spec (s : State) (core : Nat) (sc : Scope) (v : View) (pend : List Wr) :
    let r := s.publish core sc v pend
    OrdersOnly s r.1 ∧ Grows s r.1 ∧ (∀ k, v.at k ≤ r.2.1.at k) ∧ (sc = .sys → r.2.2 = []) := by
  intro r
  simp only [r, State.publish]
  cases hL : scopeLevel sc with
  | none =>
    refine ⟨rfl, fun _ _ h => h, fun _ => Nat.le_refl _, fun h => ?_⟩
    subst h; cases hL
  | some L =>
    have h1 := carryChain_spec core v L 0 0 s
    refine ⟨?_, ?_, fun k => raiseAll_at _ _ _ _ _ _, fun h => ?_⟩
    · dsimp only
      split
      · exact h1.1
      · exact h1.1.trans (pushPending_spec _ _ _ _ _).1
    · dsimp only
      split
      · exact h1.2
      · exact h1.2.trans (pushPending_spec _ _ _ _ _).2
    · subst h; cases hL; rfl

/-- Acquire moves no level back. -/
theorem State.acquire_at (s : State) (core : Nat) (sc : Scope) (v : View) (k : Nat) : v.at k ≤ (s.acquire core sc v).at k := by
  unfold State.acquire
  split
  · exact Nat.le_refl _
  · unfold View.at
    split <;> dsimp only
    · exact Nat.le_max_left _ _
    · split
      · exact Nat.le_max_left _ _
      · exact Nat.le_refl _
    · split
      · exact Nat.le_max_left _ _
      · exact Nat.le_refl _
    · split
      · exact Nat.le_max_left _ _
      · exact Nat.le_refl _

/-- Publish by a context changes no other context and no byte of memory. -/
theorem State.publishCtx_spec (s : State) (u : Nat) (sc : Scope) :
    let t := s.publishCtx u sc
    t.mem = s.mem ∧ OthersSame u s t ∧ Grows s t ∧ (∀ k, (s.ctx u).view.at k ≤ (t.ctx u).view.at k) ∧
    (sc = .sys → (t.ctx u).outbox = []) := by
  intro t
  simp only [t, State.publishCtx]
  cases hL : scopeLevel sc with
  | none =>
    refine ⟨rfl, fun _ _ => rfl, fun _ _ h => h, fun _ => Nat.le_refl _, fun h => ?_⟩
    subst h; cases hL
  | some L =>
    dsimp only
    obtain ⟨p1, p2, p3, p4⟩ := State.publish_spec s (s.ctx u).core sc (s.ctx u).view (s.ctx u).outbox
    refine ⟨?_, fun v hv => ?_, fun k w h => p2 k w h, fun k => ?_, fun h => ?_⟩
    · show (s.publish _ _ _ _).1.mem = _
      rw [p1]
    · have e : (s.publish (s.ctx u).core sc (s.ctx u).view (s.ctx u).outbox).1.ctxs = s.ctxs := by rw [p1]
      simp only [State.ctx, State.setCtx, mget_mset, hv, if_false]
      exact congrArg (fun m => mget {} m v) e
    · simp only [State.ctx, State.setCtx, mget_mset_same]
      exact p3 k
    · simp only [State.ctx, State.setCtx, mget_mset_same]
      exact p4 h

end Sys2Proof.Machine
end

