-- ==== Sys2Proof/Laws/PerInstr.lean ====
section
/-! SUPPORT. The family RoundTrip: for each instruction, decoding the words that `encode` gives it answers it again. -/

namespace Sys2Proof.Laws.RoundTrip

set_option linter.unusedSimpArgs false

/-- Every well-formed instruction that has words is what those words decode to. -/
def Statement (i : Instr) : Prop := i.wf = true → ∀ sp w, i.encode = some (sp, w) → decodeSpace sp w = .ok i

theorem rt_of {i : Instr} {sp : Space} {W : Nat} (h : i.encode = some (sp, W))
    (hd : i.wf = true → ∀ w, w = W → decodeSpace sp w = .ok i) : Statement i := by
  intro hw sp' w he
  rw [h] at he
  cases he
  exact hd hw W rfl

theorem rt_none {i : Instr} (h : i.encode = none) : Statement i := by
  intro _ sp w he
  rw [h] at he
  cases he

theorem fetchLineArrival (c : Nat) : Statement (.fetchLineArrival c) := rt_none rfl

theorem tdwHeaderRead (c : Nat) : Statement (.tdwHeaderRead c) := rt_none rfl

theorem fenceComplete (c : Nat) : Statement (.fenceComplete c) := rt_none rfl

theorem commitPropagate (dom : Nat) : Statement (.commitPropagate dom) := rt_none rfl

theorem viewAdvance (p : Party) (sc : Scope) (pos : Nat) : Statement (.viewAdvance p sc pos) := rt_none rfl

theorem tagWaitComplete (c : Nat) : Statement (.tagWaitComplete c) := rt_none rfl

theorem swaitComplete (c : Nat) : Statement (.swaitComplete c) := rt_none rfl

theorem swaitTimeout (c : Nat) : Statement (.swaitTimeout c) := rt_none rfl

theorem signalUpdate (id : Nat) : Statement (.signalUpdate id) := rt_none rfl

theorem putqDelivery (id : Nat) : Statement (.putqDelivery id) := rt_none rfl

theorem preemptRequest (c : Nat) : Statement (.preemptRequest c) := rt_none rfl

theorem contextFreeze (c : Nat) : Statement (.contextFreeze c) := rt_none rfl

theorem resourceRelease (c : Nat) : Statement (.resourceRelease c) := rt_none rfl

theorem contextResume (c z : Nat) : Statement (.contextResume c z) := rt_none rfl

theorem priorityPreemption (q : Nat) : Statement (.priorityPreemption q) := rt_none rfl

theorem benchFailure (d b : Nat) : Statement (.benchFailure d b) := rt_none rfl

theorem benchThrottle (d b : Nat) : Statement (.benchThrottle d b) := rt_none rfl

theorem benchPowerOn (d b : Nat) : Statement (.benchPowerOn d b) := rt_none rfl

theorem benchPowerOff (d b : Nat) : Statement (.benchPowerOff d b) := rt_none rfl

theorem copyCommandStart (cluster : Nat) : Statement (.copyCommandStart cluster) := rt_none rfl

theorem commandCompletion (id : Nat) : Statement (.commandCompletion id) := rt_none rfl

theorem pageFault (id : Nat) : Statement (.pageFault id) := rt_none rfl

theorem faultRetry (id : Nat) : Statement (.faultRetry id) := rt_none rfl

theorem faultFail (id : Nat) : Statement (.faultFail id) := rt_none rfl

theorem cmigPageArrival (id page : Nat) : Statement (.cmigPageArrival id page) := rt_none rfl

theorem kernelAdmission (q : Nat) : Statement (.kernelAdmission q) := rt_none rfl

theorem admissionHold (q : Nat) : Statement (.admissionHold q) := rt_none rfl

theorem gridCompletion (kid : Nat) : Statement (.gridCompletion kid) := rt_none rfl

theorem nmCommandArrival (id : Nat) : Statement (.nmCommandArrival id) := rt_none rfl

theorem nmCommandStart (ch : Nat) : Statement (.nmCommandStart ch) := rt_none rfl

theorem forwardedTick (id : Nat) : Statement (.forwardedTick id) := rt_none rfl

theorem collStart (die : Nat) : Statement (.collStart die) := rt_none rfl

theorem collReady (id : Nat) : Statement (.collReady id) := rt_none rfl

theorem ringHandshake (id : Nat) (tok : RingToken) : Statement (.ringHandshake id tok) := rt_none rfl

theorem ringStep (id : Nat) (recv : Option (List (BitVec 65))) : Statement (.ringStep id recv) := rt_none rfl

theorem collDelivery (id : Nat) : Statement (.collDelivery id) := rt_none rfl

theorem ringAbort (id : Nat) : Statement (.ringAbort id) := rt_none rfl

theorem collTimeout (id : Nat) : Statement (.collTimeout id) := rt_none rfl

theorem linkQueueDeliver (plane dev : Nat) : Statement (.linkQueueDeliver plane dev) := rt_none rfl

theorem remoteAccess (wr : Bool) (exp off job n : Nat) (data : Nat) : Statement (.remoteAccess wr exp off job n data) := rt_none rfl

theorem remoteTimeout (id : Nat) : Statement (.remoteTimeout id) := rt_none rfl

theorem flitCrcError (port : Nat) : Statement (.flitCrcError port) := rt_none rfl

theorem ackTimeout (port : Nat) : Statement (.ackTimeout port) := rt_none rfl

theorem linkRetrain (port : Nat) : Statement (.linkRetrain port) := rt_none rfl

theorem qbellWrite (q : Nat) (v : BitVec 64) : Statement (.qbellWrite q v) := rt_none rfl

theorem launchCommand (q : Nat) : Statement (.launchCommand q) := rt_none rfl

theorem wait (q : Nat) : Statement (.wait q) := rt_none rfl

theorem waitSatisfied (q : Nat) : Statement (.waitSatisfied q) := rt_none rfl

theorem signalCommand (q : Nat) : Statement (.signalCommand q) := rt_none rfl

theorem expclose (q : Nat) : Statement (.expclose q) := rt_none rfl

theorem expset (q : Nat) : Statement (.expset q) := rt_none rfl

theorem inval (q : Nat) : Statement (.inval q) := rt_none rfl

theorem asidBind (q : Nat) : Statement (.asidBind q) := rt_none rfl

theorem asidRelease (q : Nat) : Statement (.asidRelease q) := rt_none rfl

theorem capCreate (q : Nat) : Statement (.capCreate q) := rt_none rfl

theorem capRevoke (q : Nat) : Statement (.capRevoke q) := rt_none rfl

theorem revocationComplete (handle : BitVec 32) : Statement (.revocationComplete handle) := rt_none rfl

theorem attest (q : Nat) : Statement (.attest q) := rt_none rfl

theorem preempt (q : Nat) : Statement (.preempt q) := rt_none rfl

theorem resumeCommand (q : Nat) : Statement (.resumeCommand q) := rt_none rfl

theorem abort (q : Nat) : Statement (.abort q) := rt_none rfl

theorem cresume (q : Nat) : Statement (.cresume q) := rt_none rfl

theorem dcfgWrite (v : BitVec 64) : Statement (.dcfgWrite v) := rt_none rfl

theorem evbaseWrite (d : Nat) (v : BitVec 64) : Statement (.evbaseWrite d v) := rt_none rfl

theorem fabcfgWrite (v : BitVec 64) : Statement (.fabcfgWrite v) := rt_none rfl

theorem arbwWrite (d : Nat) (v : BitVec 64) : Statement (.arbwWrite d v) := rt_none rfl

theorem budgetWrite (i : Nat) (v : BitVec 64) : Statement (.budgetWrite i v) := rt_none rfl

theorem registerWrite (r : ApReg) (v : BitVec 64) : Statement (.registerWrite r v) := rt_none rfl

theorem patrolScrub (ch : Nat) : Statement (.patrolScrub ch) := rt_none rfl

theorem bootImageCheck (len : Nat) : Statement (.bootImageCheck len) := rt_none rfl

theorem eccError (loc : Nat) (correctable : Bool) : Statement (.eccError loc correctable) := rt_none rfl

theorem unitRetirement (u : HwUnit) : Statement (.unitRetirement u) := rt_none rfl

theorem hostStore (pa n val : Nat) : Statement (.hostStore pa n val) := rt_none rfl

theorem hostLoad (p : HostPlace) (n : Nat) : Statement (.hostLoad p n) := rt_none rfl

theorem add (g : BitVec 3) (sd sa : BitVec 6) (b : XSrc) : Statement (.add g sd sa b) := by
  cases b with
  | reg r =>
    refine rt_of rfl fun hw w hW => ?_
    have := g.isLt; have := sd.isLt; have := sa.isLt; have := r.isLt
    have hX : w = xrWord 0x00 g (sd).toNat (sa).toNat (r).toNat (0#6).toNat (0) (b2n false) := by
      rw [hW]; simp only [xWord, XSrc.bitsB, XSrc.bitsA, nBit, fldBits, XSrc.isImm, xrWord, BitVec.toNat_setWidth, BitVec.toNat_ofNat, b2n_false, if_true, if_false, Bool.false_eq_true, Nat.reducePow] at *; try omega
    obtain ⟨ho, hr⟩ := xrWord_fields 0x00 g (sd) (sa) (r) (0#6) (0) false w hX (by decide) (by decide)
    clear hW hX
    show decodeX w = _
    simp only [decodeX, ho, hr, xArith, xArithN, XRaw.plain, XRaw.b, XRaw.a, withCond, Cond.ofCode_code, Option.map_some]
    exact checked_ok rfl hw
  | imm v =>
    refine rt_of rfl fun hw w hW => ?_
    have := g.isLt; have := sd.isLt; have := sa.isLt; have := v.isLt
    have hX : w = xiWord 0x00 g (sd).toNat (sa).toNat (0) (b2n false) (v).toNat := by
      rw [hW]; simp only [xWord, XSrc.bitsB, XSrc.bitsA, nBit, fldBits, XSrc.isImm, xiWord, BitVec.toNat_setWidth, BitVec.toNat_ofNat, b2n_false, if_true, if_false, Bool.false_eq_true, Nat.reducePow] at *; try omega
    obtain ⟨ho, hr⟩ := xiWord_fields 0x00 g (sd) (sa) (0) false (v) w hX (by decide) (by decide)
    clear hW hX
    show decodeX w = _
    simp only [decodeX, ho, hr, xArith, xArithN, XRaw.plain, XRaw.b, XRaw.a, withCond, Cond.ofCode_code, Option.map_some]
    exact checked_ok rfl hw

theorem sub (g : BitVec 3) (sd sa : BitVec 6) (b : XSrc) : Statement (.sub g sd sa b) := by
  cases b with
  | reg r =>
    refine rt_of rfl fun hw w hW => ?_
    have := g.isLt; have := sd.isLt; have := sa.isLt; have := r.isLt
    have hX : w = xrWord 0x01 g (sd).toNat (sa).toNat (r).toNat (0#6).toNat (0) (b2n false) := by
      rw [hW]; simp only [xWord, XSrc.bitsB, XSrc.bitsA, nBit, fldBits, XSrc.isImm, xrWord, BitVec.toNat_setWidth, BitVec.toNat_ofNat, b2n_false, if_true, if_false, Bool.false_eq_true, Nat.reducePow] at *; try omega
    obtain ⟨ho, hr⟩ := xrWord_fields 0x01 g (sd) (sa) (r) (0#6) (0) false w hX (by decide) (by decide)
    clear hW hX
    show decodeX w = _
    simp only [decodeX, ho, hr, xArith, xArithN, XRaw.plain, XRaw.b, XRaw.a, withCond, Cond.ofCode_code, Option.map_some]
    exact checked_ok rfl hw
  | imm v =>
    refine rt_of rfl fun hw w hW => ?_
    have := g.isLt; have := sd.isLt; have := sa.isLt; have := v.isLt
    have hX : w = xiWord 0x01 g (sd).toNat (sa).toNat (0) (b2n false) (v).toNat := by
      rw [hW]; simp only [xWord, XSrc.bitsB, XSrc.bitsA, nBit, fldBits, XSrc.isImm, xiWord, BitVec.toNat_setWidth, BitVec.toNat_ofNat, b2n_false, if_true, if_false, Bool.false_eq_true, Nat.reducePow] at *; try omega
    obtain ⟨ho, hr⟩ := xiWord_fields 0x01 g (sd) (sa) (0) false (v) w hX (by decide) (by decide)
    clear hW hX
    show decodeX w = _
    simp only [decodeX, ho, hr, xArith, xArithN, XRaw.plain, XRaw.b, XRaw.a, withCond, Cond.ofCode_code, Option.map_some]
    exact checked_ok rfl hw

theorem mul (g : BitVec 3) (sd sa : BitVec 6) (b : XSrc) : Statement (.mul g sd sa b) := by
  cases b with
  | reg r =>
    refine rt_of rfl fun hw w hW => ?_
    have := g.isLt; have := sd.isLt; have := sa.isLt; have := r.isLt
    have hX : w = xrWord 0x02 g (sd).toNat (sa).toNat (r).toNat (0#6).toNat (0) (b2n false) := by
      rw [hW]; simp only [xWord, XSrc.bitsB, XSrc.bitsA, nBit, fldBits, XSrc.isImm, xrWord, BitVec.toNat_setWidth, BitVec.toNat_ofNat, b2n_false, if_true, if_false, Bool.false_eq_true, Nat.reducePow] at *; try omega
    obtain ⟨ho, hr⟩ := xrWord_fields 0x02 g (sd) (sa) (r) (0#6) (0) false w hX (by decide) (by decide)
    clear hW hX
    show decodeX w = _
    simp only [decodeX, ho, hr, xArith, xArithN, XRaw.plain, XRaw.b, XRaw.a, withCond, Cond.ofCode_code, Option.map_some]
    exact checked_ok rfl hw
  | imm v =>
    refine rt_of rfl fun hw w hW => ?_
    have := g.isLt; have := sd.isLt; have := sa.isLt; have := v.isLt
    have hX : w = xiWord 0x02 g (sd).toNat (sa).toNat (0) (b2n false) (v).toNat := by
      rw [hW]; simp only [xWord, XSrc.bitsB, XSrc.bitsA, nBit, fldBits, XSrc.isImm, xiWord, BitVec.toNat_setWidth, BitVec.toNat_ofNat, b2n_false, if_true, if_false, Bool.false_eq_true, Nat.reducePow] at *; try omega
    obtain ⟨ho, hr⟩ := xiWord_fields 0x02 g (sd) (sa) (0) false (v) w hX (by decide) (by decide)
    clear hW hX
    show decodeX w = _
    simp only [decodeX, ho, hr, xArith, xArithN, XRaw.plain, XRaw.b, XRaw.a, withCond, Cond.ofCode_code, Option.map_some]
    exact checked_ok rfl hw

theorem mulh (g : BitVec 3) (n : Bool) (sd sa : BitVec 6) (b : XSrc) : Statement (.mulh g n sd sa b) := by
  cases b with
  | reg r =>
    refine rt_of rfl fun hw w hW => ?_
    have := g.isLt; have := sd.isLt; have := sa.isLt; have := r.isLt; have := b2n_le n
    have hX : w = xrWord 0x03 g (sd).toNat (sa).toNat (r).toNat (0#6).toNat (0) (b2n n) := by
      rw [hW]; simp only [xWord, XSrc.bitsB, XSrc.bitsA, nBit, fldBits, XSrc.isImm, xrWord, BitVec.toNat_setWidth, BitVec.toNat_ofNat, b2n_false, if_true, if_false, Bool.false_eq_true, Nat.reducePow] at *; try omega
    obtain ⟨ho, hr⟩ := xrWord_fields 0x03 g (sd) (sa) (r) (0#6) (0) n w hX (by decide) (by decide)
    clear hW hX
    show decodeX w = _
    simp only [decodeX, ho, hr, xArith, xArithN, XRaw.plain, XRaw.b, XRaw.a, withCond, Cond.ofCode_code, Option.map_some]
    exact checked_ok rfl hw
  | imm v =>
    refine rt_of rfl fun hw w hW => ?_
    have := g.isLt; have := sd.isLt; have := sa.isLt; have := v.isLt; have := b2n_le n
    have hX : w = xiWord 0x03 g (sd).toNat (sa).toNat (0) (b2n n) (v).toNat := by
      rw [hW]; simp only [xWord, XSrc.bitsB, XSrc.bitsA, nBit, fldBits, XSrc.isImm, xiWord, BitVec.toNat_setWidth, BitVec.toNat_ofNat, b2n_false, if_true, if_false, Bool.false_eq_true, Nat.reducePow] at *; try omega
    obtain ⟨ho, hr⟩ := xiWord_fields 0x03 g (sd) (sa) (0) n (v) w hX (by decide) (by decide)
    clear hW hX
    show decodeX w = _
    simp only [decodeX, ho, hr, xArith, xArithN, XRaw.plain, XRaw.b, XRaw.a, withCond, Cond.ofCode_code, Option.map_some]
    exact checked_ok rfl hw

theorem and (g : BitVec 3) (sd sa : BitVec 6) (b : XSrc) : Statement (.and g sd sa b) := by
  cases b with
  | reg r =>
    refine rt_of rfl fun hw w hW => ?_
    have := g.isLt; have := sd.isLt; have := sa.isLt; have := r.isLt
    have hX : w = xrWord 0x04 g (sd).toNat (sa).toNat (r).toNat (0#6).toNat (0) (b2n false) := by
      rw [hW]; simp only [xWord, XSrc.bitsB, XSrc.bitsA, nBit, fldBits, XSrc.isImm, xrWord, BitVec.toNat_setWidth, BitVec.toNat_ofNat, b2n_false, if_true, if_false, Bool.false_eq_true, Nat.reducePow] at *; try omega
    obtain ⟨ho, hr⟩ := xrWord_fields 0x04 g (sd) (sa) (r) (0#6) (0) false w hX (by decide) (by decide)
    clear hW hX
    show decodeX w = _
    simp only [decodeX, ho, hr, xArith, xArithN, XRaw.plain, XRaw.b, XRaw.a, withCond, Cond.ofCode_code, Option.map_some]
    exact checked_ok rfl hw
  | imm v =>
    refine rt_of rfl fun hw w hW => ?_
    have := g.isLt; have := sd.isLt; have := sa.isLt; have := v.isLt
    have hX : w = xiWord 0x04 g (sd).toNat (sa).toNat (0) (b2n false) (v).toNat := by
      rw [hW]; simp only [xWord, XSrc.bitsB, XSrc.bitsA, nBit, fldBits, XSrc.isImm, xiWord, BitVec.toNat_setWidth, BitVec.toNat_ofNat, b2n_false, if_true, if_false, Bool.false_eq_true, Nat.reducePow] at *; try omega
    obtain ⟨ho, hr⟩ := xiWord_fields 0x04 g (sd) (sa) (0) false (v) w hX (by decide) (by decide)
    clear hW hX
    show decodeX w = _
    simp only [decodeX, ho, hr, xArith, xArithN, XRaw.plain, XRaw.b, XRaw.a, withCond, Cond.ofCode_code, Option.map_some]
    exact checked_ok rfl hw

theorem or (g : BitVec 3) (sd sa : BitVec 6) (b : XSrc) : Statement (.or g sd sa b) := by
  cases b with
  | reg r =>
    refine rt_of rfl fun hw w hW => ?_
    have := g.isLt; have := sd.isLt; have := sa.isLt; have := r.isLt
    have hX : w = xrWord 0x05 g (sd).toNat (sa).toNat (r).toNat (0#6).toNat (0) (b2n false) := by
      rw [hW]; simp only [xWord, XSrc.bitsB, XSrc.bitsA, nBit, fldBits, XSrc.isImm, xrWord, BitVec.toNat_setWidth, BitVec.toNat_ofNat, b2n_false, if_true, if_false, Bool.false_eq_true, Nat.reducePow] at *; try omega
    obtain ⟨ho, hr⟩ := xrWord_fields 0x05 g (sd) (sa) (r) (0#6) (0) false w hX (by decide) (by decide)
    clear hW hX
    show decodeX w = _
    simp only [decodeX, ho, hr, xArith, xArithN, XRaw.plain, XRaw.b, XRaw.a, withCond, Cond.ofCode_code, Option.map_some]
    exact checked_ok rfl hw
  | imm v =>
    refine rt_of rfl fun hw w hW => ?_
    have := g.isLt; have := sd.isLt; have := sa.isLt; have := v.isLt
    have hX : w = xiWord 0x05 g (sd).toNat (sa).toNat (0) (b2n false) (v).toNat := by
      rw [hW]; simp only [xWord, XSrc.bitsB, XSrc.bitsA, nBit, fldBits, XSrc.isImm, xiWord, BitVec.toNat_setWidth, BitVec.toNat_ofNat, b2n_false, if_true, if_false, Bool.false_eq_true, Nat.reducePow] at *; try omega
    obtain ⟨ho, hr⟩ := xiWord_fields 0x05 g (sd) (sa) (0) false (v) w hX (by decide) (by decide)
    clear hW hX
    show decodeX w = _
    simp only [decodeX, ho, hr, xArith, xArithN, XRaw.plain, XRaw.b, XRaw.a, withCond, Cond.ofCode_code, Option.map_some]
    exact checked_ok rfl hw

theorem xor (g : BitVec 3) (sd sa : BitVec 6) (b : XSrc) : Statement (.xor g sd sa b) := by
  cases b with
  | reg r =>
    refine rt_of rfl fun hw w hW => ?_
    have := g.isLt; have := sd.isLt; have := sa.isLt; have := r.isLt
    have hX : w = xrWord 0x06 g (sd).toNat (sa).toNat (r).toNat (0#6).toNat (0) (b2n false) := by
      rw [hW]; simp only [xWord, XSrc.bitsB, XSrc.bitsA, nBit, fldBits, XSrc.isImm, xrWord, BitVec.toNat_setWidth, BitVec.toNat_ofNat, b2n_false, if_true, if_false, Bool.false_eq_true, Nat.reducePow] at *; try omega
    obtain ⟨ho, hr⟩ := xrWord_fields 0x06 g (sd) (sa) (r) (0#6) (0) false w hX (by decide) (by decide)
    clear hW hX
    show decodeX w = _
    simp only [decodeX, ho, hr, xArith, xArithN, XRaw.plain, XRaw.b, XRaw.a, withCond, Cond.ofCode_code, Option.map_some]
    exact checked_ok rfl hw
  | imm v =>
    refine rt_of rfl fun hw w hW => ?_
    have := g.isLt; have := sd.isLt; have := sa.isLt; have := v.isLt
    have hX : w = xiWord 0x06 g (sd).toNat (sa).toNat (0) (b2n false) (v).toNat := by
      rw [hW]; simp only [xWord, XSrc.bitsB, XSrc.bitsA, nBit, fldBits, XSrc.isImm, xiWord, BitVec.toNat_setWidth, BitVec.toNat_ofNat, b2n_false, if_true, if_false, Bool.false_eq_true, Nat.reducePow] at *; try omega
    obtain ⟨ho, hr⟩ := xiWord_fields 0x06 g (sd) (sa) (0) false (v) w hX (by decide) (by decide)
    clear hW hX
    show decodeX w = _
    simp only [decodeX, ho, hr, xArith, xArithN, XRaw.plain, XRaw.b, XRaw.a, withCond, Cond.ofCode_code, Option.map_some]
    exact checked_ok rfl hw

theorem shl (g : BitVec 3) (sd sa : BitVec 6) (b : XSrc) : Statement (.shl g sd sa b) := by
  cases b with
  | reg r =>
    refine rt_of rfl fun hw w hW => ?_
    have := g.isLt; have := sd.isLt; have := sa.isLt; have := r.isLt
    have hX : w = xrWord 0x07 g (sd).toNat (sa).toNat (r).toNat (0#6).toNat (0) (b2n false) := by
      rw [hW]; simp only [xWord, XSrc.bitsB, XSrc.bitsA, nBit, fldBits, XSrc.isImm, xrWord, BitVec.toNat_setWidth, BitVec.toNat_ofNat, b2n_false, if_true, if_false, Bool.false_eq_true, Nat.reducePow] at *; try omega
    obtain ⟨ho, hr⟩ := xrWord_fields 0x07 g (sd) (sa) (r) (0#6) (0) false w hX (by decide) (by decide)
    clear hW hX
    show decodeX w = _
    simp only [decodeX, ho, hr, xArith, xArithN, XRaw.plain, XRaw.b, XRaw.a, withCond, Cond.ofCode_code, Option.map_some]
    exact checked_ok rfl hw
  | imm v =>
    refine rt_of rfl fun hw w hW => ?_
    have := g.isLt; have := sd.isLt; have := sa.isLt; have := v.isLt
    have hX : w = xiWord 0x07 g (sd).toNat (sa).toNat (0) (b2n false) (v).toNat := by
      rw [hW]; simp only [xWord, XSrc.bitsB, XSrc.bitsA, nBit, fldBits, XSrc.isImm, xiWord, BitVec.toNat_setWidth, BitVec.toNat_ofNat, b2n_false, if_true, if_false, Bool.false_eq_true, Nat.reducePow] at *; try omega
    obtain ⟨ho, hr⟩ := xiWord_fields 0x07 g (sd) (sa) (0) false (v) w hX (by decide) (by decide)
    clear hW hX
    show decodeX w = _
    simp only [decodeX, ho, hr, xArith, xArithN, XRaw.plain, XRaw.b, XRaw.a, withCond, Cond.ofCode_code, Option.map_some]
    exact checked_ok rfl hw

theorem shr (g : BitVec 3) (sd sa : BitVec 6) (b : XSrc) : Statement (.shr g sd sa b) := by
  cases b with
  | reg r =>
    refine rt_of rfl fun hw w hW => ?_
    have := g.isLt; have := sd.isLt; have := sa.isLt; have := r.isLt
    have hX : w = xrWord 0x08 g (sd).toNat (sa).toNat (r).toNat (0#6).toNat (0) (b2n false) := by
      rw [hW]; simp only [xWord, XSrc.bitsB, XSrc.bitsA, nBit, fldBits, XSrc.isImm, xrWord, BitVec.toNat_setWidth, BitVec.toNat_ofNat, b2n_false, if_true, if_false, Bool.false_eq_true, Nat.reducePow] at *; try omega
    obtain ⟨ho, hr⟩ := xrWord_fields 0x08 g (sd) (sa) (r) (0#6) (0) false w hX (by decide) (by decide)
    clear hW hX
    show decodeX w = _
    simp only [decodeX, ho, hr, xArith, xArithN, XRaw.plain, XRaw.b, XRaw.a, withCond, Cond.ofCode_code, Option.map_some]
    exact checked_ok rfl hw
  | imm v =>
    refine rt_of rfl fun hw w hW => ?_
    have := g.isLt; have := sd.isLt; have := sa.isLt; have := v.isLt
    have hX : w = xiWord 0x08 g (sd).toNat (sa).toNat (0) (b2n false) (v).toNat := by
      rw [hW]; simp only [xWord, XSrc.bitsB, XSrc.bitsA, nBit, fldBits, XSrc.isImm, xiWord, BitVec.toNat_setWidth, BitVec.toNat_ofNat, b2n_false, if_true, if_false, Bool.false_eq_true, Nat.reducePow] at *; try omega
    obtain ⟨ho, hr⟩ := xiWord_fields 0x08 g (sd) (sa) (0) false (v) w hX (by decide) (by decide)
    clear hW hX
    show decodeX w = _
    simp only [decodeX, ho, hr, xArith, xArithN, XRaw.plain, XRaw.b, XRaw.a, withCond, Cond.ofCode_code, Option.map_some]
    exact checked_ok rfl hw

theorem sra (g : BitVec 3) (sd sa : BitVec 6) (b : XSrc) : Statement (.sra g sd sa b) := by
  cases b with
  | reg r =>
    refine rt_of rfl fun hw w hW => ?_
    have := g.isLt; have := sd.isLt; have := sa.isLt; have := r.isLt
    have hX : w = xrWord 0x09 g (sd).toNat (sa).toNat (r).toNat (0#6).toNat (0) (b2n false) := by
      rw [hW]; simp only [xWord, XSrc.bitsB, XSrc.bitsA, nBit, fldBits, XSrc.isImm, xrWord, BitVec.toNat_setWidth, BitVec.toNat_ofNat, b2n_false, if_true, if_false, Bool.false_eq_true, Nat.reducePow] at *; try omega
    obtain ⟨ho, hr⟩ := xrWord_fields 0x09 g (sd) (sa) (r) (0#6) (0) false w hX (by decide) (by decide)
    clear hW hX
    show decodeX w = _
    simp only [decodeX, ho, hr, xArith, xArithN, XRaw.plain, XRaw.b, XRaw.a, withCond, Cond.ofCode_code, Option.map_some]
    exact checked_ok rfl hw
  | imm v =>
    refine rt_of rfl fun hw w hW => ?_
    have := g.isLt; have := sd.isLt; have := sa.isLt; have := v.isLt
    have hX : w = xiWord 0x09 g (sd).toNat (sa).toNat (0) (b2n false) (v).toNat := by
      rw [hW]; simp only [xWord, XSrc.bitsB, XSrc.bitsA, nBit, fldBits, XSrc.isImm, xiWord, BitVec.toNat_setWidth, BitVec.toNat_ofNat, b2n_false, if_true, if_false, Bool.false_eq_true, Nat.reducePow] at *; try omega
    obtain ⟨ho, hr⟩ := xiWord_fields 0x09 g (sd) (sa) (0) false (v) w hX (by decide) (by decide)
    clear hW hX
    show decodeX w = _
    simp only [decodeX, ho, hr, xArith, xArithN, XRaw.plain, XRaw.b, XRaw.a, withCond, Cond.ofCode_code, Option.map_some]
    exact checked_ok rfl hw

theorem min (g : BitVec 3) (n : Bool) (sd sa : BitVec 6) (b : XSrc) : Statement (.min g n sd sa b) := by
  cases b with
  | reg r =>
    refine rt_of rfl fun hw w hW => ?_
    have := g.isLt; have := sd.isLt; have := sa.isLt; have := r.isLt; have := b2n_le n
    have hX : w = xrWord 0x0A g (sd).toNat (sa).toNat (r).toNat (0#6).toNat (0) (b2n n) := by
      rw [hW]; simp only [xWord, XSrc.bitsB, XSrc.bitsA, nBit, fldBits, XSrc.isImm, xrWord, BitVec.toNat_setWidth, BitVec.toNat_ofNat, b2n_false, if_true, if_false, Bool.false_eq_true, Nat.reducePow] at *; try omega
    obtain ⟨ho, hr⟩ := xrWord_fields 0x0A g (sd) (sa) (r) (0#6) (0) n w hX (by decide) (by decide)
    clear hW hX
    show decodeX w = _
    simp only [decodeX, ho, hr, xArith, xArithN, XRaw.plain, XRaw.b, XRaw.a, withCond, Cond.ofCode_code, Option.map_some]
    exact checked_ok rfl hw
  | imm v =>
    refine rt_of rfl fun hw w hW => ?_
    have := g.isLt; have := sd.isLt; have := sa.isLt; have := v.isLt; have := b2n_le n
    have hX : w = xiWord 0x0A g (sd).toNat (sa).toNat (0) (b2n n) (v).toNat := by
      rw [hW]; simp only [xWord, XSrc.bitsB, XSrc.bitsA, nBit, fldBits, XSrc.isImm, xiWord, BitVec.toNat_setWidth, BitVec.toNat_ofNat, b2n_false, if_true, if_false, Bool.false_eq_true, Nat.reducePow] at *; try omega
    obtain ⟨ho, hr⟩ := xiWord_fields 0x0A g (sd) (sa) (0) n (v) w hX (by decide) (by decide)
    clear hW hX
    show decodeX w = _
    simp only [decodeX, ho, hr, xArith, xArithN, XRaw.plain, XRaw.b, XRaw.a, withCond, Cond.ofCode_code, Option.map_some]
    exact checked_ok rfl hw

theorem max (g : BitVec 3) (n : Bool) (sd sa : BitVec 6) (b : XSrc) : Statement (.max g n sd sa b) := by
  cases b with
  | reg r =>
    refine rt_of rfl fun hw w hW => ?_
    have := g.isLt; have := sd.isLt; have := sa.isLt; have := r.isLt; have := b2n_le n
    have hX : w = xrWord 0x0B g (sd).toNat (sa).toNat (r).toNat (0#6).toNat (0) (b2n n) := by
      rw [hW]; simp only [xWord, XSrc.bitsB, XSrc.bitsA, nBit, fldBits, XSrc.isImm, xrWord, BitVec.toNat_setWidth, BitVec.toNat_ofNat, b2n_false, if_true, if_false, Bool.false_eq_true, Nat.reducePow] at *; try omega
    obtain ⟨ho, hr⟩ := xrWord_fields 0x0B g (sd) (sa) (r) (0#6) (0) n w hX (by decide) (by decide)
    clear hW hX
    show decodeX w = _
    simp only [decodeX, ho, hr, xArith, xArithN, XRaw.plain, XRaw.b, XRaw.a, withCond, Cond.ofCode_code, Option.map_some]
    exact checked_ok rfl hw
  | imm v =>
    refine rt_of rfl fun hw w hW => ?_
    have := g.isLt; have := sd.isLt; have := sa.isLt; have := v.isLt; have := b2n_le n
    have hX : w = xiWord 0x0B g (sd).toNat (sa).toNat (0) (b2n n) (v).toNat := by
      rw [hW]; simp only [xWord, XSrc.bitsB, XSrc.bitsA, nBit, fldBits, XSrc.isImm, xiWord, BitVec.toNat_setWidth, BitVec.toNat_ofNat, b2n_false, if_true, if_false, Bool.false_eq_true, Nat.reducePow] at *; try omega
    obtain ⟨ho, hr⟩ := xiWord_fields 0x0B g (sd) (sa) (0) n (v) w hX (by decide) (by decide)
    clear hW hX
    show decodeX w = _
    simp only [decodeX, ho, hr, xArith, xArithN, XRaw.plain, XRaw.b, XRaw.a, withCond, Cond.ofCode_code, Option.map_some]
    exact checked_ok rfl hw

theorem clz (g : BitVec 3) (sd sa : BitVec 6) : Statement (.clz g sd sa) := by
  refine rt_of rfl fun hw w hW => ?_
  have := g.isLt; have := sd.isLt; have := sa.isLt
  have hX : w = xrWord 0x0C g (sd).toNat (sa).toNat (0#6).toNat (0#6).toNat (0) (b2n false) := by
    rw [hW]; simp only [xWord, XSrc.bitsB, XSrc.bitsA, nBit, fldBits, XSrc.isImm, xrWord, BitVec.toNat_setWidth, BitVec.toNat_ofNat, b2n_false, if_true, if_false, Bool.false_eq_true, Nat.reducePow] at *; try omega
  obtain ⟨ho, hr⟩ := xrWord_fields 0x0C g (sd) (sa) (0#6) (0#6) (0) false w hX (by decide) (by decide)
  clear hW hX
  show decodeX w = _
  simp only [decodeX, ho, hr, xArith, xArithN, XRaw.plain, XRaw.b, XRaw.a, withCond, Cond.ofCode_code, Option.map_some]
  exact checked_ok rfl hw

theorem popc (g : BitVec 3) (sd sa : BitVec 6) : Statement (.popc g sd sa) := by
  refine rt_of rfl fun hw w hW => ?_
  have := g.isLt; have := sd.isLt; have := sa.isLt
  have hX : w = xrWord 0x0D g (sd).toNat (sa).toNat (0#6).toNat (0#6).toNat (0) (b2n false) := by
    rw [hW]; simp only [xWord, XSrc.bitsB, XSrc.bitsA, nBit, fldBits, XSrc.isImm, xrWord, BitVec.toNat_setWidth, BitVec.toNat_ofNat, b2n_false, if_true, if_false, Bool.false_eq_true, Nat.reducePow] at *; try omega
  obtain ⟨ho, hr⟩ := xrWord_fields 0x0D g (sd) (sa) (0#6) (0#6) (0) false w hX (by decide) (by decide)
  clear hW hX
  show decodeX w = _
  simp only [decodeX, ho, hr, xArith, xArithN, XRaw.plain, XRaw.b, XRaw.a, withCond, Cond.ofCode_code, Option.map_some]
  exact checked_ok rfl hw

theorem set (g : BitVec 3) (cc : Cond) (sd sa : BitVec 6) (b : XSrc) : Statement (.set g cc sd sa b) := by
  cases b with
  | reg r =>
    refine rt_of rfl fun hw w hW => ?_
    have := g.isLt; have := sd.isLt; have := sa.isLt; have := r.isLt; have := cc.code_lt
    have hX : w = xrWord 0x0E g (sd).toNat (sa).toNat (r).toNat (0#6).toNat (cc.code) (b2n false) := by
      rw [hW]; simp only [xWord, XSrc.bitsB, XSrc.bitsA, nBit, fldBits, XSrc.isImm, xrWord, BitVec.toNat_setWidth, BitVec.toNat_ofNat, b2n_false, if_true, if_false, Bool.false_eq_true, Nat.reducePow] at *; try omega
    obtain ⟨ho, hr⟩ := xrWord_fields 0x0E g (sd) (sa) (r) (0#6) (cc.code) false w hX (by decide) (by have := cc.code_lt; omega)
    clear hW hX
    show decodeX w = _
    simp only [decodeX, ho, hr, xArith, xArithN, XRaw.plain, XRaw.b, XRaw.a, withCond, Cond.ofCode_code, Option.map_some]
    exact checked_ok rfl hw
  | imm v =>
    refine rt_of rfl fun hw w hW => ?_
    have := g.isLt; have := sd.isLt; have := sa.isLt; have := v.isLt; have := cc.code_lt
    have hX : w = xiWord 0x0E g (sd).toNat (sa).toNat (cc.code) (b2n false) (v).toNat := by
      rw [hW]; simp only [xWord, XSrc.bitsB, XSrc.bitsA, nBit, fldBits, XSrc.isImm, xiWord, BitVec.toNat_setWidth, BitVec.toNat_ofNat, b2n_false, if_true, if_false, Bool.false_eq_true, Nat.reducePow] at *; try omega
    obtain ⟨ho, hr⟩ := xiWord_fields 0x0E g (sd) (sa) (cc.code) false (v) w hX (by decide) (by have := cc.code_lt; omega)
    clear hW hX
    show decodeX w = _
    simp only [decodeX, ho, hr, xArith, xArithN, XRaw.plain, XRaw.b, XRaw.a, withCond, Cond.ofCode_code, Option.map_some]
    exact checked_ok rfl hw

theorem sel (g : BitVec 3) (sd sc sa sb : BitVec 6) : Statement (.sel g sd sc sa sb) := by
  refine rt_of rfl fun hw w hW => ?_
  have := g.isLt; have := sd.isLt; have := sa.isLt; have := sb.isLt; have := sc.isLt
  have hX : w = xrWord 0x0F g (sd).toNat (sa).toNat (sb).toNat (sc).toNat (0) (b2n false) := by
    rw [hW]; simp only [xWord, XSrc.bitsB, XSrc.bitsA, nBit, fldBits, XSrc.isImm, xrWord, BitVec.toNat_setWidth, BitVec.toNat_ofNat, b2n_false, if_true, if_false, Bool.false_eq_true, Nat.reducePow] at *; try omega
  obtain ⟨ho, hr⟩ := xrWord_fields 0x0F g (sd) (sa) (sb) (sc) (0) false w hX (by decide) (by decide)
  clear hW hX
  show decodeX w = _
  simp only [decodeX, ho, hr, xArith, xArithN, XRaw.plain, XRaw.b, XRaw.a, withCond, Cond.ofCode_code, Option.map_some]
  exact checked_ok rfl hw

theorem li (g : BitVec 3) (sd : BitVec 6) (v : BitVec 32) : Statement (.li g sd v) := by
  refine rt_of rfl fun hw w hW => ?_
  have := g.isLt; have := sd.isLt; have := v.isLt
  have hX : w = xiWord 0x10 g (sd).toNat (0#6).toNat (0) (b2n false) (v).toNat := by
    rw [hW]; simp only [xWord, XSrc.bitsB, XSrc.bitsA, nBit, fldBits, XSrc.isImm, xiWord, BitVec.toNat_setWidth, BitVec.toNat_ofNat, b2n_false, if_true, if_false, Bool.false_eq_true, Nat.reducePow] at *; try omega
  obtain ⟨ho, hr⟩ := xiWord_fields 0x10 g (sd) (0#6) (0) false (v) w hX (by decide) (by decide)
  clear hW hX
  show decodeX w = _
  simp only [decodeX, ho, hr, xArith, xArithN, XRaw.plain, XRaw.b, XRaw.a, withCond, Cond.ofCode_code, Option.map_some]
  exact checked_ok rfl hw

theorem lih (g : BitVec 3) (sd sa : BitVec 6) (v : BitVec 32) : Statement (.lih g sd sa v) := by
  refine rt_of rfl fun hw w hW => ?_
  have := g.isLt; have := sd.isLt; have := sa.isLt; have := v.isLt
  have hX : w = xiWord 0x11 g (sd).toNat (sa).toNat (0) (b2n false) (v).toNat := by
    rw [hW]; simp only [xWord, XSrc.bitsB, XSrc.bitsA, nBit, fldBits, XSrc.isImm, xiWord, BitVec.toNat_setWidth, BitVec.toNat_ofNat, b2n_false, if_true, if_false, Bool.false_eq_true, Nat.reducePow] at *; try omega
  obtain ⟨ho, hr⟩ := xiWord_fields 0x11 g (sd) (sa) (0) false (v) w hX (by decide) (by decide)
  clear hW hX
  show decodeX w = _
  simp only [decodeX, ho, hr, xArith, xArithN, XRaw.plain, XRaw.b, XRaw.a, withCond, Cond.ofCode_code, Option.map_some]
  exact checked_ok rfl hw

theorem mova (g : BitVec 3) (f : MovaForm) : Statement (.mova g f) := by
  cases f with
  | toA ad sa =>
    refine rt_of rfl fun hw w hW => ?_
    have := g.isLt; have := ad.isLt; have := sa.isLt
    have hX : w = xrWord 0x20 g (ad.setWidth 6).toNat (sa).toNat (0#6).toNat (0#6).toNat (0) (b2n false) := by
      rw [hW]; simp only [xWord, XSrc.bitsB, XSrc.bitsA, nBit, fldBits, XSrc.isImm, xrWord, BitVec.toNat_setWidth, BitVec.toNat_ofNat, b2n_false, if_true, if_false, Bool.false_eq_true, Nat.reducePow] at *; try omega
    obtain ⟨ho, hr⟩ := xrWord_fields 0x20 g (ad.setWidth 6) (sa) (0#6) (0#6) (0) false w hX (by decide) (by decide)
    simp only [xrWord, BitVec.toNat_setWidth, BitVec.toNat_ofNat, b2n_false, if_true, if_false, Bool.false_eq_true, Nat.reducePow] at hX
    simp only [Nat.reducePow] at *
    have f0 : bit w 28 = false := bit_of _ _ _ (by simp only [Nat.reducePow, b2n_true, b2n_false]; omega)
    have f1 : bfld w 46 4 = ad := bfld_of _ _ _ (by simp only [Nat.reducePow]; omega)
    clear hW hX
    show decodeX w = _
    simp only [decodeX, ho, hr, f0, f1, xArith, xArithN, XRaw.plain, XRaw.b, XRaw.a, withCond, Cond.ofCode_code, Option.map_some]
    exact checked_ok (by simp; omega) hw
  | fromA sd aa =>
    refine rt_of rfl fun hw w hW => ?_
    have := g.isLt; have := aa.isLt; have := sd.isLt
    have hX : w = xrWord 0x20 g (sd).toNat (aa.setWidth 6).toNat (0#6).toNat (1#6).toNat (0) (b2n false) := by
      rw [hW]; simp only [xWord, XSrc.bitsB, XSrc.bitsA, nBit, fldBits, XSrc.isImm, xrWord, BitVec.toNat_setWidth, BitVec.toNat_ofNat, b2n_false, if_true, if_false, Bool.false_eq_true, Nat.reducePow] at *; try omega
    obtain ⟨ho, hr⟩ := xrWord_fields 0x20 g (sd) (aa.setWidth 6) (0#6) (1#6) (0) false w hX (by decide) (by decide)
    simp only [xrWord, BitVec.toNat_setWidth, BitVec.toNat_ofNat, b2n_false, if_true, if_false, Bool.false_eq_true, Nat.reducePow] at hX
    simp only [Nat.reducePow] at *
    have f0 : bit w 28 = true := bit_of _ _ _ (by simp only [Nat.reducePow, b2n_true, b2n_false]; omega)
    have f1 : bfld w 40 4 = aa := bfld_of _ _ _ (by simp only [Nat.reducePow]; omega)
    clear hW hX
    show decodeX w = _
    simp only [decodeX, ho, hr, f0, f1, xArith, xArithN, XRaw.plain, XRaw.b, XRaw.a, withCond, Cond.ofCode_code, Option.map_some]
    exact checked_ok (by simp; omega) hw
  | immA ad v =>
    refine rt_of rfl fun hw w hW => ?_
    have := g.isLt; have := ad.isLt; have := v.isLt
    have hX : w = xiWord 0x20 g (ad.setWidth 6).toNat (0#6).toNat (0) (b2n false) (v).toNat := by
      rw [hW]; simp only [xWord, XSrc.bitsB, XSrc.bitsA, nBit, fldBits, XSrc.isImm, xiWord, BitVec.toNat_setWidth, BitVec.toNat_ofNat, b2n_false, if_true, if_false, Bool.false_eq_true, Nat.reducePow] at *; try omega
    obtain ⟨ho, hr⟩ := xiWord_fields 0x20 g (ad.setWidth 6) (0#6) (0) false (v) w hX (by decide) (by decide)
    simp only [xiWord, BitVec.toNat_setWidth, BitVec.toNat_ofNat, b2n_false, if_true, if_false, Bool.false_eq_true, Nat.reducePow] at hX
    simp only [Nat.reducePow] at *
    have f0 : bfld w 46 4 = ad := bfld_of _ _ _ (by simp only [Nat.reducePow]; omega)
    clear hW hX
    show decodeX w = _
    simp only [decodeX, ho, hr, f0, xArith, xArithN, XRaw.plain, XRaw.b, XRaw.a, withCond, Cond.ofCode_code, Option.map_some]
    exact checked_ok (by simp; omega) hw

theorem adda (g : BitVec 3) (ad aa : BitVec 4) (b : XSrc) : Statement (.adda g ad aa b) := by
  cases b with
  | reg r =>
    refine rt_of rfl fun hw w hW => ?_
    have := g.isLt; have := ad.isLt; have := aa.isLt; have := r.isLt
    have hX : w = xrWord 0x21 g (ad.setWidth 6).toNat (aa.setWidth 6).toNat (r).toNat (0#6).toNat (0) (b2n false) := by
      rw [hW]; simp only [xWord, XSrc.bitsB, XSrc.bitsA, nBit, fldBits, XSrc.isImm, xrWord, BitVec.toNat_setWidth, BitVec.toNat_ofNat, b2n_false, if_true, if_false, Bool.false_eq_true, Nat.reducePow] at *; try omega
    obtain ⟨ho, hr⟩ := xrWord_fields 0x21 g (ad.setWidth 6) (aa.setWidth 6) (r) (0#6) (0) false w hX (by decide) (by decide)
    simp only [xrWord, BitVec.toNat_setWidth, BitVec.toNat_ofNat, b2n_false, if_true, if_false, Bool.false_eq_true, Nat.reducePow] at hX
    simp only [Nat.reducePow] at *
    have f0 : bfld w 46 4 = ad := bfld_of _ _ _ (by simp only [Nat.reducePow]; omega)
    have f1 : bfld w 40 4 = aa := bfld_of _ _ _ (by simp only [Nat.reducePow]; omega)
    clear hW hX
    show decodeX w = _
    simp only [decodeX, ho, hr, f0, f1, xArith, xArithN, XRaw.plain, XRaw.b, XRaw.a, withCond, Cond.ofCode_code, Option.map_some]
    exact checked_ok (by simp; omega) hw
  | imm v =>
    refine rt_of rfl fun hw w hW => ?_
    have := g.isLt; have := ad.isLt; have := aa.isLt; have := v.isLt
    have hX : w = xiWord 0x21 g (ad.setWidth 6).toNat (aa.setWidth 6).toNat (0) (b2n false) (v).toNat := by
      rw [hW]; simp only [xWord, XSrc.bitsB, XSrc.bitsA, nBit, fldBits, XSrc.isImm, xiWord, BitVec.toNat_setWidth, BitVec.toNat_ofNat, b2n_false, if_true, if_false, Bool.false_eq_true, Nat.reducePow] at *; try omega
    obtain ⟨ho, hr⟩ := xiWord_fields 0x21 g (ad.setWidth 6) (aa.setWidth 6) (0) false (v) w hX (by decide) (by decide)
    simp only [xiWord, BitVec.toNat_setWidth, BitVec.toNat_ofNat, b2n_false, if_true, if_false, Bool.false_eq_true, Nat.reducePow] at hX
    simp only [Nat.reducePow] at *
    have f0 : bfld w 46 4 = ad := bfld_of _ _ _ (by simp only [Nat.reducePow]; omega)
    have f1 : bfld w 40 4 = aa := bfld_of _ _ _ (by simp only [Nat.reducePow]; omega)
    clear hW hX
    show decodeX w = _
    simp only [decodeX, ho, hr, f0, f1, xArith, xArithN, XRaw.plain, XRaw.b, XRaw.a, withCond, Cond.ofCode_code, Option.map_some]
    exact checked_ok (by simp; omega) hw

theorem br (g : BitVec 3) (cc : Cond) (sa sb : BitVec 6) (off : BitVec 30) : Statement (.br g cc sa sb off) := by
  refine rt_of rfl fun hw w hW => ?_
  have := g.isLt; have := cc.code_lt; have := sa.isLt; have := sb.isLt; have := off.isLt
  simp only [xWord, XSrc.bitsB, XSrc.bitsA, nBit, fldBits, XSrc.isImm, Nat.reducePow] at *
  have f0 : bfld w 53 3 = g := bfld_of _ _ _ (by simp only [Nat.reducePow]; omega)
  have f1 : fld w 56 8 = 0x28 := fld_of _ _ _ _ (by simp only [Nat.reducePow]; omega)
  have f2 : bit w 52 = false := bit_of _ _ _ (by simp only [Nat.reducePow, b2n_true, b2n_false]; omega)
  have f3 : fld w 46 6 = 0 := fld_of _ _ _ _ (by simp only [Nat.reducePow]; omega)
  have f4 : fld w 30 4 = cc.code := fld_of _ _ _ _ (by simp only [Nat.reducePow]; omega)
  have f5 : bfld w 40 6 = sa := bfld_of _ _ _ (by simp only [Nat.reducePow]; omega)
  have f6 : bfld w 34 6 = sb := bfld_of _ _ _ (by simp only [Nat.reducePow]; omega)
  have f7 : bfld w 0 30 = off := bfld_of _ _ _ (by simp only [Nat.reducePow]; omega)
  clear hW
  show decodeX w = _
  simp only [decodeX, f0, f1, f2, f3, f4, f5, f6, f7, xArith, xArithN, XRaw.plain, XRaw.b, XRaw.a, withCond, Cond.ofCode_code, Option.map_some]
  exact checked_ok rfl hw

theorem jmp (g : BitVec 3) (sa : BitVec 6) (off : BitVec 30) : Statement (.jmp g sa off) := by
  refine rt_of rfl fun hw w hW => ?_
  have := g.isLt; have := sa.isLt; have := off.isLt
  simp only [xWord, XSrc.bitsB, XSrc.bitsA, nBit, fldBits, XSrc.isImm, Nat.reducePow] at *
  have f0 : bfld w 53 3 = g := bfld_of _ _ _ (by simp only [Nat.reducePow]; omega)
  have f1 : fld w 56 8 = 0x29 := fld_of _ _ _ _ (by simp only [Nat.reducePow]; omega)
  have f2 : bit w 52 = false := bit_of _ _ _ (by simp only [Nat.reducePow, b2n_true, b2n_false]; omega)
  have f3 : fld w 46 6 = 0 := fld_of _ _ _ _ (by simp only [Nat.reducePow]; omega)
  have f4 : fld w 30 10 = 0 := fld_of _ _ _ _ (by simp only [Nat.reducePow]; omega)
  have f5 : bfld w 40 6 = sa := bfld_of _ _ _ (by simp only [Nat.reducePow]; omega)
  have f6 : bfld w 0 30 = off := bfld_of _ _ _ (by simp only [Nat.reducePow]; omega)
  clear hW
  show decodeX w = _
  simp only [decodeX, f0, f1, f2, f3, f4, f5, f6, xArith, xArithN, XRaw.plain, XRaw.b, XRaw.a, withCond, Cond.ofCode_code, Option.map_some]
  exact checked_ok rfl hw

theorem call (g : BitVec 3) (sd sa : BitVec 6) (off : BitVec 30) : Statement (.call g sd sa off) := by
  refine rt_of rfl fun hw w hW => ?_
  have := g.isLt; have := sd.isLt; have := sa.isLt; have := off.isLt
  simp only [xWord, XSrc.bitsB, XSrc.bitsA, nBit, fldBits, XSrc.isImm, Nat.reducePow] at *
  have f0 : bfld w 53 3 = g := bfld_of _ _ _ (by simp only [Nat.reducePow]; omega)
  have f1 : fld w 56 8 = 0x2A := fld_of _ _ _ _ (by simp only [Nat.reducePow]; omega)
  have f2 : bit w 52 = false := bit_of _ _ _ (by simp only [Nat.reducePow, b2n_true, b2n_false]; omega)
  have f3 : bfld w 46 6 = sd := bfld_of _ _ _ (by simp only [Nat.reducePow]; omega)
  have f4 : fld w 30 10 = 0 := fld_of _ _ _ _ (by simp only [Nat.reducePow]; omega)
  have f5 : bfld w 40 6 = sa := bfld_of _ _ _ (by simp only [Nat.reducePow]; omega)
  have f6 : bfld w 0 30 = off := bfld_of _ _ _ (by simp only [Nat.reducePow]; omega)
  clear hW
  show decodeX w = _
  simp only [decodeX, f0, f1, f2, f3, f4, f5, f6, xArith, xArithN, XRaw.plain, XRaw.b, XRaw.a, withCond, Cond.ofCode_code, Option.map_some]
  exact checked_ok rfl hw

theorem ret (g : BitVec 3) (sa : BitVec 6) : Statement (.ret g sa) := by
  refine rt_of rfl fun hw w hW => ?_
  have := g.isLt; have := sa.isLt
  simp only [xWord, XSrc.bitsB, XSrc.bitsA, nBit, fldBits, XSrc.isImm, Nat.reducePow] at *
  have f0 : bfld w 53 3 = g := bfld_of _ _ _ (by simp only [Nat.reducePow]; omega)
  have f1 : fld w 56 8 = 0x2B := fld_of _ _ _ _ (by simp only [Nat.reducePow]; omega)
  have f2 : bit w 52 = false := bit_of _ _ _ (by simp only [Nat.reducePow, b2n_true, b2n_false]; omega)
  have f3 : fld w 46 6 = 0 := fld_of _ _ _ _ (by simp only [Nat.reducePow]; omega)
  have f4 : fld w 0 40 = 0 := fld_of _ _ _ _ (by simp only [Nat.reducePow]; omega)
  have f5 : bfld w 40 6 = sa := bfld_of _ _ _ (by simp only [Nat.reducePow]; omega)
  clear hW
  show decodeX w = _
  simp only [decodeX, f0, f1, f2, f3, f4, f5, xArith, xArithN, XRaw.plain, XRaw.b, XRaw.a, withCond, Cond.ofCode_code, Option.map_some]
  exact checked_ok rfl hw

theorem loop (g : BitVec 3) (rot : Bool) (stg : BitVec 3) (cnt : XSrc) : Statement (.loop g rot stg cnt) := by
  cases cnt with
  | reg r =>
    refine rt_of rfl fun hw w hW => ?_
    have := g.isLt; have := b2n_le rot; have := stg.isLt; have := r.isLt
    have hX : w = xrWord 0x2C g (BitVec.ofNat 6 (b2n rot * 8 + stg.toNat)).toNat (r).toNat (0#6).toNat (0#6).toNat (0) (b2n false) := by
      rw [hW]; simp only [xWord, XSrc.bitsB, XSrc.bitsA, nBit, fldBits, XSrc.isImm, xrWord, BitVec.toNat_setWidth, BitVec.toNat_ofNat, b2n_false, if_true, if_false, Bool.false_eq_true, Nat.reducePow] at *; try omega
    obtain ⟨ho, hr⟩ := xrWord_fields 0x2C g (BitVec.ofNat 6 (b2n rot * 8 + stg.toNat)) (r) (0#6) (0#6) (0) false w hX (by decide) (by decide)
    simp only [xrWord, BitVec.toNat_setWidth, BitVec.toNat_ofNat, b2n_false, if_true, if_false, Bool.false_eq_true, Nat.reducePow] at hX
    simp only [Nat.reducePow] at *
    have f0 : fld w 50 2 = 0 := fld_of _ _ _ _ (by simp only [Nat.reducePow]; omega)
    have f1 : bit w 49 = rot := bit_of _ _ _ (by simp only [Nat.reducePow, b2n_true, b2n_false]; omega)
    have f2 : bfld w 46 3 = stg := bfld_of _ _ _ (by simp only [Nat.reducePow]; omega)
    clear hW hX
    show decodeX w = _
    simp only [decodeX, ho, hr, f0, f1, f2, xArith, xArithN, XRaw.plain, XRaw.b, XRaw.a, withCond, Cond.ofCode_code, Option.map_some]
    exact checked_ok rfl hw
  | imm v =>
    refine rt_of rfl fun hw w hW => ?_
    have := g.isLt; have := b2n_le rot; have := stg.isLt; have := v.isLt
    have hX : w = xiWord 0x2C g (BitVec.ofNat 6 (b2n rot * 8 + stg.toNat)).toNat (0#6).toNat (0) (b2n false) (v).toNat := by
      rw [hW]; simp only [xWord, XSrc.bitsB, XSrc.bitsA, nBit, fldBits, XSrc.isImm, xiWord, BitVec.toNat_setWidth, BitVec.toNat_ofNat, b2n_false, if_true, if_false, Bool.false_eq_true, Nat.reducePow] at *; try omega
    obtain ⟨ho, hr⟩ := xiWord_fields 0x2C g (BitVec.ofNat 6 (b2n rot * 8 + stg.toNat)) (0#6) (0) false (v) w hX (by decide) (by decide)
    simp only [xiWord, BitVec.toNat_setWidth, BitVec.toNat_ofNat, b2n_false, if_true, if_false, Bool.false_eq_true, Nat.reducePow] at hX
    simp only [Nat.reducePow] at *
    have f0 : fld w 50 2 = 0 := fld_of _ _ _ _ (by simp only [Nat.reducePow]; omega)
    have f1 : bit w 49 = rot := bit_of _ _ _ (by simp only [Nat.reducePow, b2n_true, b2n_false]; omega)
    have f2 : bfld w 46 3 = stg := bfld_of _ _ _ (by simp only [Nat.reducePow]; omega)
    clear hW hX
    show decodeX w = _
    simp only [decodeX, ho, hr, f0, f1, f2, xArith, xArithN, XRaw.plain, XRaw.b, XRaw.a, withCond, Cond.ofCode_code, Option.map_some]
    exact checked_ok rfl hw

theorem exit (g : BitVec 3) (code : XSrc) : Statement (.exit g code) := by
  cases code with
  | reg r =>
    refine rt_of rfl fun hw w hW => ?_
    have := g.isLt; have := r.isLt
    have hX : w = xrWord 0x2D g (0#6).toNat (r).toNat (0#6).toNat (0#6).toNat (0) (b2n false) := by
      rw [hW]; simp only [xWord, XSrc.bitsB, XSrc.bitsA, nBit, fldBits, XSrc.isImm, xrWord, BitVec.toNat_setWidth, BitVec.toNat_ofNat, b2n_false, if_true, if_false, Bool.false_eq_true, Nat.reducePow] at *; try omega
    obtain ⟨ho, hr⟩ := xrWord_fields 0x2D g (0#6) (r) (0#6) (0#6) (0) false w hX (by decide) (by decide)
    clear hW hX
    show decodeX w = _
    simp only [decodeX, ho, hr, xArith, xArithN, XRaw.plain, XRaw.b, XRaw.a, withCond, Cond.ofCode_code, Option.map_some]
    exact checked_ok rfl hw
  | imm v =>
    refine rt_of rfl fun hw w hW => ?_
    have := g.isLt; have := v.isLt
    have hX : w = xiWord 0x2D g (0#6).toNat (0#6).toNat (0) (b2n false) (v).toNat := by
      rw [hW]; simp only [xWord, XSrc.bitsB, XSrc.bitsA, nBit, fldBits, XSrc.isImm, xiWord, BitVec.toNat_setWidth, BitVec.toNat_ofNat, b2n_false, if_true, if_false, Bool.false_eq_true, Nat.reducePow] at *; try omega
    obtain ⟨ho, hr⟩ := xiWord_fields 0x2D g (0#6) (0#6) (0) false (v) w hX (by decide) (by decide)
    clear hW hX
    show decodeX w = _
    simp only [decodeX, ho, hr, xArith, xArithN, XRaw.plain, XRaw.b, XRaw.a, withCond, Cond.ofCode_code, Option.map_some]
    exact checked_ok rfl hw

theorem trap (g : BitVec 3) (code : XSrc) : Statement (.trap g code) := by
  cases code with
  | reg r =>
    refine rt_of rfl fun hw w hW => ?_
    have := g.isLt; have := r.isLt
    have hX : w = xrWord 0x2E g (0#6).toNat (r).toNat (0#6).toNat (0#6).toNat (0) (b2n false) := by
      rw [hW]; simp only [xWord, XSrc.bitsB, XSrc.bitsA, nBit, fldBits, XSrc.isImm, xrWord, BitVec.toNat_setWidth, BitVec.toNat_ofNat, b2n_false, if_true, if_false, Bool.false_eq_true, Nat.reducePow] at *; try omega
    obtain ⟨ho, hr⟩ := xrWord_fields 0x2E g (0#6) (r) (0#6) (0#6) (0) false w hX (by decide) (by decide)
    clear hW hX
    show decodeX w = _
    simp only [decodeX, ho, hr, xArith, xArithN, XRaw.plain, XRaw.b, XRaw.a, withCond, Cond.ofCode_code, Option.map_some]
    exact checked_ok rfl hw
  | imm v =>
    refine rt_of rfl fun hw w hW => ?_
    have := g.isLt; have := v.isLt
    have hX : w = xiWord 0x2E g (0#6).toNat (0#6).toNat (0) (b2n false) (v).toNat := by
      rw [hW]; simp only [xWord, XSrc.bitsB, XSrc.bitsA, nBit, fldBits, XSrc.isImm, xiWord, BitVec.toNat_setWidth, BitVec.toNat_ofNat, b2n_false, if_true, if_false, Bool.false_eq_true, Nat.reducePow] at *; try omega
    obtain ⟨ho, hr⟩ := xiWord_fields 0x2E g (0#6) (0#6) (0) false (v) w hX (by decide) (by decide)
    clear hW hX
    show decodeX w = _
    simp only [decodeX, ho, hr, xArith, xArithN, XRaw.plain, XRaw.b, XRaw.a, withCond, Cond.ofCode_code, Option.map_some]
    exact checked_ok rfl hw

theorem wnext (g : BitVec 3) (sd : BitVec 6) : Statement (.wnext g sd) := by
  refine rt_of rfl fun hw w hW => ?_
  have := g.isLt; have := sd.isLt
  have hX : w = xrWord 0x2F g (sd).toNat (0#6).toNat (0#6).toNat (0#6).toNat (0) (b2n false) := by
    have z : (0#6).toNat = 0 := rfl
    have hb := b2n_false
    refine hW.trans ?_
    unfold xWord xrWord
    omega
  obtain ⟨ho, hr⟩ := xrWord_fields 0x2F g (sd) (0#6) (0#6) (0#6) (0) false w hX (by decide) (by decide)
  clear hW hX
  show decodeX w = _
  simp only [decodeX, ho, hr, xArith, xArithN, XRaw.plain, XRaw.b, XRaw.a, withCond, Cond.ofCode_code, Option.map_some]
  exact checked_ok rfl hw

theorem wnextField (g : BitVec 3) (sd : BitVec 6) (k : BitVec 3) : Statement (.wnextField g sd k) := by
  refine rt_of rfl fun hw w hW => ?_
  have := g.isLt; have := sd.isLt; have := k.isLt
  have hX : w = xiWord 0x2F g (sd).toNat (0#6).toNat (0) (b2n false) (k.setWidth 32).toNat := by
    rw [hW]; simp only [xWord, XSrc.bitsB, XSrc.bitsA, nBit, fldBits, XSrc.isImm, xiWord, BitVec.toNat_setWidth, BitVec.toNat_ofNat, b2n_false, if_true, if_false, Bool.false_eq_true, Nat.reducePow] at *; try omega
  obtain ⟨ho, hr⟩ := xiWord_fields 0x2F g (sd) (0#6) (0) false (k.setWidth 32) w hX (by decide) (by decide)
  simp only [xiWord, BitVec.toNat_setWidth, BitVec.toNat_ofNat, b2n_false, if_true, if_false, Bool.false_eq_true, Nat.reducePow] at hX
  simp only [Nat.reducePow] at *
  have f0 : bfld w 0 3 = k := bfld_of _ _ _ (by simp only [Nat.reducePow]; omega)
  clear hW hX
  show decodeX w = _
  simp only [decodeX, ho, hr, f0, xArith, xArithN, XRaw.plain, XRaw.b, XRaw.a, withCond, Cond.ofCode_code, Option.map_some]
  exact checked_ok (by simp; omega) hw

theorem mfc (g : BitVec 3) (sd : BitVec 6) (crn : BitVec 4) : Statement (.mfc g sd crn) := by
  refine rt_of rfl fun hw w hW => ?_
  have := g.isLt; have := sd.isLt; have := crn.isLt
  have hX : w = xrWord 0x38 g (sd).toNat (crn.setWidth 6).toNat (0#6).toNat (0#6).toNat (0) (b2n false) := by
    rw [hW]; simp only [xWord, XSrc.bitsB, XSrc.bitsA, nBit, fldBits, XSrc.isImm, xrWord, BitVec.toNat_setWidth, BitVec.toNat_ofNat, b2n_false, if_true, if_false, Bool.false_eq_true, Nat.reducePow] at *; try omega
  obtain ⟨ho, hr⟩ := xrWord_fields 0x38 g (sd) (crn.setWidth 6) (0#6) (0#6) (0) false w hX (by decide) (by decide)
  simp only [xrWord, BitVec.toNat_setWidth, BitVec.toNat_ofNat, b2n_false, if_true, if_false, Bool.false_eq_true, Nat.reducePow] at hX
  simp only [Nat.reducePow] at *
  have f0 : bfld w 40 4 = crn := bfld_of _ _ _ (by simp only [Nat.reducePow]; omega)
  clear hW hX
  show decodeX w = _
  simp only [decodeX, ho, hr, f0, xArith, xArithN, XRaw.plain, XRaw.b, XRaw.a, withCond, Cond.ofCode_code, Option.map_some]
  rw [if_neg (by simp; omega)]
  exact checked_ok rfl hw

theorem mtc (g : BitVec 3) (crn : BitVec 4) (sa : BitVec 6) : Statement (.mtc g crn sa) := by
  refine rt_of rfl fun hw w hW => ?_
  have := g.isLt; have := sa.isLt; have := crn.isLt
  have hX : w = xrWord 0x39 g (crn.setWidth 6).toNat (sa).toNat (0#6).toNat (0#6).toNat (0) (b2n false) := by
    rw [hW]; simp only [xWord, XSrc.bitsB, XSrc.bitsA, nBit, fldBits, XSrc.isImm, xrWord, BitVec.toNat_setWidth, BitVec.toNat_ofNat, b2n_false, if_true, if_false, Bool.false_eq_true, Nat.reducePow] at *; try omega
  obtain ⟨ho, hr⟩ := xrWord_fields 0x39 g (crn.setWidth 6) (sa) (0#6) (0#6) (0) false w hX (by decide) (by decide)
  simp only [xrWord, BitVec.toNat_setWidth, BitVec.toNat_ofNat, b2n_false, if_true, if_false, Bool.false_eq_true, Nat.reducePow] at hX
  simp only [Nat.reducePow] at *
  have f0 : bfld w 46 4 = crn := bfld_of _ _ _ (by simp only [Nat.reducePow]; omega)
  clear hW hX
  show decodeX w = _
  simp only [decodeX, ho, hr, f0, xArith, xArithN, XRaw.plain, XRaw.b, XRaw.a, withCond, Cond.ofCode_code, Option.map_some]
  rw [if_neg (by simp; omega)]
  exact checked_ok rfl hw

theorem shw (g : BitVec 3) (cls n : BitVec 2) (fi : BitVec 6) (v : XSrc) : Statement (.shw g cls n fi v) := by
  cases v with
  | reg r =>
    refine rt_of rfl fun hw w hW => ?_
    have := g.isLt; have := cls.isLt; have := n.isLt; have := fi.isLt; have := r.isLt
    have hX : w = xrWord 0x40 g (BitVec.ofNat 6 (cls.toNat * 16 + n.toNat * 4)).toNat (r).toNat (0#6).toNat (fi).toNat (0) (b2n false) := by
      rw [hW]; simp only [xWord, XSrc.bitsB, XSrc.bitsA, nBit, fldBits, XSrc.isImm, xrWord, BitVec.toNat_setWidth, BitVec.toNat_ofNat, b2n_false, if_true, if_false, Bool.false_eq_true, Nat.reducePow] at *; try omega
    obtain ⟨ho, hr⟩ := xrWord_fields 0x40 g (BitVec.ofNat 6 (cls.toNat * 16 + n.toNat * 4)) (r) (0#6) (fi) (0) false w hX (by decide) (by decide)
    simp only [xrWord, BitVec.toNat_setWidth, BitVec.toNat_ofNat, b2n_false, if_true, if_false, Bool.false_eq_true, Nat.reducePow] at hX
    simp only [Nat.reducePow] at *
    have f0 : fld w 46 2 = 0 := fld_of _ _ _ _ (by simp only [Nat.reducePow]; omega)
    have f1 : bfld w 50 2 = cls := bfld_of _ _ _ (by simp only [Nat.reducePow]; omega)
    have f2 : bfld w 48 2 = n := bfld_of _ _ _ (by simp only [Nat.reducePow]; omega)
    clear hW hX
    show decodeX w = _
    simp only [decodeX, ho, hr, f0, f1, f2, xArith, xArithN, XRaw.plain, XRaw.b, XRaw.a, withCond, Cond.ofCode_code, Option.map_some]
    exact checked_ok rfl hw
  | imm v =>
    refine rt_of rfl fun hw w hW => ?_
    have := g.isLt; have := cls.isLt; have := n.isLt; have := fi.isLt; have := v.isLt
    have hX : w = xiWord 0x40 g (BitVec.ofNat 6 (cls.toNat * 16 + n.toNat * 4)).toNat (fi).toNat (0) (b2n false) (v).toNat := by
      rw [hW]; simp only [xWord, XSrc.bitsB, XSrc.bitsA, nBit, fldBits, XSrc.isImm, xiWord, BitVec.toNat_setWidth, BitVec.toNat_ofNat, b2n_false, if_true, if_false, Bool.false_eq_true, Nat.reducePow] at *; try omega
    obtain ⟨ho, hr⟩ := xiWord_fields 0x40 g (BitVec.ofNat 6 (cls.toNat * 16 + n.toNat * 4)) (fi) (0) false (v) w hX (by decide) (by decide)
    simp only [xiWord, BitVec.toNat_setWidth, BitVec.toNat_ofNat, b2n_false, if_true, if_false, Bool.false_eq_true, Nat.reducePow] at hX
    simp only [Nat.reducePow] at *
    have f0 : fld w 46 2 = 0 := fld_of _ _ _ _ (by simp only [Nat.reducePow]; omega)
    have f1 : bfld w 50 2 = cls := bfld_of _ _ _ (by simp only [Nat.reducePow]; omega)
    have f2 : bfld w 48 2 = n := bfld_of _ _ _ (by simp only [Nat.reducePow]; omega)
    clear hW hX
    show decodeX w = _
    simp only [decodeX, ho, hr, f0, f1, f2, xArith, xArithN, XRaw.plain, XRaw.b, XRaw.a, withCond, Cond.ofCode_code, Option.map_some]
    exact checked_ok rfl hw

theorem tdw (g : BitVec 3) (tid fi : BitVec 6) (v : XSrc) : Statement (.tdw g tid fi v) := by
  cases v with
  | reg r =>
    refine rt_of rfl fun hw w hW => ?_
    have := g.isLt; have := tid.isLt; have := fi.isLt; have := r.isLt
    have hX : w = xrWord 0x41 g (tid).toNat (r).toNat (0#6).toNat (fi).toNat (0) (b2n false) := by
      rw [hW]; simp only [xWord, XSrc.bitsB, XSrc.bitsA, nBit, fldBits, XSrc.isImm, xrWord, BitVec.toNat_setWidth, BitVec.toNat_ofNat, b2n_false, if_true, if_false, Bool.false_eq_true, Nat.reducePow] at *; try omega
    obtain ⟨ho, hr⟩ := xrWord_fields 0x41 g (tid) (r) (0#6) (fi) (0) false w hX (by decide) (by decide)
    clear hW hX
    show decodeX w = _
    simp only [decodeX, ho, hr, xArith, xArithN, XRaw.plain, XRaw.b, XRaw.a, withCond, Cond.ofCode_code, Option.map_some]
    exact checked_ok rfl hw
  | imm v =>
    refine rt_of rfl fun hw w hW => ?_
    have := g.isLt; have := tid.isLt; have := fi.isLt; have := v.isLt
    have hX : w = xiWord 0x41 g (tid).toNat (fi).toNat (0) (b2n false) (v).toNat := by
      rw [hW]; simp only [xWord, XSrc.bitsB, XSrc.bitsA, nBit, fldBits, XSrc.isImm, xiWord, BitVec.toNat_setWidth, BitVec.toNat_ofNat, b2n_false, if_true, if_false, Bool.false_eq_true, Nat.reducePow] at *; try omega
    obtain ⟨ho, hr⟩ := xiWord_fields 0x41 g (tid) (fi) (0) false (v) w hX (by decide) (by decide)
    clear hW hX
    show decodeX w = _
    simp only [decodeX, ho, hr, xArith, xArithN, XRaw.plain, XRaw.b, XRaw.a, withCond, Cond.ofCode_code, Option.map_some]
    exact checked_ok rfl hw

theorem tdr (g : BitVec 3) (sd tid fi : BitVec 6) (immForm : Bool) : Statement (.tdr g sd tid fi immForm) := by
  cases immForm with
  | false =>
    refine rt_of rfl fun hw w hW => ?_
    have := g.isLt; have := sd.isLt; have := tid.isLt; have := fi.isLt
    have hX : w = xrWord 0x42 g (sd).toNat (tid).toNat (0#6).toNat (fi).toNat (0) (b2n false) := by
      rw [hW]; simp only [xWord, XSrc.bitsB, XSrc.bitsA, nBit, fldBits, XSrc.isImm, xrWord, BitVec.toNat_setWidth, BitVec.toNat_ofNat, b2n_false, if_true, if_false, Bool.false_eq_true, Nat.reducePow] at *; try omega
    obtain ⟨ho, hr⟩ := xrWord_fields 0x42 g (sd) (tid) (0#6) (fi) (0) false w hX (by decide) (by decide)
    clear hW hX
    show decodeX w = _
    simp only [decodeX, ho, hr, xArith, xArithN, XRaw.plain, XRaw.b, XRaw.a, withCond, Cond.ofCode_code, Option.map_some]
    exact checked_ok rfl hw
  | true =>
    refine rt_of rfl fun hw w hW => ?_
    have := g.isLt; have := sd.isLt; have := tid.isLt; have := fi.isLt
    have hX : w = xiWord 0x42 g (sd).toNat (tid).toNat (0) (b2n false) (fi.setWidth 32).toNat := by
      rw [hW]; simp only [xWord, XSrc.bitsB, XSrc.bitsA, nBit, fldBits, XSrc.isImm, xiWord, BitVec.toNat_setWidth, BitVec.toNat_ofNat, b2n_false, if_true, if_false, Bool.false_eq_true, Nat.reducePow] at *; try omega
    obtain ⟨ho, hr⟩ := xiWord_fields 0x42 g (sd) (tid) (0) false (fi.setWidth 32) w hX (by decide) (by decide)
    simp only [xiWord, BitVec.toNat_setWidth, BitVec.toNat_ofNat, b2n_false, if_true, if_false, Bool.false_eq_true, Nat.reducePow] at hX
    simp only [Nat.reducePow] at *
    have f0 : bfld w 0 6 = fi := bfld_of _ _ _ (by simp only [Nat.reducePow]; omega)
    clear hW hX
    show decodeX w = _
    simp only [decodeX, ho, hr, f0, xArith, xArithN, XRaw.plain, XRaw.b, XRaw.a, withCond, Cond.ofCode_code, Option.map_some]
    exact checked_ok (by simp; omega) hw

theorem spmark (g : BitVec 3) (sd : BitVec 6) (name : XSrc) : Statement (.spmark g sd name) := by
  cases name with
  | reg r =>
    refine rt_of rfl fun hw w hW => ?_
    have := g.isLt; have := sd.isLt; have := r.isLt
    have hX : w = xrWord 0x48 g (sd).toNat (r).toNat (0#6).toNat (0#6).toNat (0) (b2n false) := by
      rw [hW]; simp only [xWord, XSrc.bitsB, XSrc.bitsA, nBit, fldBits, XSrc.isImm, xrWord, BitVec.toNat_setWidth, BitVec.toNat_ofNat, b2n_false, if_true, if_false, Bool.false_eq_true, Nat.reducePow] at *; try omega
    obtain ⟨ho, hr⟩ := xrWord_fields 0x48 g (sd) (r) (0#6) (0#6) (0) false w hX (by decide) (by decide)
    clear hW hX
    show decodeX w = _
    simp only [decodeX, ho, hr, xArith, xArithN, XRaw.plain, XRaw.b, XRaw.a, withCond, Cond.ofCode_code, Option.map_some]
    exact checked_ok rfl hw
  | imm v =>
    refine rt_of rfl fun hw w hW => ?_
    have := g.isLt; have := sd.isLt; have := v.isLt
    have hX : w = xiWord 0x48 g (sd).toNat (0#6).toNat (0) (b2n false) (v).toNat := by
      rw [hW]; simp only [xWord, XSrc.bitsB, XSrc.bitsA, nBit, fldBits, XSrc.isImm, xiWord, BitVec.toNat_setWidth, BitVec.toNat_ofNat, b2n_false, if_true, if_false, Bool.false_eq_true, Nat.reducePow] at *; try omega
    obtain ⟨ho, hr⟩ := xiWord_fields 0x48 g (sd) (0#6) (0) false (v) w hX (by decide) (by decide)
    clear hW hX
    show decodeX w = _
    simp only [decodeX, ho, hr, xArith, xArithN, XRaw.plain, XRaw.b, XRaw.a, withCond, Cond.ofCode_code, Option.map_some]
    exact checked_ok rfl hw

theorem spdrop (g : BitVec 3) (sa : BitVec 6) (name : XSrc) : Statement (.spdrop g sa name) := by
  cases name with
  | reg r =>
    refine rt_of rfl fun hw w hW => ?_
    have := g.isLt; have := sa.isLt; have := r.isLt
    have hX : w = xrWord 0x49 g (0#6).toNat (sa).toNat (r).toNat (0#6).toNat (0) (b2n false) := by
      rw [hW]; simp only [xWord, XSrc.bitsB, XSrc.bitsA, nBit, fldBits, XSrc.isImm, xrWord, BitVec.toNat_setWidth, BitVec.toNat_ofNat, b2n_false, if_true, if_false, Bool.false_eq_true, Nat.reducePow] at *; try omega
    obtain ⟨ho, hr⟩ := xrWord_fields 0x49 g (0#6) (sa) (r) (0#6) (0) false w hX (by decide) (by decide)
    clear hW hX
    show decodeX w = _
    simp only [decodeX, ho, hr, xArith, xArithN, XRaw.plain, XRaw.b, XRaw.a, withCond, Cond.ofCode_code, Option.map_some]
    exact checked_ok rfl hw
  | imm v =>
    refine rt_of rfl fun hw w hW => ?_
    have := g.isLt; have := sa.isLt; have := v.isLt
    have hX : w = xiWord 0x49 g (0#6).toNat (sa).toNat (0) (b2n false) (v).toNat := by
      rw [hW]; simp only [xWord, XSrc.bitsB, XSrc.bitsA, nBit, fldBits, XSrc.isImm, xiWord, BitVec.toNat_setWidth, BitVec.toNat_ofNat, b2n_false, if_true, if_false, Bool.false_eq_true, Nat.reducePow] at *; try omega
    obtain ⟨ho, hr⟩ := xiWord_fields 0x49 g (0#6) (sa) (0) false (v) w hX (by decide) (by decide)
    clear hW hX
    show decodeX w = _
    simp only [decodeX, ho, hr, xArith, xArithN, XRaw.plain, XRaw.b, XRaw.a, withCond, Cond.ofCode_code, Option.map_some]
    exact checked_ok rfl hw

theorem spdepth (g : BitVec 3) (sd : BitVec 6) : Statement (.spdepth g sd) := by
  refine rt_of rfl fun hw w hW => ?_
  have := g.isLt; have := sd.isLt
  have hX : w = xrWord 0x4A g (sd).toNat (0#6).toNat (0#6).toNat (0#6).toNat (0) (b2n false) := by
    have z : (0#6).toNat = 0 := rfl
    have hb := b2n_false
    refine hW.trans ?_
    unfold xWord xrWord
    omega
  obtain ⟨ho, hr⟩ := xrWord_fields 0x4A g (sd) (0#6) (0#6) (0#6) (0) false w hX (by decide) (by decide)
  clear hW hX
  show decodeX w = _
  simp only [decodeX, ho, hr, xArith, xArithN, XRaw.plain, XRaw.b, XRaw.a, withCond, Cond.ofCode_code, Option.map_some]
  exact checked_ok rfl hw

theorem vadd (f : VF) : Statement (.vadd f) := by
  exact rt_of rfl fun hw w hW => decodeV_word 0x00 .vadd f w hW (by decide) rfl hw

theorem vsub (f : VF) : Statement (.vsub f) := by
  exact rt_of rfl fun hw w hW => decodeV_word 0x01 .vsub f w hW (by decide) rfl hw

theorem vmul (f : VF) : Statement (.vmul f) := by
  exact rt_of rfl fun hw w hW => decodeV_word 0x02 .vmul f w hW (by decide) rfl hw

theorem vfma (f : VF) : Statement (.vfma f) := by
  exact rt_of rfl fun hw w hW => decodeV_word 0x03 .vfma f w hW (by decide) rfl hw

theorem vfms (f : VF) : Statement (.vfms f) := by
  exact rt_of rfl fun hw w hW => decodeV_word 0x04 .vfms f w hW (by decide) rfl hw

theorem vmin (f : VF) : Statement (.vmin f) := by
  exact rt_of rfl fun hw w hW => decodeV_word 0x05 .vmin f w hW (by decide) rfl hw

theorem vmax (f : VF) : Statement (.vmax f) := by
  exact rt_of rfl fun hw w hW => decodeV_word 0x06 .vmax f w hW (by decide) rfl hw

theorem vabs (f : VF) : Statement (.vabs f) := by
  exact rt_of rfl fun hw w hW => decodeV_word 0x07 .vabs f w hW (by decide) rfl hw

theorem vneg (f : VF) : Statement (.vneg f) := by
  exact rt_of rfl fun hw w hW => decodeV_word 0x08 .vneg f w hW (by decide) rfl hw

theorem viadd (f : VF) : Statement (.viadd f) := by
  exact rt_of rfl fun hw w hW => decodeV_word 0x20 .viadd f w hW (by decide) rfl hw

theorem visub (f : VF) : Statement (.visub f) := by
  exact rt_of rfl fun hw w hW => decodeV_word 0x21 .visub f w hW (by decide) rfl hw

theorem vimul (f : VF) : Statement (.vimul f) := by
  exact rt_of rfl fun hw w hW => decodeV_word 0x22 .vimul f w hW (by decide) rfl hw

theorem vimad (f : VF) : Statement (.vimad f) := by
  exact rt_of rfl fun hw w hW => decodeV_word 0x23 .vimad f w hW (by decide) rfl hw

theorem vimin (f : VF) : Statement (.vimin f) := by
  exact rt_of rfl fun hw w hW => decodeV_word 0x24 .vimin f w hW (by decide) rfl hw

theorem vimax (f : VF) : Statement (.vimax f) := by
  exact rt_of rfl fun hw w hW => decodeV_word 0x25 .vimax f w hW (by decide) rfl hw

theorem viabs (f : VF) : Statement (.viabs f) := by
  exact rt_of rfl fun hw w hW => decodeV_word 0x26 .viabs f w hW (by decide) rfl hw

theorem vshl (f : VF) : Statement (.vshl f) := by
  exact rt_of rfl fun hw w hW => decodeV_word 0x27 .vshl f w hW (by decide) rfl hw

theorem vshr (f : VF) : Statement (.vshr f) := by
  exact rt_of rfl fun hw w hW => decodeV_word 0x28 .vshr f w hW (by decide) rfl hw

theorem vsra (f : VF) : Statement (.vsra f) := by
  exact rt_of rfl fun hw w hW => decodeV_word 0x29 .vsra f w hW (by decide) rfl hw

theorem vand (f : VF) : Statement (.vand f) := by
  exact rt_of rfl fun hw w hW => decodeV_word 0x2A .vand f w hW (by decide) rfl hw

theorem vor (f : VF) : Statement (.vor f) := by
  exact rt_of rfl fun hw w hW => decodeV_word 0x2B .vor f w hW (by decide) rfl hw

theorem vxor (f : VF) : Statement (.vxor f) := by
  exact rt_of rfl fun hw w hW => decodeV_word 0x2C .vxor f w hW (by decide) rfl hw

theorem vcmp (f : VF) : Statement (.vcmp f) := by
  exact rt_of rfl fun hw w hW => decodeV_word 0x40 .vcmp f w hW (by decide) rfl hw

theorem vsel (f : VF) : Statement (.vsel f) := by
  exact rt_of rfl fun hw w hW => decodeV_word 0x41 .vsel f w hW (by decide) rfl hw

theorem vmop (f : VF) : Statement (.vmop f) := by
  exact rt_of rfl fun hw w hW => decodeV_word 0x42 .vmop f w hW (by decide) rfl hw

theorem vrcp (f : VF) : Statement (.vrcp f) := by
  exact rt_of rfl fun hw w hW => decodeV_word 0x50 .vrcp f w hW (by decide) rfl hw

theorem vrsq (f : VF) : Statement (.vrsq f) := by
  exact rt_of rfl fun hw w hW => decodeV_word 0x51 .vrsq f w hW (by decide) rfl hw

theorem vsqrt (f : VF) : Statement (.vsqrt f) := by
  exact rt_of rfl fun hw w hW => decodeV_word 0x52 .vsqrt f w hW (by decide) rfl hw

theorem vexp2 (f : VF) : Statement (.vexp2 f) := by
  exact rt_of rfl fun hw w hW => decodeV_word 0x53 .vexp2 f w hW (by decide) rfl hw

theorem vlog2 (f : VF) : Statement (.vlog2 f) := by
  exact rt_of rfl fun hw w hW => decodeV_word 0x54 .vlog2 f w hW (by decide) rfl hw

theorem vtanh (f : VF) : Statement (.vtanh f) := by
  exact rt_of rfl fun hw w hW => decodeV_word 0x55 .vtanh f w hW (by decide) rfl hw

theorem verf (f : VF) : Statement (.verf f) := by
  exact rt_of rfl fun hw w hW => decodeV_word 0x56 .verf f w hW (by decide) rfl hw

theorem vcvt (f : VF) : Statement (.vcvt f) := by
  exact rt_of rfl fun hw w hW => decodeV_word 0x60 .vcvt f w hW (by decide) rfl hw

theorem vwiden (f : VF) : Statement (.vwiden f) := by
  exact rt_of rfl fun hw w hW => decodeV_word 0x61 .vwiden f w hW (by decide) rfl hw

theorem vunpk (f : VF) : Statement (.vunpk f) := by
  exact rt_of rfl fun hw w hW => decodeV_word 0x63 .vunpk f w hW (by decide) rfl hw

theorem vnarrow (f : VF) : Statement (.vnarrow f) := by
  exact rt_of rfl fun hw w hW => decodeV_word 0x62 .vnarrow f w hW (by decide) rfl hw

theorem vqmx (f : VF) : Statement (.vqmx f) := by
  exact rt_of rfl fun hw w hW => decodeV_word 0x64 .vqmx f w hW (by decide) rfl hw

theorem vdqmx (f : VF) : Statement (.vdqmx f) := by
  exact rt_of rfl fun hw w hW => decodeV_word 0x65 .vdqmx f w hW (by decide) rfl hw

theorem vperm (f : VF) : Statement (.vperm f) := by
  exact rt_of rfl fun hw w hW => decodeV_word 0x70 .vperm f w hW (by decide) rfl hw

theorem vslide (f : VF) : Statement (.vslide f) := by
  exact rt_of rfl fun hw w hW => decodeV_word 0x71 .vslide f w hW (by decide) rfl hw

theorem vbcast (f : VF) : Statement (.vbcast f) := by
  exact rt_of rfl fun hw w hW => decodeV_word 0x72 .vbcast f w hW (by decide) rfl hw

theorem vextr (f : VF) : Statement (.vextr f) := by
  exact rt_of rfl fun hw w hW => decodeV_word 0x73 .vextr f w hW (by decide) rfl hw

theorem vins (f : VF) : Statement (.vins f) := by
  exact rt_of rfl fun hw w hW => decodeV_word 0x74 .vins f w hW (by decide) rfl hw

theorem vred (f : VF) : Statement (.vred f) := by
  exact rt_of rfl fun hw w hW => decodeV_word 0x80 .vred f w hW (by decide) rfl hw

theorem vrdrn (f : VF) : Statement (.vrdrn f) := by
  exact rt_of rfl fun hw w hW => decodeV_word 0x81 .vrdrn f w hW (by decide) rfl hw

theorem vrclr (f : VF) : Statement (.vrclr f) := by
  exact rt_of rfl fun hw w hW => decodeV_word 0x82 .vrclr f w hW (by decide) rfl hw

theorem vdot (f : VF) : Statement (.vdot f) := by
  exact rt_of rfl fun hw w hW => decodeV_word 0x90 .vdot f w hW (by decide) rfl hw

theorem raddf (f : VF) : Statement (.raddf f) := by
  exact rt_of rfl fun hw w hW => decodeV_word 0xA0 .raddf f w hW (by decide) rfl hw

theorem unaddf (f : VF) : Statement (.unaddf f) := by
  exact rt_of rfl fun hw w hW => decodeV_word 0xA1 .unaddf f w hW (by decide) rfl hw

theorem rsubf (f : VF) : Statement (.rsubf f) := by
  exact rt_of rfl fun hw w hW => decodeV_word 0xA2 .rsubf f w hW (by decide) rfl hw

theorem unsubf (f : VF) : Statement (.unsubf f) := by
  exact rt_of rfl fun hw w hW => decodeV_word 0xA3 .unsubf f w hW (by decide) rfl hw

theorem rmulf (f : VF) : Statement (.rmulf f) := by
  exact rt_of rfl fun hw w hW => decodeV_word 0xA4 .rmulf f w hW (by decide) rfl hw

theorem unmulf (f : VF) : Statement (.unmulf f) := by
  exact rt_of rfl fun hw w hW => decodeV_word 0xA5 .unmulf f w hW (by decide) rfl hw

theorem rnarw (f : VF) : Statement (.rnarw f) := by
  exact rt_of rfl fun hw w hW => decodeV_word 0xA6 .rnarw f w hW (by decide) rfl hw

theorem unnarw (f : VF) : Statement (.unnarw f) := by
  exact rt_of rfl fun hw w hW => decodeV_word 0xA7 .unnarw f w hW (by decide) rfl hw

theorem rshr (f : VF) : Statement (.rshr f) := by
  exact rt_of rfl fun hw w hW => decodeV_word 0xA8 .rshr f w hW (by decide) rfl hw

theorem unshr (f : VF) : Statement (.unshr f) := by
  exact rt_of rfl fun hw w hW => decodeV_word 0xA9 .unshr f w hW (by decide) rfl hw

theorem rscl (f : VF) : Statement (.rscl f) := by
  exact rt_of rfl fun hw w hW => decodeV_word 0xAA .rscl f w hW (by decide) rfl hw

theorem unscl (f : VF) : Statement (.unscl f) := by
  exact rt_of rfl fun hw w hW => decodeV_word 0xAB .unscl f w hW (by decide) rfl hw

theorem rimul (f : VF) : Statement (.rimul f) := by
  exact rt_of rfl fun hw w hW => decodeV_word 0xAC .rimul f w hW (by decide) rfl hw

theorem unimul (f : VF) : Statement (.unimul f) := by
  exact rt_of rfl fun hw w hW => decodeV_word 0xAD .unimul f w hW (by decide) rfl hw

theorem mrun (g : BitVec 3) (idx : BitVec 8) (sh : BitVec 2) (sw : Bool) (rep : BitVec 12) (inc : BitVec 8) : Statement (.mrun g idx sh sw rep inc) := by
  refine rt_of rfl fun hw w hW => ?_
  have := g.isLt; have := idx.isLt; have := sh.isLt; have := b2n_le sw; have := rep.isLt; have := inc.isLt
  simp only [mWord, mrunWord, Nat.reducePow] at *
  have f0 : bfld w 53 3 = g := bfld_of _ _ _ (by simp only [Nat.reducePow]; omega)
  have f1 : fld w 56 8 = 0 := fld_of _ _ _ _ (by simp only [Nat.reducePow]; omega)
  have f2 : bit w 44 = false := bit_of _ _ _ (by simp only [Nat.reducePow, b2n_true, b2n_false]; omega)
  have f3 : bfld w 45 8 = idx := bfld_of _ _ _ (by simp only [Nat.reducePow]; omega)
  have f4 : bfld w 42 2 = sh := bfld_of _ _ _ (by simp only [Nat.reducePow]; omega)
  have f5 : bit w 41 = sw := bit_of _ _ _ (by simp only [Nat.reducePow, b2n_true, b2n_false]; omega)
  have f6 : bfld w 29 12 = rep := bfld_of _ _ _ (by simp only [Nat.reducePow]; omega)
  have f7 : bfld w 21 8 = inc := bfld_of _ _ _ (by simp only [Nat.reducePow]; omega)
  have f8 : fld w 0 21 = 0 := fld_of _ _ _ _ (by simp only [Nat.reducePow]; omega)
  clear hW
  show decodeM w = _
  simp only [decodeM, f0, f1, f2, f3, f4, f5, f6, f7, f8]
  exact checked_ok rfl hw

theorem mrunF (g : BitVec 3) (idx : BitVec 8) (sh : BitVec 2) (sw : Bool) (rep : BitVec 12) (inc : BitVec 8) : Statement (.mrunF g idx sh sw rep inc) := by
  refine rt_of rfl fun hw w hW => ?_
  have := g.isLt; have := idx.isLt; have := sh.isLt; have := b2n_le sw; have := rep.isLt; have := inc.isLt
  simp only [mWord, mrunWord, Nat.reducePow] at *
  have f0 : bfld w 53 3 = g := bfld_of _ _ _ (by simp only [Nat.reducePow]; omega)
  have f1 : fld w 56 8 = 0 := fld_of _ _ _ _ (by simp only [Nat.reducePow]; omega)
  have f2 : bit w 44 = true := bit_of _ _ _ (by simp only [Nat.reducePow, b2n_true, b2n_false]; omega)
  have f3 : bfld w 45 8 = idx := bfld_of _ _ _ (by simp only [Nat.reducePow]; omega)
  have f4 : bfld w 42 2 = sh := bfld_of _ _ _ (by simp only [Nat.reducePow]; omega)
  have f5 : bit w 41 = sw := bit_of _ _ _ (by simp only [Nat.reducePow, b2n_true, b2n_false]; omega)
  have f6 : bfld w 29 12 = rep := bfld_of _ _ _ (by simp only [Nat.reducePow]; omega)
  have f7 : bfld w 21 8 = inc := bfld_of _ _ _ (by simp only [Nat.reducePow]; omega)
  have f8 : fld w 0 21 = 0 := fld_of _ _ _ _ (by simp only [Nat.reducePow]; omega)
  clear hW
  show decodeM w = _
  simp only [decodeM, f0, f1, f2, f3, f4, f5, f6, f7, f8]
  exact checked_ok rfl hw

theorem mpload (g : BitVec 3) (idx : BitVec 8) (bank : BitVec 4) (off : BitVec 12) : Statement (.mpload g idx bank off) := by
  refine rt_of rfl fun hw w hW => ?_
  have := g.isLt; have := idx.isLt; have := bank.isLt; have := off.isLt
  simp only [mWord, mrunWord, Nat.reducePow] at *
  have f0 : bfld w 53 3 = g := bfld_of _ _ _ (by simp only [Nat.reducePow]; omega)
  have f1 : fld w 56 8 = 1 := fld_of _ _ _ _ (by simp only [Nat.reducePow]; omega)
  have f2 : bit w 20 = false := bit_of _ _ _ (by simp only [Nat.reducePow, b2n_true, b2n_false]; omega)
  have f3 : fld w 21 24 = 0 := fld_of _ _ _ _ (by simp only [Nat.reducePow]; omega)
  have f4 : fld w 0 4 = 0 := fld_of _ _ _ _ (by simp only [Nat.reducePow]; omega)
  have f5 : bfld w 45 8 = idx := bfld_of _ _ _ (by simp only [Nat.reducePow]; omega)
  have f6 : bfld w 16 4 = bank := bfld_of _ _ _ (by simp only [Nat.reducePow]; omega)
  have f7 : bfld w 4 12 = off := bfld_of _ _ _ (by simp only [Nat.reducePow]; omega)
  clear hW
  show decodeM w = _
  simp only [decodeM, f0, f1, f2, f3, f4, f5, f6, f7]
  exact checked_ok rfl hw

theorem mploadP (g : BitVec 3) (k : BitVec 3) (sa : BitVec 6) : Statement (.mploadP g k sa) := by
  refine rt_of rfl fun hw w hW => ?_
  have := g.isLt; have := k.isLt; have := sa.isLt
  simp only [mWord, mrunWord, Nat.reducePow] at *
  have f0 : bfld w 53 3 = g := bfld_of _ _ _ (by simp only [Nat.reducePow]; omega)
  have f1 : fld w 56 8 = 1 := fld_of _ _ _ _ (by simp only [Nat.reducePow]; omega)
  have f2 : bit w 20 = true := bit_of _ _ _ (by simp only [Nat.reducePow, b2n_true, b2n_false]; omega)
  have f3 : fld w 21 24 = 0 := fld_of _ _ _ _ (by simp only [Nat.reducePow]; omega)
  have f4 : fld w 45 8 = 0 := fld_of _ _ _ _ (by simp only [Nat.reducePow]; omega)
  have f5 : fld w 0 11 = 0 := fld_of _ _ _ _ (by simp only [Nat.reducePow]; omega)
  have f6 : bfld w 17 3 = k := bfld_of _ _ _ (by simp only [Nat.reducePow]; omega)
  have f7 : bfld w 11 6 = sa := bfld_of _ _ _ (by simp only [Nat.reducePow]; omega)
  clear hW
  show decodeM w = _
  simp only [decodeM, f0, f1, f2, f3, f4, f5, f6, f7]
  exact checked_ok rfl hw

theorem lend (g : BitVec 3) (k : BitVec 4) : Statement (.lend g k) := by
  refine rt_of rfl fun hw w hW => ?_
  have := g.isLt; have := k.isLt
  simp only [mWord, mrunWord, Nat.reducePow] at *
  have f0 : bfld w 53 3 = g := bfld_of _ _ _ (by simp only [Nat.reducePow]; omega)
  have f1 : fld w 56 8 = 2 := fld_of _ _ _ _ (by simp only [Nat.reducePow]; omega)
  have f2 : fld w 21 24 = 0 := fld_of _ _ _ _ (by simp only [Nat.reducePow]; omega)
  have f3 : fld w 49 4 = 0 := fld_of _ _ _ _ (by simp only [Nat.reducePow]; omega)
  have f4 : fld w 0 21 = 0 := fld_of _ _ _ _ (by simp only [Nat.reducePow]; omega)
  have f5 : bfld w 45 4 = k := bfld_of _ _ _ (by simp only [Nat.reducePow]; omega)
  clear hW
  show decodeM w = _
  simp only [decodeM, f0, f1, f2, f3, f4, f5]
  exact checked_ok rfl hw

theorem recl (g : BitVec 3) (k : BitVec 4) : Statement (.recl g k) := by
  refine rt_of rfl fun hw w hW => ?_
  have := g.isLt; have := k.isLt
  simp only [mWord, mrunWord, Nat.reducePow] at *
  have f0 : bfld w 53 3 = g := bfld_of _ _ _ (by simp only [Nat.reducePow]; omega)
  have f1 : fld w 56 8 = 3 := fld_of _ _ _ _ (by simp only [Nat.reducePow]; omega)
  have f2 : fld w 21 24 = 0 := fld_of _ _ _ _ (by simp only [Nat.reducePow]; omega)
  have f3 : fld w 49 4 = 0 := fld_of _ _ _ _ (by simp only [Nat.reducePow]; omega)
  have f4 : fld w 0 21 = 0 := fld_of _ _ _ _ (by simp only [Nat.reducePow]; omega)
  have f5 : bfld w 45 4 = k := bfld_of _ _ _ (by simp only [Nat.reducePow]; omega)
  clear hW
  show decodeM w = _
  simp only [decodeM, f0, f1, f2, f3, f4, f5]
  exact checked_ok rfl hw

theorem mstrOpen (g : BitVec 3) (e : BitVec 3) (tile : BitVec 3) (save : BitVec 10) : Statement (.mstrOpen g e tile save) := by
  refine rt_of rfl fun hw w hW => ?_
  have := g.isLt; have := e.isLt; have := tile.isLt; have := save.isLt
  simp only [mWord, mrunWord, Nat.reducePow] at *
  have f0 : bfld w 53 3 = g := bfld_of _ _ _ (by simp only [Nat.reducePow]; omega)
  have f1 : fld w 56 8 = 4 := fld_of _ _ _ _ (by simp only [Nat.reducePow]; omega)
  have f2 : fld w 21 24 = 0 := fld_of _ _ _ _ (by simp only [Nat.reducePow]; omega)
  have f3 : fld w 48 5 = 0 := fld_of _ _ _ _ (by simp only [Nat.reducePow]; omega)
  have f4 : fld w 16 5 = 0 := fld_of _ _ _ _ (by simp only [Nat.reducePow]; omega)
  have f5 : bfld w 45 3 = e := bfld_of _ _ _ (by simp only [Nat.reducePow]; omega)
  have f6 : fld w 0 3 = 0 := fld_of _ _ _ _ (by simp only [Nat.reducePow]; omega)
  have f7 : bfld w 3 3 = tile := bfld_of _ _ _ (by simp only [Nat.reducePow]; omega)
  have f8 : bfld w 6 10 = save := bfld_of _ _ _ (by simp only [Nat.reducePow]; omega)
  clear hW
  show decodeM w = _
  simp only [decodeM, f0, f1, f2, f3, f4, f5, f6, f7, f8]
  exact checked_ok rfl hw

theorem mstrPause (g : BitVec 3) (e : BitVec 3) : Statement (.mstrPause g e) := by
  refine rt_of rfl fun hw w hW => ?_
  have := g.isLt; have := e.isLt
  simp only [mWord, mrunWord, Nat.reducePow] at *
  have f0 : bfld w 53 3 = g := bfld_of _ _ _ (by simp only [Nat.reducePow]; omega)
  have f1 : fld w 56 8 = 4 := fld_of _ _ _ _ (by simp only [Nat.reducePow]; omega)
  have f2 : fld w 21 24 = 0 := fld_of _ _ _ _ (by simp only [Nat.reducePow]; omega)
  have f3 : fld w 48 5 = 0 := fld_of _ _ _ _ (by simp only [Nat.reducePow]; omega)
  have f4 : fld w 16 5 = 0 := fld_of _ _ _ _ (by simp only [Nat.reducePow]; omega)
  have f5 : bfld w 45 3 = e := bfld_of _ _ _ (by simp only [Nat.reducePow]; omega)
  have f6 : fld w 0 3 = 1 := fld_of _ _ _ _ (by simp only [Nat.reducePow]; omega)
  have f7 : fld w 3 13 = 0 := fld_of _ _ _ _ (by simp only [Nat.reducePow]; omega)
  clear hW
  show decodeM w = _
  simp only [decodeM, f0, f1, f2, f3, f4, f5, f6, f7]
  exact checked_ok rfl hw

theorem mstrResume (g : BitVec 3) (e : BitVec 3) : Statement (.mstrResume g e) := by
  refine rt_of rfl fun hw w hW => ?_
  have := g.isLt; have := e.isLt
  simp only [mWord, mrunWord, Nat.reducePow] at *
  have f0 : bfld w 53 3 = g := bfld_of _ _ _ (by simp only [Nat.reducePow]; omega)
  have f1 : fld w 56 8 = 4 := fld_of _ _ _ _ (by simp only [Nat.reducePow]; omega)
  have f2 : fld w 21 24 = 0 := fld_of _ _ _ _ (by simp only [Nat.reducePow]; omega)
  have f3 : fld w 48 5 = 0 := fld_of _ _ _ _ (by simp only [Nat.reducePow]; omega)
  have f4 : fld w 16 5 = 0 := fld_of _ _ _ _ (by simp only [Nat.reducePow]; omega)
  have f5 : bfld w 45 3 = e := bfld_of _ _ _ (by simp only [Nat.reducePow]; omega)
  have f6 : fld w 0 3 = 2 := fld_of _ _ _ _ (by simp only [Nat.reducePow]; omega)
  have f7 : fld w 3 13 = 0 := fld_of _ _ _ _ (by simp only [Nat.reducePow]; omega)
  clear hW
  show decodeM w = _
  simp only [decodeM, f0, f1, f2, f3, f4, f5, f6, f7]
  exact checked_ok rfl hw

theorem mstrReset (g : BitVec 3) (e : BitVec 3) : Statement (.mstrReset g e) := by
  refine rt_of rfl fun hw w hW => ?_
  have := g.isLt; have := e.isLt
  simp only [mWord, mrunWord, Nat.reducePow] at *
  have f0 : bfld w 53 3 = g := bfld_of _ _ _ (by simp only [Nat.reducePow]; omega)
  have f1 : fld w 56 8 = 4 := fld_of _ _ _ _ (by simp only [Nat.reducePow]; omega)
  have f2 : fld w 21 24 = 0 := fld_of _ _ _ _ (by simp only [Nat.reducePow]; omega)
  have f3 : fld w 48 5 = 0 := fld_of _ _ _ _ (by simp only [Nat.reducePow]; omega)
  have f4 : fld w 16 5 = 0 := fld_of _ _ _ _ (by simp only [Nat.reducePow]; omega)
  have f5 : bfld w 45 3 = e := bfld_of _ _ _ (by simp only [Nat.reducePow]; omega)
  have f6 : fld w 0 3 = 3 := fld_of _ _ _ _ (by simp only [Nat.reducePow]; omega)
  have f7 : fld w 3 13 = 0 := fld_of _ _ _ _ (by simp only [Nat.reducePow]; omega)
  clear hW
  show decodeM w = _
  simp only [decodeM, f0, f1, f2, f3, f4, f5, f6, f7]
  exact checked_ok rfl hw

theorem mstrClose (g : BitVec 3) (e : BitVec 3) : Statement (.mstrClose g e) := by
  refine rt_of rfl fun hw w hW => ?_
  have := g.isLt; have := e.isLt
  simp only [mWord, mrunWord, Nat.reducePow] at *
  have f0 : bfld w 53 3 = g := bfld_of _ _ _ (by simp only [Nat.reducePow]; omega)
  have f1 : fld w 56 8 = 4 := fld_of _ _ _ _ (by simp only [Nat.reducePow]; omega)
  have f2 : fld w 21 24 = 0 := fld_of _ _ _ _ (by simp only [Nat.reducePow]; omega)
  have f3 : fld w 48 5 = 0 := fld_of _ _ _ _ (by simp only [Nat.reducePow]; omega)
  have f4 : fld w 16 5 = 0 := fld_of _ _ _ _ (by simp only [Nat.reducePow]; omega)
  have f5 : bfld w 45 3 = e := bfld_of _ _ _ (by simp only [Nat.reducePow]; omega)
  have f6 : fld w 0 3 = 4 := fld_of _ _ _ _ (by simp only [Nat.reducePow]; omega)
  have f7 : fld w 3 13 = 0 := fld_of _ _ _ _ (by simp only [Nat.reducePow]; omega)
  clear hW
  show decodeM w = _
  simp only [decodeM, f0, f1, f2, f3, f4, f5, f6, f7]
  exact checked_ok rfl hw

theorem feeda (m : BitVec 3) (lb : Bool) (k : BitVec 4) : Statement (.feeda m lb k) := by
  refine rt_of rfl fun hw w hW => ?_
  have := m.isLt; have := b2n_le lb; have := k.isLt
  simp only [Nat.reducePow] at *
  have f0 : fld w 28 4 = 0 := fld_of _ _ _ _ (by simp only [Nat.reducePow]; omega)
  have f1 : bfld w 25 3 = m := bfld_of _ _ _ (by simp only [Nat.reducePow]; omega)
  have f2 : fld w 0 20 = 0 := fld_of _ _ _ _ (by simp only [Nat.reducePow]; omega)
  have f3 : bit w 24 = lb := bit_of _ _ _ (by simp only [Nat.reducePow, b2n_true, b2n_false]; omega)
  have f4 : bfld w 20 4 = k := bfld_of _ _ _ (by simp only [Nat.reducePow]; omega)
  clear hW
  show decodeMicro w = _
  simp only [decodeMicro, f0, f1, f2, f3, f4]
  exact checked_ok rfl hw

theorem feedb (m : BitVec 3) (lb : Bool) (k : BitVec 4) : Statement (.feedb m lb k) := by
  refine rt_of rfl fun hw w hW => ?_
  have := m.isLt; have := b2n_le lb; have := k.isLt
  simp only [Nat.reducePow] at *
  have f0 : fld w 28 4 = 1 := fld_of _ _ _ _ (by simp only [Nat.reducePow]; omega)
  have f1 : bfld w 25 3 = m := bfld_of _ _ _ (by simp only [Nat.reducePow]; omega)
  have f2 : fld w 0 20 = 0 := fld_of _ _ _ _ (by simp only [Nat.reducePow]; omega)
  have f3 : bit w 24 = lb := bit_of _ _ _ (by simp only [Nat.reducePow, b2n_true, b2n_false]; omega)
  have f4 : bfld w 20 4 = k := bfld_of _ _ _ (by simp only [Nat.reducePow]; omega)
  clear hW
  show decodeMicro w = _
  simp only [decodeMicro, f0, f1, f2, f3, f4]
  exact checked_ok rfl hw

theorem mac (t : BitVec 3) : Statement (.mac t) := by
  refine rt_of rfl fun hw w hW => ?_
  have := t.isLt
  simp only [Nat.reducePow] at *
  have f0 : fld w 28 4 = 2 := fld_of _ _ _ _ (by simp only [Nat.reducePow]; omega)
  have f1 : bfld w 25 3 = t := bfld_of _ _ _ (by simp only [Nat.reducePow]; omega)
  have f2 : fld w 0 25 = 0 := fld_of _ _ _ _ (by simp only [Nat.reducePow]; omega)
  clear hW
  show decodeMicro w = _
  simp only [decodeMicro, f0, f1, f2]
  exact checked_ok rfl hw

theorem chain (t : BitVec 3) (last : Bool) : Statement (.chain t last) := by
  refine rt_of rfl fun hw w hW => ?_
  have := t.isLt; have := b2n_le last
  simp only [Nat.reducePow] at *
  have f0 : fld w 28 4 = 3 := fld_of _ _ _ _ (by simp only [Nat.reducePow]; omega)
  have f1 : bfld w 25 3 = t := bfld_of _ _ _ (by simp only [Nat.reducePow]; omega)
  have f2 : fld w 0 24 = 0 := fld_of _ _ _ _ (by simp only [Nat.reducePow]; omega)
  have f3 : bit w 24 = last := bit_of _ _ _ (by simp only [Nat.reducePow, b2n_true, b2n_false]; omega)
  clear hW
  show decodeMicro w = _
  simp only [decodeMicro, f0, f1, f2, f3]
  exact checked_ok rfl hw

theorem aclr (t : BitVec 3) : Statement (.aclr t) := by
  refine rt_of rfl fun hw w hW => ?_
  have := t.isLt
  simp only [Nat.reducePow] at *
  have f0 : fld w 28 4 = 4 := fld_of _ _ _ _ (by simp only [Nat.reducePow]; omega)
  have f1 : bfld w 25 3 = t := bfld_of _ _ _ (by simp only [Nat.reducePow]; omega)
  have f2 : fld w 0 25 = 0 := fld_of _ _ _ _ (by simp only [Nat.reducePow]; omega)
  clear hW
  show decodeMicro w = _
  simp only [decodeMicro, f0, f1, f2]
  exact checked_ok rfl hw

theorem emit (t g : BitVec 3) (st : Bool) (m : BitVec 3) : Statement (.emit t g st m) := by
  refine rt_of rfl fun hw w hW => ?_
  have := t.isLt; have := g.isLt; have := b2n_le st; have := m.isLt
  simp only [Nat.reducePow] at *
  have f0 : fld w 28 4 = 5 := fld_of _ _ _ _ (by simp only [Nat.reducePow]; omega)
  have f1 : bfld w 25 3 = t := bfld_of _ _ _ (by simp only [Nat.reducePow]; omega)
  have f2 : fld w 0 18 = 0 := fld_of _ _ _ _ (by simp only [Nat.reducePow]; omega)
  have f3 : bfld w 22 3 = g := bfld_of _ _ _ (by simp only [Nat.reducePow]; omega)
  have f4 : bit w 21 = st := bit_of _ _ _ (by simp only [Nat.reducePow, b2n_true, b2n_false]; omega)
  have f5 : bfld w 18 3 = m := bfld_of _ _ _ (by simp only [Nat.reducePow]; omega)
  clear hW
  show decodeMicro w = _
  simp only [decodeMicro, f0, f1, f2, f3, f4, f5]
  exact checked_ok rfl hw

theorem scale (a b : Bool) : Statement (.scale a b) := by
  refine rt_of rfl fun hw w hW => ?_
  have := b2n_le a; have := b2n_le b
  simp only [Nat.reducePow] at *
  have f0 : fld w 28 4 = 6 := fld_of _ _ _ _ (by simp only [Nat.reducePow]; omega)
  have f1 : fld w 0 26 = 0 := fld_of _ _ _ _ (by simp only [Nat.reducePow]; omega)
  have f2 : bit w 27 = a := bit_of _ _ _ (by simp only [Nat.reducePow, b2n_true, b2n_false]; omega)
  have f3 : bit w 26 = b := bit_of _ _ _ (by simp only [Nat.reducePow, b2n_true, b2n_false]; omega)
  clear hW
  show decodeMicro w = _
  simp only [decodeMicro, f0, f1, f2, f3]
  exact checked_ok rfl hw

theorem bias (v : BitVec 8) : Statement (.bias v) := by
  refine rt_of rfl fun hw w hW => ?_
  have := v.isLt
  simp only [Nat.reducePow] at *
  have f0 : fld w 28 4 = 7 := fld_of _ _ _ _ (by simp only [Nat.reducePow]; omega)
  have f1 : fld w 0 20 = 0 := fld_of _ _ _ _ (by simp only [Nat.reducePow]; omega)
  have f2 : bfld w 20 8 = v := bfld_of _ _ _ (by simp only [Nat.reducePow]; omega)
  clear hW
  show decodeMicro w = _
  simp only [decodeMicro, f0, f1, f2]
  exact checked_ok rfl hw

theorem adv (mask : BitVec 8) : Statement (.adv mask) := by
  refine rt_of rfl fun hw w hW => ?_
  have := mask.isLt
  simp only [Nat.reducePow] at *
  have f0 : fld w 28 4 = 8 := fld_of _ _ _ _ (by simp only [Nat.reducePow]; omega)
  have f1 : fld w 0 20 = 0 := fld_of _ _ _ _ (by simp only [Nat.reducePow]; omega)
  have f2 : bfld w 20 8 = mask := bfld_of _ _ _ (by simp only [Nat.reducePow]; omega)
  clear hW
  show decodeMicro w = _
  simp only [decodeMicro, f0, f1, f2]
  exact checked_ok rfl hw

theorem loopk (n : BitVec 14) (len : BitVec 11) : Statement (.loopk n len) := by
  refine rt_of rfl fun hw w hW => ?_
  have := n.isLt; have := len.isLt
  simp only [Nat.reducePow] at *
  have f0 : fld w 28 4 = 9 := fld_of _ _ _ _ (by simp only [Nat.reducePow]; omega)
  have f1 : bit w 27 = false := bit_of _ _ _ (by simp only [Nat.reducePow, b2n_true, b2n_false]; omega)
  have f2 : fld w 25 2 = 0 := fld_of _ _ _ _ (by simp only [Nat.reducePow]; omega)
  have f3 : bfld w 11 14 = n := bfld_of _ _ _ (by simp only [Nat.reducePow]; omega)
  have f4 : bfld w 0 11 = len := bfld_of _ _ _ (by simp only [Nat.reducePow]; omega)
  clear hW
  show decodeMicro w = _
  simp only [decodeMicro, f0, f1, f2, f3, f4]
  exact checked_ok rfl hw

theorem loopkMh (f : BitVec 2) (len : BitVec 11) : Statement (.loopkMh f len) := by
  refine rt_of rfl fun hw w hW => ?_
  have := f.isLt; have := len.isLt
  simp only [Nat.reducePow] at *
  have f0 : fld w 28 4 = 9 := fld_of _ _ _ _ (by simp only [Nat.reducePow]; omega)
  have f1 : bit w 27 = true := bit_of _ _ _ (by simp only [Nat.reducePow, b2n_true, b2n_false]; omega)
  have f2 : fld w 11 14 = 0 := fld_of _ _ _ _ (by simp only [Nat.reducePow]; omega)
  have f3 : bfld w 25 2 = f := bfld_of _ _ _ (by simp only [Nat.reducePow]; omega)
  have f4 : bfld w 0 11 = len := bfld_of _ _ _ (by simp only [Nat.reducePow]; omega)
  clear hW
  show decodeMicro w = _
  simp only [decodeMicro, f0, f1, f2, f3, f4]
  exact checked_ok rfl hw

theorem stream (e u : BitVec 3) (cl : Bool) : Statement (.stream e u cl) := by
  refine rt_of rfl fun hw w hW => ?_
  have := e.isLt; have := u.isLt; have := b2n_le cl
  simp only [Nat.reducePow] at *
  have f0 : fld w 28 4 = 10 := fld_of _ _ _ _ (by simp only [Nat.reducePow]; omega)
  have f1 : bfld w 25 3 = e := bfld_of _ _ _ (by simp only [Nat.reducePow]; omega)
  have f2 : fld w 0 21 = 0 := fld_of _ _ _ _ (by simp only [Nat.reducePow]; omega)
  have f3 : bfld w 22 3 = u := bfld_of _ _ _ (by simp only [Nat.reducePow]; omega)
  have f4 : bit w 21 = cl := bit_of _ _ _ (by simp only [Nat.reducePow, b2n_true, b2n_false]; omega)
  clear hW
  show decodeMicro w = _
  simp only [decodeMicro, f0, f1, f2, f3, f4]
  exact checked_ok rfl hw

theorem endR (m : BitVec 3) (nb : Bool) : Statement (.endR m nb) := by
  refine rt_of rfl fun hw w hW => ?_
  have := m.isLt; have := b2n_le nb
  simp only [Nat.reducePow] at *
  have f0 : fld w 28 4 = 11 := fld_of _ _ _ _ (by simp only [Nat.reducePow]; omega)
  have f1 : bfld w 25 3 = m := bfld_of _ _ _ (by simp only [Nat.reducePow]; omega)
  have f2 : fld w 0 24 = 0 := fld_of _ _ _ _ (by simp only [Nat.reducePow]; omega)
  have f3 : bit w 24 = nb := bit_of _ _ _ (by simp only [Nat.reducePow, b2n_true, b2n_false]; omega)
  clear hW
  show decodeMicro w = _
  simp only [decodeMicro, f0, f1, f2, f3]
  exact checked_ok rfl hw

theorem vld (f : LF) : Statement (.vld f) := by
  exact rt_of rfl fun hw w hW => decodeL_word 0x00 .vld f w hW (by decide) rfl hw

theorem vldg (f : LF) : Statement (.vldg f) := by
  exact rt_of rfl fun hw w hW => decodeL_word 0x03 .vldg f w hW (by decide) rfl hw

theorem sld (f : LF) : Statement (.sld f) := by
  exact rt_of rfl fun hw w hW => decodeL_word 0x04 .sld f w hW (by decide) rfl hw

theorem mld (f : LF) : Statement (.mld f) := by
  exact rt_of rfl fun hw w hW => decodeL_word 0x05 .mld f w hW (by decide) rfl hw

theorem vldt (f : LF) : Statement (.vldt f) := by
  exact rt_of rfl fun hw w hW => decodeL_word 0x01 .vldt f w hW (by decide) rfl hw

theorem vldb (f : LF) : Statement (.vldb f) := by
  exact rt_of rfl fun hw w hW => decodeL_word 0x02 .vldb f w hW (by decide) rfl hw

theorem vst (f : LF) : Statement (.vst f) := by
  exact rt_of rfl fun hw w hW => decodeS_word 0x00 .vst f w hW (by decide) rfl hw

theorem sst (f : LF) : Statement (.sst f) := by
  exact rt_of rfl fun hw w hW => decodeS_word 0x02 .sst f w hW (by decide) rfl hw

theorem mst (f : LF) : Statement (.mst f) := by
  exact rt_of rfl fun hw w hW => decodeS_word 0x03 .mst f w hW (by decide) rfl hw

theorem vstx (f : LF) : Statement (.vstx f) := by
  exact rt_of rfl fun hw w hW => decodeS_word 0x01 .vstx f w hW (by decide) rfl hw

theorem putq (g : BitVec 3) (vs : BitVec 11) (ben ctx : BitVec 2) (q : BitVec 4) (wait : BitVec 9) : Statement (.putq g vs ben ctx q wait) := by
  refine rt_of rfl fun hw w hW => ?_
  have := g.isLt; have := vs.isLt; have := ben.isLt; have := ctx.isLt; have := q.isLt; have := wait.isLt
  simp only [Nat.reducePow] at *
  have f0 : fld w 56 8 = 4 := fld_of _ _ _ _ (by simp only [Nat.reducePow]; omega)
  have f1 : bfld w 53 3 = g := bfld_of _ _ _ (by simp only [Nat.reducePow]; omega)
  have f2 : fld w 35 7 = 0 := fld_of _ _ _ _ (by simp only [Nat.reducePow]; omega)
  have f3 : fld w 26 5 = 0 := fld_of _ _ _ _ (by simp only [Nat.reducePow]; omega)
  have f4 : fld w 13 8 = 0 := fld_of _ _ _ _ (by simp only [Nat.reducePow]; omega)
  have f5 : fld w 0 4 = 0 := fld_of _ _ _ _ (by simp only [Nat.reducePow]; omega)
  have f6 : bit w 25 = true := bit_of _ _ _ (by simp only [Nat.reducePow, b2n_true, b2n_false]; omega)
  have f7 : bfld w 42 11 = vs := bfld_of _ _ _ (by simp only [Nat.reducePow]; omega)
  have f8 : bfld w 33 2 = ben := bfld_of _ _ _ (by simp only [Nat.reducePow]; omega)
  have f9 : bfld w 31 2 = ctx := bfld_of _ _ _ (by simp only [Nat.reducePow]; omega)
  have f10 : bfld w 21 4 = q := bfld_of _ _ _ (by simp only [Nat.reducePow]; omega)
  have f11 : bfld w 4 9 = wait := bfld_of _ _ _ (by simp only [Nat.reducePow]; omega)
  clear hW
  show decodeS w = _
  simp only [decodeS, f0, f1, f2, f3, f4, f5, f6, f7, f8, f9, f10, f11]
  exact checked_ok rfl hw

theorem cpyLd (f : CF) (mc : Bool) (spa : Spa) : Statement (.cpyLd f mc spa) := by
  refine rt_of rfl fun hw w hW => ?_
  have := b2n_le mc
  obtain ⟨hc, hs, ho, hx⟩ := cSpa_fields 0x00 f (b2n mc * 2) spa w hW (by decide) (by omega)
  clear hW
  simp only [Nat.reducePow] at *
  have f0 : fld w 26 4 = (b2n mc * 2) := fld_of _ _ _ _ (by simp only [Nat.reducePow]; omega)
  have f1 : bit w 26 = false := bit_of _ _ _ (by simp only [Nat.reducePow, b2n_true, b2n_false]; omega)
  have f2 : bit w 27 = mc := bit_of _ _ _ (by simp only [Nat.reducePow, b2n_true, b2n_false]; omega)
  show decodeC w = _
  simp only [decodeC, ho, hc, hs, f0, f1, f2]
  exact cCheck_ok (by rw [hc]) (by cases mc <;> rfl) hw

theorem cpySt (f : CF) (spa : Spa) : Statement (.cpySt f spa) := by
  refine rt_of rfl fun hw w hW => ?_
  obtain ⟨hc, hs, ho, hx⟩ := cSpa_fields 0x00 f 1 spa w hW (by decide) (by omega)
  clear hW
  simp only [Nat.reducePow] at *
  have f0 : fld w 26 4 = 1 := fld_of _ _ _ _ (by simp only [Nat.reducePow]; omega)
  have f1 : bit w 26 = true := bit_of _ _ _ (by simp only [Nat.reducePow, b2n_true, b2n_false]; omega)
  show decodeC w = _
  simp only [decodeC, ho, hc, hs, f0, f1]
  exact cCheck_ok (by rw [hc]) rfl hw

theorem cpytLd (f : CF) (spa : Spa) : Statement (.cpytLd f spa) := by
  refine rt_of rfl fun hw w hW => ?_
  obtain ⟨hc, hs, ho, hx⟩ := cSpa_fields 0x01 f 0 spa w hW (by decide) (by omega)
  clear hW
  simp only [Nat.reducePow] at *
  have f0 : fld w 26 4 = 0 := fld_of _ _ _ _ (by simp only [Nat.reducePow]; omega)
  have f1 : bit w 26 = false := bit_of _ _ _ (by simp only [Nat.reducePow, b2n_true, b2n_false]; omega)
  show decodeC w = _
  simp only [decodeC, ho, hc, hs, f0, f1]
  exact cCheck_ok (by rw [hc]) rfl hw

theorem cpytSt (f : CF) (spa : Spa) : Statement (.cpytSt f spa) := by
  refine rt_of rfl fun hw w hW => ?_
  obtain ⟨hc, hs, ho, hx⟩ := cSpa_fields 0x01 f 1 spa w hW (by decide) (by omega)
  clear hW
  simp only [Nat.reducePow] at *
  have f0 : fld w 26 4 = 1 := fld_of _ _ _ _ (by simp only [Nat.reducePow]; omega)
  have f1 : bit w 26 = true := bit_of _ _ _ (by simp only [Nat.reducePow, b2n_true, b2n_false]; omega)
  show decodeC w = _
  simp only [decodeC, ho, hc, hs, f0, f1]
  exact cCheck_ok (by rw [hc]) rfl hw

theorem cgath (f : CF) (ib : BitVec 4) (spa : Spa) : Statement (.cgath f ib spa) := by
  refine rt_of rfl fun hw w hW => ?_
  have := ib.isLt
  obtain ⟨hc, hs, ho, hx⟩ := cSpa_fields 0x03 f ib.toNat spa w hW (by decide) (by omega)
  clear hW
  simp only [Nat.reducePow] at *
  have f0 : fld w 26 4 = ib.toNat := fld_of _ _ _ _ (by simp only [Nat.reducePow]; omega)
  have f1 : bfld w 26 4 = ib := bfld_of _ _ _ (by simp only [Nat.reducePow]; omega)
  show decodeC w = _
  simp only [decodeC, ho, hc, hs, f0, f1]
  exact cCheck_ok (by rw [hc]) rfl hw

theorem cpair (f : CF) (spa : Spa) : Statement (.cpair f spa) := by
  refine rt_of rfl fun hw w hW => ?_
  obtain ⟨hc, hs, ho, hx⟩ := cSpa_fields 0x02 f 0 spa w hW (by decide) (by omega)
  clear hW
  simp only [Nat.reducePow] at *
  have f0 : fld w 26 4 = 0 := fld_of _ _ _ _ (by simp only [Nat.reducePow]; omega)
  show decodeC w = _
  simp only [decodeC, ho, hc, hs, f0]
  exact cCheck_ok (by rw [hc]) rfl hw

theorem cmig (f : CF) (host : Bool) (dl : BitVec 26) : Statement (.cmig f host dl) := by
  refine rt_of rfl fun hw w hW => ?_
  have := b2n_le host; have := dl.isLt
  obtain ⟨hc, ho, hl, hq, hr⟩ := cWord_fields 0x04 f (b2n host) dl.toNat w hW (by decide) (by omega) (by omega)
  clear hW
  simp only [fld, Nat.reducePow, b2n_true, b2n_false] at hl
  simp only [Nat.reducePow] at *
  have f0 : bit w 26 = host := bit_of _ _ _ (by simp only [Nat.reducePow, b2n_true, b2n_false]; omega)
  have f1 : fld w 27 3 = 0 := fld_of _ _ _ _ (by simp only [Nat.reducePow]; omega)
  have f2 : bfld w 0 26 = dl := bfld_of _ _ _ (by simp only [Nat.reducePow]; omega)
  show decodeC w = _
  simp only [decodeC, ho, hc, f0, f1, f2, hq, hr]
  obtain ⟨hz, -⟩ := Instr.wf_parts hw
  have hn : f.aq.isSome = false ∧ f.rl.isSome = false := by
    simp only [Instr.zeroOk, Bool.and_eq_true, beq_iff_eq] at hz
    simp [hz.1.1.1.2, hz.1.1.2]
  rw [hn.1, hn.2]
  exact cCheck_ok (by rw [hc]) rfl hw

theorem nmcopy (f : CF) (dpitch : BitVec 25) : Statement (.nmcopy f dpitch) := by
  refine rt_of rfl fun hw w hW => ?_
  have := dpitch.isLt
  obtain ⟨hc, ho, hl, hq, hr⟩ := cWord_fields 0x10 f 0 dpitch.toNat w hW (by decide) (by omega) (by omega)
  clear hW
  simp only [fld, Nat.reducePow, b2n_true, b2n_false] at hl
  simp only [Nat.reducePow] at *
  have f0 : fld w 26 4 = 0 := fld_of _ _ _ _ (by simp only [Nat.reducePow]; omega)
  have f1 : bit w 25 = false := bit_of _ _ _ (by simp only [Nat.reducePow, b2n_true, b2n_false]; omega)
  have f2 : bfld w 0 25 = dpitch := bfld_of _ _ _ (by simp only [Nat.reducePow]; omega)
  show decodeC w = _
  simp only [decodeC, ho, hc, f0, f1, f2]
  exact cCheck_ok (by rw [hc]) rfl hw

theorem nmdot (f : CF) (spa : Spa) : Statement (.nmdot f spa) := by
  refine rt_of rfl fun hw w hW => ?_
  obtain ⟨hc, hs, ho, hx⟩ := cSpa_fields 0x11 f 0 spa w hW (by decide) (by omega)
  clear hW
  simp only [Nat.reducePow] at *
  have f0 : fld w 26 4 = 0 := fld_of _ _ _ _ (by simp only [Nat.reducePow]; omega)
  show decodeC w = _
  simp only [decodeC, ho, hc, hs, f0]
  exact cCheck_ok (by rw [hc]) rfl hw

theorem fsamp (f : CF) (ty : ETy) (spa : Spa) : Statement (.fsamp f ty spa) := by
  refine rt_of rfl fun hw w hW => ?_
  have := ty.code_lt
  obtain ⟨hc, hs, ho, hx⟩ := cSpa_fields 0x20 f ty.code spa w hW (by decide) (by omega)
  clear hW
  simp only [Nat.reducePow] at *
  have f0 : fld w 26 4 = ty.code := fld_of _ _ _ _ (by simp only [Nat.reducePow]; omega)
  show decodeC w = _
  simp only [decodeC, ho, hc, hs, f0, ETy.ofCode_code, Option.getD_some]
  have hd : decide (ty.code < 15) = true := decide_eq_true this
  rw [hd]
  exact cCheck_ok (by rw [hc]) rfl hw

theorem ftap (f : CF) (spa : Spa) : Statement (.ftap f spa) := by
  refine rt_of rfl fun hw w hW => ?_
  obtain ⟨hc, hs, ho, hx⟩ := cSpa_fields 0x21 f 0 spa w hW (by decide) (by omega)
  clear hW
  simp only [Nat.reducePow] at *
  have f0 : fld w 26 4 = 0 := fld_of _ _ _ _ (by simp only [Nat.reducePow]; omega)
  show decodeC w = _
  simp only [decodeC, ho, hc, hs, f0]
  exact cCheck_ok (by rw [hc]) rfl hw

theorem ftick (f : CF) (n1 : BitVec 12) : Statement (.ftick f n1) := by
  refine rt_of rfl fun hw w hW => ?_
  have := n1.isLt
  obtain ⟨hc, ho, hl, hq, hr⟩ := cWord_fields 0x22 f 0 n1.toNat w hW (by decide) (by omega) (by omega)
  clear hW
  simp only [fld, Nat.reducePow, b2n_true, b2n_false] at hl
  simp only [Nat.reducePow] at *
  have f0 : bit w 26 = false := bit_of _ _ _ (by simp only [Nat.reducePow, b2n_true, b2n_false]; omega)
  have f1 : fld w 27 3 = 0 := fld_of _ _ _ _ (by simp only [Nat.reducePow]; omega)
  have f2 : fld w 12 14 = 0 := fld_of _ _ _ _ (by simp only [Nat.reducePow]; omega)
  have f3 : bfld w 0 12 = n1 := bfld_of _ _ _ (by simp only [Nat.reducePow]; omega)
  show decodeC w = _
  simp only [decodeC, ho, hc, f0, f1, f2, f3]
  exact cCheck_ok (by rw [hc]) rfl hw

theorem ftickG (f : CF) (gn1 : BitVec 3) (n1 : BitVec 12) : Statement (.ftickG f gn1 n1) := by
  refine rt_of rfl fun hw w hW => ?_
  have := n1.isLt; have := gn1.isLt
  obtain ⟨hc, ho, hl, hq, hr⟩ := cWord_fields 0x22 f 1 (gn1.toNat * 2 ^ 12 + n1.toNat) w hW (by decide) (by omega) (by omega)
  clear hW
  simp only [fld, Nat.reducePow, b2n_true, b2n_false] at hl
  simp only [Nat.reducePow] at *
  have f0 : bit w 26 = true := bit_of _ _ _ (by simp only [Nat.reducePow, b2n_true, b2n_false]; omega)
  have f1 : fld w 27 3 = 0 := fld_of _ _ _ _ (by simp only [Nat.reducePow]; omega)
  have f2 : fld w 15 11 = 0 := fld_of _ _ _ _ (by simp only [Nat.reducePow]; omega)
  have f3 : bfld w 12 3 = gn1 := bfld_of _ _ _ (by simp only [Nat.reducePow]; omega)
  have f4 : bfld w 0 12 = n1 := bfld_of _ _ _ (by simp only [Nat.reducePow]; omega)
  show decodeC w = _
  simp only [decodeC, ho, hc, f0, f1, f2, f3, f4]
  exact cCheck_ok (by rw [hc]) rfl hw

theorem freset (f : CF) : Statement (.freset f) := by
  refine rt_of rfl fun hw w hW => ?_
  obtain ⟨hc, ho, hl, hq, hr⟩ := cWord_fields 0x23 f 0 0 w hW (by decide) (by omega) (by omega)
  clear hW
  simp only [fld, Nat.reducePow, b2n_true, b2n_false] at hl
  have f0 : bit w 26 = false := bit_of _ _ _ (by simp only [Nat.reducePow, b2n_true, b2n_false]; omega)
  have f1 : fld w 27 3 = 0 := fld_of _ _ _ _ (by simp only [Nat.reducePow]; omega)
  have f2 : fld w 0 26 = 0 := fld_of _ _ _ _ (by simp only [Nat.reducePow]; omega)
  show decodeC w = _
  simp only [decodeC, ho, hc, f0, f1, f2]
  exact cCheck_ok (by rw [hc]) rfl hw

theorem fresetIn (f : CF) : Statement (.fresetIn f) := by
  refine rt_of rfl fun hw w hW => ?_
  obtain ⟨hc, ho, hl, hq, hr⟩ := cWord_fields 0x23 f 1 0 w hW (by decide) (by omega) (by omega)
  clear hW
  simp only [fld, Nat.reducePow, b2n_true, b2n_false] at hl
  have f0 : bit w 26 = true := bit_of _ _ _ (by simp only [Nat.reducePow, b2n_true, b2n_false]; omega)
  have f1 : fld w 27 3 = 0 := fld_of _ _ _ _ (by simp only [Nat.reducePow]; omega)
  have f2 : fld w 0 26 = 0 := fld_of _ _ _ _ (by simp only [Nat.reducePow]; omega)
  show decodeC w = _
  simp only [decodeC, ho, hc, f0, f1, f2]
  exact cCheck_ok (by rw [hc]) rfl hw

theorem collRs (f : CF) (spa : Spa) : Statement (.collRs f spa) := by
  refine rt_of rfl fun hw w hW => ?_
  obtain ⟨hc, hs, ho, hx⟩ := cSpa_fields 0x28 f 0 spa w hW (by decide) (by omega)
  clear hW
  simp only [Nat.reducePow] at *
  have f0 : fld w 26 4 = 0 := fld_of _ _ _ _ (by simp only [Nat.reducePow]; omega)
  have f1 : fld w 26 2 = 0 := fld_of _ _ _ _ (by simp only [Nat.reducePow]; omega)
  have f2 : fld w 28 2 = 0 := fld_of _ _ _ _ (by simp only [Nat.reducePow]; omega)
  show decodeC w = _
  simp only [decodeC, ho, hc, hs, f0, f1, f2]
  exact cCheck_ok (by rw [hc]) rfl hw

theorem collAg (f : CF) (spa : Spa) : Statement (.collAg f spa) := by
  refine rt_of rfl fun hw w hW => ?_
  obtain ⟨hc, hs, ho, hx⟩ := cSpa_fields 0x28 f 1 spa w hW (by decide) (by omega)
  clear hW
  simp only [Nat.reducePow] at *
  have f0 : fld w 26 4 = 1 := fld_of _ _ _ _ (by simp only [Nat.reducePow]; omega)
  have f1 : fld w 26 2 = 1 := fld_of _ _ _ _ (by simp only [Nat.reducePow]; omega)
  have f2 : fld w 28 2 = 0 := fld_of _ _ _ _ (by simp only [Nat.reducePow]; omega)
  show decodeC w = _
  simp only [decodeC, ho, hc, hs, f0, f1, f2]
  exact cCheck_ok (by rw [hc]) rfl hw

theorem collAr (f : CF) (spa : Spa) : Statement (.collAr f spa) := by
  refine rt_of rfl fun hw w hW => ?_
  obtain ⟨hc, hs, ho, hx⟩ := cSpa_fields 0x28 f 2 spa w hW (by decide) (by omega)
  clear hW
  simp only [Nat.reducePow] at *
  have f0 : fld w 26 4 = 2 := fld_of _ _ _ _ (by simp only [Nat.reducePow]; omega)
  have f1 : fld w 26 2 = 2 := fld_of _ _ _ _ (by simp only [Nat.reducePow]; omega)
  have f2 : fld w 28 2 = 0 := fld_of _ _ _ _ (by simp only [Nat.reducePow]; omega)
  show decodeC w = _
  simp only [decodeC, ho, hc, hs, f0, f1, f2]
  exact cCheck_ok (by rw [hc]) rfl hw

theorem fence (g : BitVec 3) (sc : Scope) (ord : Ord) : Statement (.fence g sc ord) := by
  refine rt_of rfl fun hw w hW => ?_
  have := g.isLt; have := sc.code_lt; have := ord.code_lt
  simp only [yWord, Nat.reducePow] at *
  have f0 : fld w 56 8 = 0 := fld_of _ _ _ _ (by simp only [Nat.reducePow]; omega)
  have f1 : bfld w 53 3 = g := bfld_of _ _ _ (by simp only [Nat.reducePow]; omega)
  have f2 : fld w 47 6 = 0 := fld_of _ _ _ _ (by simp only [Nat.reducePow]; omega)
  have f3 : fld w 41 6 = 0 := fld_of _ _ _ _ (by simp only [Nat.reducePow]; omega)
  have f4 : fld w 35 6 = 0 := fld_of _ _ _ _ (by simp only [Nat.reducePow]; omega)
  have f5 : fld w 32 3 = sc.code := fld_of _ _ _ _ (by simp only [Nat.reducePow]; omega)
  have f6 : fld w 30 2 = ord.code := fld_of _ _ _ _ (by simp only [Nat.reducePow]; omega)
  have f7 : fld w 0 30 = 0 := fld_of _ _ _ _ (by simp only [Nat.reducePow]; omega)
  clear hW
  show decodeY w = _
  simp only [decodeY, f0, f1, f2, f3, f4, f5, f6, f7, Scope.ofCode_code, Ord.ofCode_code, Option.bind_some, Option.map_some]
  exact checked_ok rfl hw

theorem qadvH (g : BitVec 3) (q : BitVec 4) (k : QCnt) : Statement (.qadvH g q k) := by
  cases k with
  | imm k =>
    refine rt_of rfl fun hw w hW => ?_
    have := g.isLt; have := q.isLt; have := k.isLt
    simp only [qadvWord, yWord, Nat.reducePow] at *
    have f0 : fld w 56 8 = 1 := fld_of _ _ _ _ (by simp only [Nat.reducePow]; omega)
    have f1 : bfld w 53 3 = g := bfld_of _ _ _ (by simp only [Nat.reducePow]; omega)
    have f2 : fld w 47 6 = 0 := fld_of _ _ _ _ (by simp only [Nat.reducePow]; omega)
    have f3 : fld w 41 6 = 0 := fld_of _ _ _ _ (by simp only [Nat.reducePow]; omega)
    have f4 : fld w 32 3 = 0 := fld_of _ _ _ _ (by simp only [Nat.reducePow]; omega)
    have f5 : fld w 30 2 = 0 := fld_of _ _ _ _ (by simp only [Nat.reducePow]; omega)
    have f6 : fld w 15 15 = 0 := fld_of _ _ _ _ (by simp only [Nat.reducePow]; omega)
    have f7 : bfld w 0 4 = q := bfld_of _ _ _ (by simp only [Nat.reducePow]; omega)
    have f8 : bit w 4 = false := bit_of _ _ _ (by simp only [Nat.reducePow, b2n_true, b2n_false]; omega)
    have f9 : bit w 14 = false := bit_of _ _ _ (by simp only [Nat.reducePow, b2n_true, b2n_false]; omega)
    have f10 : bfld w 5 9 = k := bfld_of _ _ _ (by simp only [Nat.reducePow]; omega)
    have f11 : fld w 35 6 = 0 := fld_of _ _ _ _ (by simp only [Nat.reducePow]; omega)
    clear hW
    show decodeY w = _
    simp only [decodeY, f0, f1, f2, f3, f4, f5, f6, f7, f8, f9, f10, f11]
    exact checked_ok rfl hw
  | reg r =>
    refine rt_of rfl fun hw w hW => ?_
    have := g.isLt; have := q.isLt; have := r.isLt
    simp only [qadvWord, yWord, Nat.reducePow] at *
    have f0 : fld w 56 8 = 1 := fld_of _ _ _ _ (by simp only [Nat.reducePow]; omega)
    have f1 : bfld w 53 3 = g := bfld_of _ _ _ (by simp only [Nat.reducePow]; omega)
    have f2 : fld w 47 6 = 0 := fld_of _ _ _ _ (by simp only [Nat.reducePow]; omega)
    have f3 : fld w 41 6 = 0 := fld_of _ _ _ _ (by simp only [Nat.reducePow]; omega)
    have f4 : fld w 32 3 = 0 := fld_of _ _ _ _ (by simp only [Nat.reducePow]; omega)
    have f5 : fld w 30 2 = 0 := fld_of _ _ _ _ (by simp only [Nat.reducePow]; omega)
    have f6 : fld w 15 15 = 0 := fld_of _ _ _ _ (by simp only [Nat.reducePow]; omega)
    have f7 : bfld w 0 4 = q := bfld_of _ _ _ (by simp only [Nat.reducePow]; omega)
    have f8 : bit w 4 = false := bit_of _ _ _ (by simp only [Nat.reducePow, b2n_true, b2n_false]; omega)
    have f9 : bit w 14 = true := bit_of _ _ _ (by simp only [Nat.reducePow, b2n_true, b2n_false]; omega)
    have f10 : fld w 5 9 = 0 := fld_of _ _ _ _ (by simp only [Nat.reducePow]; omega)
    have f11 : bfld w 35 6 = r := bfld_of _ _ _ (by simp only [Nat.reducePow]; omega)
    clear hW
    show decodeY w = _
    simp only [decodeY, f0, f1, f2, f3, f4, f5, f6, f7, f8, f9, f10, f11]
    exact checked_ok rfl hw

theorem qadvT (g : BitVec 3) (q : BitVec 4) (k : QCnt) : Statement (.qadvT g q k) := by
  cases k with
  | imm k =>
    refine rt_of rfl fun hw w hW => ?_
    have := g.isLt; have := q.isLt; have := k.isLt
    simp only [qadvWord, yWord, Nat.reducePow] at *
    have f0 : fld w 56 8 = 1 := fld_of _ _ _ _ (by simp only [Nat.reducePow]; omega)
    have f1 : bfld w 53 3 = g := bfld_of _ _ _ (by simp only [Nat.reducePow]; omega)
    have f2 : fld w 47 6 = 0 := fld_of _ _ _ _ (by simp only [Nat.reducePow]; omega)
    have f3 : fld w 41 6 = 0 := fld_of _ _ _ _ (by simp only [Nat.reducePow]; omega)
    have f4 : fld w 32 3 = 0 := fld_of _ _ _ _ (by simp only [Nat.reducePow]; omega)
    have f5 : fld w 30 2 = 0 := fld_of _ _ _ _ (by simp only [Nat.reducePow]; omega)
    have f6 : fld w 15 15 = 0 := fld_of _ _ _ _ (by simp only [Nat.reducePow]; omega)
    have f7 : bfld w 0 4 = q := bfld_of _ _ _ (by simp only [Nat.reducePow]; omega)
    have f8 : bit w 4 = true := bit_of _ _ _ (by simp only [Nat.reducePow, b2n_true, b2n_false]; omega)
    have f9 : bit w 14 = false := bit_of _ _ _ (by simp only [Nat.reducePow, b2n_true, b2n_false]; omega)
    have f10 : bfld w 5 9 = k := bfld_of _ _ _ (by simp only [Nat.reducePow]; omega)
    have f11 : fld w 35 6 = 0 := fld_of _ _ _ _ (by simp only [Nat.reducePow]; omega)
    clear hW
    show decodeY w = _
    simp only [decodeY, f0, f1, f2, f3, f4, f5, f6, f7, f8, f9, f10, f11]
    exact checked_ok rfl hw
  | reg r =>
    refine rt_of rfl fun hw w hW => ?_
    have := g.isLt; have := q.isLt; have := r.isLt
    simp only [qadvWord, yWord, Nat.reducePow] at *
    have f0 : fld w 56 8 = 1 := fld_of _ _ _ _ (by simp only [Nat.reducePow]; omega)
    have f1 : bfld w 53 3 = g := bfld_of _ _ _ (by simp only [Nat.reducePow]; omega)
    have f2 : fld w 47 6 = 0 := fld_of _ _ _ _ (by simp only [Nat.reducePow]; omega)
    have f3 : fld w 41 6 = 0 := fld_of _ _ _ _ (by simp only [Nat.reducePow]; omega)
    have f4 : fld w 32 3 = 0 := fld_of _ _ _ _ (by simp only [Nat.reducePow]; omega)
    have f5 : fld w 30 2 = 0 := fld_of _ _ _ _ (by simp only [Nat.reducePow]; omega)
    have f6 : fld w 15 15 = 0 := fld_of _ _ _ _ (by simp only [Nat.reducePow]; omega)
    have f7 : bfld w 0 4 = q := bfld_of _ _ _ (by simp only [Nat.reducePow]; omega)
    have f8 : bit w 4 = true := bit_of _ _ _ (by simp only [Nat.reducePow, b2n_true, b2n_false]; omega)
    have f9 : bit w 14 = true := bit_of _ _ _ (by simp only [Nat.reducePow, b2n_true, b2n_false]; omega)
    have f10 : fld w 5 9 = 0 := fld_of _ _ _ _ (by simp only [Nat.reducePow]; omega)
    have f11 : bfld w 35 6 = r := bfld_of _ _ _ (by simp only [Nat.reducePow]; omega)
    clear hW
    show decodeY w = _
    simp only [decodeY, f0, f1, f2, f3, f4, f5, f6, f7, f8, f9, f10, f11]
    exact checked_ok rfl hw

theorem twait (g : BitVec 3) (sa : BitVec 6) : Statement (.twait g sa) := by
  refine rt_of rfl fun hw w hW => ?_
  have := g.isLt; have := sa.isLt
  simp only [yWord, Nat.reducePow] at *
  have f0 : fld w 56 8 = 2 := fld_of _ _ _ _ (by simp only [Nat.reducePow]; omega)
  have f1 : bfld w 53 3 = g := bfld_of _ _ _ (by simp only [Nat.reducePow]; omega)
  have f2 : fld w 47 6 = 0 := fld_of _ _ _ _ (by simp only [Nat.reducePow]; omega)
  have f3 : bfld w 41 6 = sa := bfld_of _ _ _ (by simp only [Nat.reducePow]; omega)
  have f4 : fld w 35 6 = 0 := fld_of _ _ _ _ (by simp only [Nat.reducePow]; omega)
  have f5 : fld w 32 3 = 0 := fld_of _ _ _ _ (by simp only [Nat.reducePow]; omega)
  have f6 : fld w 30 2 = 0 := fld_of _ _ _ _ (by simp only [Nat.reducePow]; omega)
  have f7 : fld w 0 30 = 0 := fld_of _ _ _ _ (by simp only [Nat.reducePow]; omega)
  clear hW
  show decodeY w = _
  simp only [decodeY, f0, f1, f2, f3, f4, f5, f6, f7]
  exact checked_ok rfl hw

theorem twany (g : BitVec 3) (sa : BitVec 6) : Statement (.twany g sa) := by
  refine rt_of rfl fun hw w hW => ?_
  have := g.isLt; have := sa.isLt
  simp only [yWord, Nat.reducePow] at *
  have f0 : fld w 56 8 = 3 := fld_of _ _ _ _ (by simp only [Nat.reducePow]; omega)
  have f1 : bfld w 53 3 = g := bfld_of _ _ _ (by simp only [Nat.reducePow]; omega)
  have f2 : fld w 47 6 = 0 := fld_of _ _ _ _ (by simp only [Nat.reducePow]; omega)
  have f3 : bfld w 41 6 = sa := bfld_of _ _ _ (by simp only [Nat.reducePow]; omega)
  have f4 : fld w 35 6 = 0 := fld_of _ _ _ _ (by simp only [Nat.reducePow]; omega)
  have f5 : fld w 32 3 = 0 := fld_of _ _ _ _ (by simp only [Nat.reducePow]; omega)
  have f6 : fld w 30 2 = 0 := fld_of _ _ _ _ (by simp only [Nat.reducePow]; omega)
  have f7 : fld w 0 30 = 0 := fld_of _ _ _ _ (by simp only [Nat.reducePow]; omega)
  clear hW
  show decodeY w = _
  simp only [decodeY, f0, f1, f2, f3, f4, f5, f6, f7]
  exact checked_ok rfl hw

theorem tfind (g : BitVec 3) (sd sa : BitVec 6) : Statement (.tfind g sd sa) := by
  refine rt_of rfl fun hw w hW => ?_
  have := g.isLt; have := sa.isLt; have := sd.isLt
  simp only [yWord, Nat.reducePow] at *
  have f0 : fld w 56 8 = 4 := fld_of _ _ _ _ (by simp only [Nat.reducePow]; omega)
  have f1 : bfld w 53 3 = g := bfld_of _ _ _ (by simp only [Nat.reducePow]; omega)
  have f2 : bfld w 47 6 = sd := bfld_of _ _ _ (by simp only [Nat.reducePow]; omega)
  have f3 : bfld w 41 6 = sa := bfld_of _ _ _ (by simp only [Nat.reducePow]; omega)
  have f4 : fld w 35 6 = 0 := fld_of _ _ _ _ (by simp only [Nat.reducePow]; omega)
  have f5 : fld w 32 3 = 0 := fld_of _ _ _ _ (by simp only [Nat.reducePow]; omega)
  have f6 : fld w 30 2 = 0 := fld_of _ _ _ _ (by simp only [Nat.reducePow]; omega)
  have f7 : fld w 0 30 = 0 := fld_of _ _ _ _ (by simp only [Nat.reducePow]; omega)
  clear hW
  show decodeY w = _
  simp only [decodeY, f0, f1, f2, f3, f4, f5, f6, f7]
  exact checked_ok rfl hw

theorem tclr (g : BitVec 3) (sa : BitVec 6) : Statement (.tclr g sa) := by
  refine rt_of rfl fun hw w hW => ?_
  have := g.isLt; have := sa.isLt
  simp only [yWord, Nat.reducePow] at *
  have f0 : fld w 56 8 = 5 := fld_of _ _ _ _ (by simp only [Nat.reducePow]; omega)
  have f1 : bfld w 53 3 = g := bfld_of _ _ _ (by simp only [Nat.reducePow]; omega)
  have f2 : fld w 47 6 = 0 := fld_of _ _ _ _ (by simp only [Nat.reducePow]; omega)
  have f3 : bfld w 41 6 = sa := bfld_of _ _ _ (by simp only [Nat.reducePow]; omega)
  have f4 : fld w 35 6 = 0 := fld_of _ _ _ _ (by simp only [Nat.reducePow]; omega)
  have f5 : fld w 32 3 = 0 := fld_of _ _ _ _ (by simp only [Nat.reducePow]; omega)
  have f6 : fld w 30 2 = 0 := fld_of _ _ _ _ (by simp only [Nat.reducePow]; omega)
  have f7 : fld w 0 30 = 0 := fld_of _ _ _ _ (by simp only [Nat.reducePow]; omega)
  clear hW
  show decodeY w = _
  simp only [decodeY, f0, f1, f2, f3, f4, f5, f6, f7]
  exact checked_ok rfl hw

theorem bar (g : BitVec 3) (sc : Scope) (id : BitVec 2) : Statement (.bar g sc id) := by
  refine rt_of rfl fun hw w hW => ?_
  have := g.isLt; have := sc.code_lt; have := id.isLt
  simp only [yWord, Nat.reducePow] at *
  have f0 : fld w 56 8 = 6 := fld_of _ _ _ _ (by simp only [Nat.reducePow]; omega)
  have f1 : bfld w 53 3 = g := bfld_of _ _ _ (by simp only [Nat.reducePow]; omega)
  have f2 : fld w 47 6 = 0 := fld_of _ _ _ _ (by simp only [Nat.reducePow]; omega)
  have f3 : fld w 41 6 = 0 := fld_of _ _ _ _ (by simp only [Nat.reducePow]; omega)
  have f4 : fld w 35 6 = 0 := fld_of _ _ _ _ (by simp only [Nat.reducePow]; omega)
  have f5 : fld w 32 3 = sc.code := fld_of _ _ _ _ (by simp only [Nat.reducePow]; omega)
  have f6 : fld w 30 2 = 0 := fld_of _ _ _ _ (by simp only [Nat.reducePow]; omega)
  have f7 : fld w 2 28 = 0 := fld_of _ _ _ _ (by simp only [Nat.reducePow]; omega)
  have f8 : bfld w 0 2 = id := bfld_of _ _ _ (by simp only [Nat.reducePow]; omega)
  clear hW
  show decodeY w = _
  simp only [decodeY, f0, f1, f2, f3, f4, f5, f6, f7, f8, Scope.ofCode_code, Option.map_some]
  exact checked_ok rfl hw

theorem signalAdd (g : BitVec 3) (sc : Scope) (sa sb : BitVec 6) : Statement (.signalAdd g sc sa sb) := by
  refine rt_of rfl fun hw w hW => ?_
  have := g.isLt; have := sc.code_lt; have := sa.isLt; have := sb.isLt
  simp only [yWord, Nat.reducePow] at *
  have f0 : fld w 56 8 = 7 := fld_of _ _ _ _ (by simp only [Nat.reducePow]; omega)
  have f1 : bfld w 53 3 = g := bfld_of _ _ _ (by simp only [Nat.reducePow]; omega)
  have f2 : fld w 47 6 = 0 := fld_of _ _ _ _ (by simp only [Nat.reducePow]; omega)
  have f3 : bfld w 41 6 = sa := bfld_of _ _ _ (by simp only [Nat.reducePow]; omega)
  have f4 : bfld w 35 6 = sb := bfld_of _ _ _ (by simp only [Nat.reducePow]; omega)
  have f5 : fld w 32 3 = sc.code := fld_of _ _ _ _ (by simp only [Nat.reducePow]; omega)
  have f6 : fld w 30 2 = 0 := fld_of _ _ _ _ (by simp only [Nat.reducePow]; omega)
  have f7 : fld w 1 29 = 0 := fld_of _ _ _ _ (by simp only [Nat.reducePow]; omega)
  have f8 : bit w 0 = false := bit_of _ _ _ (by simp only [Nat.reducePow, b2n_true, b2n_false]; omega)
  clear hW
  show decodeY w = _
  simp only [decodeY, f0, f1, f2, f3, f4, f5, f6, f7, f8, Scope.ofCode_code, Option.map_some]
  exact checked_ok rfl hw

theorem signalStore (g : BitVec 3) (sc : Scope) (sa sb : BitVec 6) : Statement (.signalStore g sc sa sb) := by
  refine rt_of rfl fun hw w hW => ?_
  have := g.isLt; have := sc.code_lt; have := sa.isLt; have := sb.isLt
  simp only [yWord, Nat.reducePow] at *
  have f0 : fld w 56 8 = 7 := fld_of _ _ _ _ (by simp only [Nat.reducePow]; omega)
  have f1 : bfld w 53 3 = g := bfld_of _ _ _ (by simp only [Nat.reducePow]; omega)
  have f2 : fld w 47 6 = 0 := fld_of _ _ _ _ (by simp only [Nat.reducePow]; omega)
  have f3 : bfld w 41 6 = sa := bfld_of _ _ _ (by simp only [Nat.reducePow]; omega)
  have f4 : bfld w 35 6 = sb := bfld_of _ _ _ (by simp only [Nat.reducePow]; omega)
  have f5 : fld w 32 3 = sc.code := fld_of _ _ _ _ (by simp only [Nat.reducePow]; omega)
  have f6 : fld w 30 2 = 0 := fld_of _ _ _ _ (by simp only [Nat.reducePow]; omega)
  have f7 : fld w 1 29 = 0 := fld_of _ _ _ _ (by simp only [Nat.reducePow]; omega)
  have f8 : bit w 0 = true := bit_of _ _ _ (by simp only [Nat.reducePow, b2n_true, b2n_false]; omega)
  clear hW
  show decodeY w = _
  simp only [decodeY, f0, f1, f2, f3, f4, f5, f6, f7, f8, Scope.ofCode_code, Option.map_some]
  exact checked_ok rfl hw

theorem swait (g : BitVec 3) (sc : Scope) (sd sa sb : BitVec 6) (ticks : BitVec 26) : Statement (.swait g sc sd sa sb ticks) := by
  refine rt_of rfl fun hw w hW => ?_
  have := g.isLt; have := sc.code_lt; have := sa.isLt; have := sb.isLt; have := sd.isLt; have := ticks.isLt
  simp only [yWord, Nat.reducePow] at *
  have f0 : fld w 56 8 = 8 := fld_of _ _ _ _ (by simp only [Nat.reducePow]; omega)
  have f1 : bfld w 53 3 = g := bfld_of _ _ _ (by simp only [Nat.reducePow]; omega)
  have f2 : bfld w 47 6 = sd := bfld_of _ _ _ (by simp only [Nat.reducePow]; omega)
  have f3 : bfld w 41 6 = sa := bfld_of _ _ _ (by simp only [Nat.reducePow]; omega)
  have f4 : bfld w 35 6 = sb := bfld_of _ _ _ (by simp only [Nat.reducePow]; omega)
  have f5 : fld w 32 3 = sc.code := fld_of _ _ _ _ (by simp only [Nat.reducePow]; omega)
  have f6 : fld w 30 2 = 0 := fld_of _ _ _ _ (by simp only [Nat.reducePow]; omega)
  have f7 : fld w 26 4 = 0 := fld_of _ _ _ _ (by simp only [Nat.reducePow]; omega)
  have f8 : bfld w 0 26 = ticks := bfld_of _ _ _ (by simp only [Nat.reducePow]; omega)
  clear hW
  show decodeY w = _
  simp only [decodeY, f0, f1, f2, f3, f4, f5, f6, f7, f8, Scope.ofCode_code, Option.map_some]
  exact checked_ok rfl hw

theorem launch (g : BitVec 3) (sd sa : BitVec 6) : Statement (.launch g sd sa) := by
  refine rt_of rfl fun hw w hW => ?_
  have := g.isLt; have := sa.isLt; have := sd.isLt
  simp only [yWord, Nat.reducePow] at *
  have f0 : fld w 56 8 = 9 := fld_of _ _ _ _ (by simp only [Nat.reducePow]; omega)
  have f1 : bfld w 53 3 = g := bfld_of _ _ _ (by simp only [Nat.reducePow]; omega)
  have f2 : bfld w 47 6 = sd := bfld_of _ _ _ (by simp only [Nat.reducePow]; omega)
  have f3 : bfld w 41 6 = sa := bfld_of _ _ _ (by simp only [Nat.reducePow]; omega)
  have f4 : fld w 35 6 = 0 := fld_of _ _ _ _ (by simp only [Nat.reducePow]; omega)
  have f5 : fld w 32 3 = 0 := fld_of _ _ _ _ (by simp only [Nat.reducePow]; omega)
  have f6 : fld w 30 2 = 0 := fld_of _ _ _ _ (by simp only [Nat.reducePow]; omega)
  have f7 : fld w 0 30 = 0 := fld_of _ _ _ _ (by simp only [Nat.reducePow]; omega)
  clear hW
  show decodeY w = _
  simp only [decodeY, f0, f1, f2, f3, f4, f5, f6, f7]
  exact checked_ok rfl hw

theorem expose (g : BitVec 3) (sa : BitVec 6) : Statement (.expose g sa) := by
  refine rt_of rfl fun hw w hW => ?_
  have := g.isLt; have := sa.isLt
  simp only [yWord, Nat.reducePow] at *
  have f0 : fld w 56 8 = 10 := fld_of _ _ _ _ (by simp only [Nat.reducePow]; omega)
  have f1 : bfld w 53 3 = g := bfld_of _ _ _ (by simp only [Nat.reducePow]; omega)
  have f2 : fld w 47 6 = 0 := fld_of _ _ _ _ (by simp only [Nat.reducePow]; omega)
  have f3 : bfld w 41 6 = sa := bfld_of _ _ _ (by simp only [Nat.reducePow]; omega)
  have f4 : fld w 35 6 = 0 := fld_of _ _ _ _ (by simp only [Nat.reducePow]; omega)
  have f5 : fld w 32 3 = 0 := fld_of _ _ _ _ (by simp only [Nat.reducePow]; omega)
  have f6 : fld w 30 2 = 0 := fld_of _ _ _ _ (by simp only [Nat.reducePow]; omega)
  have f7 : fld w 0 30 = 0 := fld_of _ _ _ _ (by simp only [Nat.reducePow]; omega)
  clear hW
  show decodeY w = _
  simp only [decodeY, f0, f1, f2, f3, f4, f5, f6, f7]
  exact checked_ok rfl hw

theorem yield (g : BitVec 3) : Statement (.yield g) := by
  refine rt_of rfl fun hw w hW => ?_
  have := g.isLt
  simp only [yWord, Nat.reducePow] at *
  have f0 : fld w 56 8 = 11 := fld_of _ _ _ _ (by simp only [Nat.reducePow]; omega)
  have f1 : bfld w 53 3 = g := bfld_of _ _ _ (by simp only [Nat.reducePow]; omega)
  have f2 : fld w 47 6 = 0 := fld_of _ _ _ _ (by simp only [Nat.reducePow]; omega)
  have f3 : fld w 41 6 = 0 := fld_of _ _ _ _ (by simp only [Nat.reducePow]; omega)
  have f4 : fld w 35 6 = 0 := fld_of _ _ _ _ (by simp only [Nat.reducePow]; omega)
  have f5 : fld w 32 3 = 0 := fld_of _ _ _ _ (by simp only [Nat.reducePow]; omega)
  have f6 : fld w 30 2 = 0 := fld_of _ _ _ _ (by simp only [Nat.reducePow]; omega)
  have f7 : fld w 0 30 = 0 := fld_of _ _ _ _ (by simp only [Nat.reducePow]; omega)
  clear hW
  show decodeY w = _
  simp only [decodeY, f0, f1, f2, f3, f4, f5, f6, f7]
  exact checked_ok rfl hw

theorem flitAcknowledgement (port n : Nat) : Statement (.flitAcknowledgement port n) := rt_none rfl

theorem retrainingEnd (port : Nat) (ok : Bool) : Statement (.retrainingEnd port ok) := rt_none rfl

theorem throttleRelease (d b : Nat) : Statement (.throttleRelease d b) := rt_none rfl

theorem exportEntryWrite (i : Nat) (w0 w1 : BitVec 64) : Statement (.exportEntryWrite i w0 w1) := rt_none rfl

theorem bundleIssue : Statement (.bundleIssue) := rt_none rfl

theorem resultWriteback : Statement (.resultWriteback) := rt_none rfl

theorem storePerform : Statement (.storePerform) := rt_none rfl

theorem latchUpdate : Statement (.latchUpdate) := rt_none rfl

theorem matrixRoutineTrap : Statement (.matrixRoutineTrap) := rt_none rfl

theorem routineTimeLimit : Statement (.routineTimeLimit) := rt_none rfl

theorem barComplete : Statement (.barComplete) := rt_none rfl

theorem spoilSpill : Statement (.spoilSpill) := rt_none rfl

theorem spoilRefill : Statement (.spoilRefill) := rt_none rfl

theorem contactSheetReplay : Statement (.contactSheetReplay) := rt_none rfl

theorem budgetPeriod : Statement (.budgetPeriod) := rt_none rfl

theorem scheduleTick : Statement (.scheduleTick) := rt_none rfl

theorem deviceReset : Statement (.deviceReset) := rt_none rfl

end Sys2Proof.Laws.RoundTrip
end

