-- ==== Sys2Proof/Tests/Slice0.lean ====
section
/-! SUPPORT. Tests: words of the spec's encodings (its worked examples among them), terms that WellFormed refuses, one step of
small states with results worked out by hand from the spec, and for each statement states that meet its hypotheses. -/

namespace Sys2Proof.Tests

open Sys2Proof.Machine

set_option maxRecDepth 20000
set_option Elab.async false

/-- The kernel of the small states: one core, address 0 mapped by an RWX window, one work field of eight bits. -/
def kern : Kernel := { alive := true, cores := [0], ctxN := 1, windows := [(7#64, 1#64)], work := [(8, 256)], nest := [0] }

/-- A small state: context 0 runs with the record `c`; its bundle of 12 bytes at address 64 issues in cycle 100. -/
def at0 (c : Ctx) : State :=
  { State.reset with cycle := 100, ctxs := [(0, { c with life := .running })], kernels := [(0, kern)], iss := { pc := 64, len := 12 } }

/-- The next state of an instruction satisfies a test. -/
def after (i : Instr) (s : State) (p : State → Bool) : Bool :=
  match exec i s with
  | .next t => p t
  | _ => false

/-- The values of the results that an instruction puts in flight. -/
def results (i : Instr) (s : State) : List RVal :=
  match exec i s with
  | .next t => t.inflight.map Res.val
  | _ => []

/-! ### Hypotheses: the X slot -/

theorem runs0 (c : Ctx) : (at0 c).Runs 0#3 := .inl rfl

theorem test_hyp_scalarArithmetic : (at0 {}).Runs 0#3 ∧ (at0 {}).Runs 7#3 := ⟨.inl rfl, .inr (by decide)⟩

theorem test_hyp_bitCounts : (at0 { sr := [(1, 0#64)] }).Runs 1#3 := .inr (by decide)

theorem test_hyp_setAndSelect : (at0 { sr := [(1, 5#64)] }).Runs 2#3 := .inr (by decide)

theorem test_hyp_immediates : (at0 { ar := [(2, 7#32)] }).Runs 3#3 := .inr (by decide)

theorem test_hyp_closedGuard : (Instr.add 1#3 2#6 3#6 (.reg 4#6)).guard = some 1#3 ∧ (Instr.yield 7#3).guard = some 7#3 ∧
    (at0 { stage := 0#8 }).Idles 1#3 ∧ (at0 { stage := 0x7F#8 }).Idles 7#3 :=
  ⟨rfl, rfl, ⟨by decide, by decide⟩, ⟨by decide, by decide⟩⟩

theorem test_hyp_transfers : (at0 {}).Runs 0#3 ∧ (at0 {}).me.loop = none ∧ condHolds .eq ((at0 {}).me.s 0#6) ((at0 {}).me.s 0#6) = true ∧
    condHolds .ne ((at0 {}).me.s 0#6) ((at0 {}).me.s 0#6) = false := ⟨.inl rfl, by decide⟩

/-- A loop-buffer body of one bundle. -/
def body : LoopRec :=
  { start := 64, total := 3, cnt := 3, stg := 1, rot := true, iter := 0, met := 0, skip := false, buf := [] }

theorem test_hyp_loopStart : (at0 {}).Runs 0#3 ∧ (at0 {}).me.loop = none ∧ (0#32).toNat < 2 ^ 32 ∧ (0xFFFFFFFF#32).toNat < 2 ^ 32 ∧
    ((at0 { sr := [(1, 0xFFFFFFFF#64)] }).me.s 1#6).toNat < 2 ^ 32 := ⟨.inl rfl, by decide⟩

theorem test_hyp_loopTraps : (at0 { loop := some body }).Runs 0#3 ∧ (at0 { loop := some body }).me.loop.isSome = true ∧
    (at0 { sr := [(1, 0x100000000#64)] }).me.loop = none ∧ 2 ^ 32 ≤ ((at0 { sr := [(1, 0x100000000#64)] }).me.s 1#6).toNat :=
  ⟨.inl rfl, by decide⟩

theorem test_hyp_workItems : (at0 { rangeHi := 1 }).Runs 0#3 ∧ (at0 { rangeHi := 1 }).me.next < (at0 { rangeHi := 1 }).me.rangeHi ∧
    (at0 { next := 1, rangeHi := 1 }).me.rangeHi ≤ (at0 { next := 1, rangeHi := 1 }).me.next ∧
    ((at0 {}).kernel (at0 {}).me.kernel).work[(0#3).toNat]? = some (8, 256) ∧
    ((at0 {}).kernel (at0 {}).me.kernel).work[(1#3).toNat]? = none := ⟨.inl rfl, by decide⟩

theorem test_hyp_exitAndTrap : (at0 { sr := [(63, 9#64)] }).Runs 0#3 := .inl rfl

theorem test_hyp_controlRead : (at0 {}).Runs 0#3 ∧ (at0 {}).me.loop = none ∧ (at0 { loop := some body }).me.loop = some { body with buf := [] } ∧
    ((at0 {}).kernel (at0 {}).me.kernel).expo = none ∧
    (State.kernel { at0 {} with kernels := [(0, { kern with expo := some 63 })] } 0).expo = some 63 :=
  ⟨.inl rfl, by decide⟩

theorem test_hyp_controlWritten : (at0 {}).Runs 0#3 ∧ (at0 {}).me.loop = none ∧ (at0 {}).me.sp.depth = 0 ∧
    ((at0 {}).me.s 0#6).toNat / 2 ^ 9 % 2 ^ 9 ≤ (at0 {}).me.sp.lim ∧ (at0 {}).me.sp.base ≤ ((at0 {}).me.s 0#6).toNat / 2 ^ 9 % 2 ^ 10 ∧
    (at0 { sp := { depth := 16, frames := 1 } }).me.sp.depth ≠ 0 ∧
    (at0 {}).me.sp.lim < (0x200#64).toNat / 2 ^ 9 % 2 ^ 9 ∧
    (0#64).toNat / 2 ^ 9 % 2 ^ 10 < (at0 { sp := { base := 1, lim := 4 } }).me.sp.base := ⟨.inl rfl, by decide⟩

theorem test_hyp_shapeFields :
    let table : List (Nat × Nat × Nat × Nat) :=
      [(0, 0, 0, 13), (0, 1, 13, 2), (0, 2, 15, 12), (1, 0, 0, 13), (1, 2, 15, 12), (2, 0, 52, 12), (2, 1, 39, 13),
       (2, 2, 14, 25), (2, 3, 0, 12), (2, 4, 12, 2), (3, 0, 0, 16), (3, 1, 16, 16), (3, 2, 32, 16), (3, 3, 48, 16)]
    (at0 {}).Runs 0#3 ∧ ((3#2).toNat, (3#6).toNat, 48, 16) ∈ table ∧ ∀ lo w, ((1#2).toNat, (1#6).toNat, lo, w) ∉ table := by
  refine ⟨.inl rfl, by decide, fun lo w => ?_⟩
  simp

theorem test_hyp_tensorRead : (at0 { t := [(5, { rank := 1 })] }).Runs 0#3 ∧ (((at0 {}).me.te 0).ext[3]? = some 0) ∧
    (((at0 {}).me.te 0).str[0]? = some 0) ∧ 1 ≤ ((at0 { t := [(5, { rank := 1 })] }).me.te 5).rank ∧
    ((at0 { t := [(5, { rank := 1 })] }).me.te 5).rank ≤ 4 ∧ 16 < (17#6).toNat :=
  ⟨.inl rfl, by decide⟩

theorem test_hyp_tensorWritten : (at0 {}).Runs 0#3 ∧ (15#6).toNat < 16 ∧ (14#64).toNat ≤ 14 ∧ ¬ (15#64).toNat ≤ 14 ∧
    ((at0 {}).me.te 0).ext.length = 4 ∧ ((at0 {}).me.te 0).str.length = 4 := ⟨.inl rfl, by decide⟩

/-- A tensor header of R70 at address 0: BF16 (code 9), rank 2. -/
def withTensor (c : Ctx) : State := { at0 c with mem := writeRun [] (dramLoc 0 0) 8 (0x01000019) }

theorem test_hyp_tensorHeaders : (at0 {}).Runs 0#3 ∧ windowPa kern.windows 1 0x200000 = none ∧ windowPa kern.windows 1 0 = some 0 ∧
    headerOk ((at0 {}).readPa 0 8) = false ∧ headerOk ((withTensor {}).readPa 0 8) = true ∧
    ((withTensor { hdrRead := some (3, 0#64, 0) }).ctx 0).hdrRead = some (3, 0#64, 0) := ⟨.inl rfl, by decide⟩

theorem test_hyp_markersPushed : (at0 {}).Runs 0#3 ∧
    (let p := (at0 {}).me.sp; ¬ (65536 - ((at0 {}).iss.depth0 - p.spill) < (at0 {}).iss.pushMax + 16 ∧ p.spill < 512 * (p.lim - p.base)) ∧
      p.depth + 16 ≤ 65536 + 512 * (p.lim - p.base) ∧ p.spill ≤ p.depth) ∧
    (let p := (at0 { sp := { depth := 65521 } }).me.sp; 65536 + 512 * (p.lim - p.base) < p.depth + 16 ∧ ¬ p.spill < 512 * (p.lim - p.base)) :=
  ⟨.inl rfl, by decide⟩

/-- A spoil stack that holds the marker named 5 alone. -/
def marked : Spoil := { depth := 16, frames := 1, top := 2 ^ 56 + 5 + 16 * 2 ^ 64 }

theorem test_hyp_markersDropped : (at0 { sp := marked }).Runs 0#3 ∧ marked.depth < 17 ∧ 0 + 16 ≤ marked.depth ∧ marked.spill ≤ 0 ∧ marked.pay = [] ∧
    (marked.peek 0 8 = 1 * 2 ^ 56 + 5 ∧ marked.peek (0 + 8) 8 = marked.peek (0 + 8) 8 / 2 ^ 16 % 2 ^ 16 * 2 ^ 16 + 16 ∧
      marked.peek (0 + 8) 8 / 2 ^ 16 % 2 ^ 16 < marked.frames) ∧ ¬ marked.peek 0 8 = 1 * 2 ^ 56 + 6 :=
  ⟨.inl rfl, by decide⟩

/-! ### Hypotheses: the V slots -/

/-- Without a lent bank no register is lent. -/
theorem free0 (c : Ctx) (h : c.lent = 0#16) (regs : List Nat) : (at0 c).NotLent regs := by
  intro n _
  show c.lent.getLsbD _ = false
  rw [h]; simp

/-- V1 ← V2, V3 under M0. -/
def vf (ty : ETy) (opx : BitVec 8 := 0) : VF :=
  { g := 0, opd := 1, opa := 2, opb := 3, msk := 0, ty := ty, ro := 0, fls := .none, opx := opx }

theorem runsV0 (c : Ctx) (h : c.lent = 0#16) (ty : ETy) (opx : BitVec 8) (regs : List Nat) : (at0 c).RunsV (vf ty opx) regs :=
  ⟨.inl rfl, free0 c h regs⟩

theorem test_hyp_floatingArithmetic : (at0 {}).RunsV { vf .fp32 with ro := 3 } (regs3 (vf .fp32)) := ⟨.inl rfl, free0 _ rfl _⟩

theorem test_hyp_floatingSelection : (vf .bf16).ro = 0#2 ∧ (vf .bf16).ty = .bf16 ∧ (at0 {}).RunsV (vf .bf16) (regs3 (vf .bf16)) ∧
    (at0 {}).RunsV (vf .bf16) (regs2 (vf .bf16)) := ⟨rfl, rfl, runsV0 _ rfl _ _ _, runsV0 _ rfl _ _ _⟩

theorem test_hyp_integerArithmetic : (vf .i4 1).ro = 0#2 ∧ (vf .i4 1).ty.isInt = true ∧ (at0 {}).RunsV (vf .i4 1) (regs3 (vf .i4 1)) ∧
    (at0 {}).RunsV (vf .n32) (regs2 (vf .n32)) ∧ (vf .n32).ty.isInt = true := ⟨rfl, rfl, runsV0 _ rfl _ _ _, runsV0 _ rfl _ _ _, rfl⟩

theorem test_hyp_shifts : (vf .i8 2).ro = 0#2 ∧ (vf .i8 2).ty.isInt = true ∧
    (at0 {}).RunsV (vf .i8 2) (regs2 (vf .i8 2) ++ (if (vf .i8 2).opx.getLsbD 1 then [] else (vf .i8 2).regB)) ∧
    (at0 {}).RunsV (vf .i8) (regs2 (vf .i8) ++ (if (vf .i8).opx.getLsbD 1 then [] else (vf .i8).regB)) ∧
    (at0 {}).RunsV (vf .fp32) (regs3 (vf .fp32)) :=
  ⟨rfl, rfl, runsV0 _ rfl _ _ _, runsV0 _ rfl _ _ _, runsV0 _ rfl _ _ _⟩

theorem test_hyp_wideningMultiplyAdd :
    ((vf .i16).ty, ETy.i32) ∈ ([(.i4, .i8), (.n4, .n8), (.i8, .i16), (.n8, .n16), (.i16, .i32), (.n16, .n32)] : List (ETy × ETy)) ∧
    (at0 {}).RunsV (vf .i16) ([(vf .i16).opd.toNat, (vf .i16).opd.toNat + 1] ++ (vf .i16).regA ++ (vf .i16).regB) :=
  ⟨by decide, runsV0 _ rfl _ _ _⟩

theorem test_hyp_compareSelectAndMasks : (vf .fp32 7).ro = 0#2 ∧ (at0 {}).RunsV (vf .fp32 7) ((vf .fp32 7).regA ++ (vf .fp32 7).regB) ∧
    (at0 {}).RunsV (vf .fp32) (regs3 (vf .fp32)) ∧ (at0 {}).Runs (vf .i4 5).g ∧ (vf .i4 5).opx = 5#8 ∧ (vf .i4).opx = 0#8 :=
  ⟨rfl, runsV0 _ rfl _ _ _, runsV0 _ rfl _ _ _, .inl rfl, rfl, rfl⟩

theorem test_hyp_specialFunctions : (vf .fp32).ty = .fp32 ∧ (at0 {}).RunsV (vf .fp32) (regs2 (vf .fp32)) ∧ (1 : Nat) ≠ 0 :=
  ⟨rfl, runsV0 _ rfl _ _ _, by decide⟩

theorem test_hyp_conversions : (vf .fp32 (BitVec.ofNat 8 ETy.fp16.code)).src = .fp16 ∧ ETy.fp32.width = 2 * ETy.fp16.width ∧
    ETy.i16.width = 4 * ETy.i4.width ∧ (vf .i16 (BitVec.ofNat 8 ETy.i4.code)).src = .i4 ∧ (vf .fp16 (BitVec.ofNat 8 ETy.fp32.code)).src = .fp32 ∧
    (∀ f, (at0 {}).RunsV (vf f) (regs2 (vf f))) ∧ (vf .fp32).ro = 0#2 :=
  ⟨rfl, rfl, rfl, rfl, rfl, fun _ => runsV0 _ rfl _ _ _, rfl⟩

theorem test_hyp_blockScales : (at0 {}).RunsV (vf .e4m3) (regs2 (vf .e4m3) ++ [(vf .e4m3).opb.toNat]) ∧
    (at0 {}).RunsV (vf .e2m1) (regs3 (vf .e2m1)) := ⟨runsV0 _ rfl _ _ _, runsV0 _ rfl _ _ _⟩

theorem test_hyp_permutes : (vf .i8 1).ro = 0#2 ∧ (at0 {}).RunsV (vf .i8) (regs3 (vf .i8)) ∧
    (at0 {}).RunsV (vf .i8 1) ([(vf .i8 1).opd.toNat] ++ (if (vf .i8 1).opx.getLsbD 0 then [] else (vf .i8 1).regA)) ∧
    (at0 {}).RunsV (vf .i8) (vf .i8).regA ∧ (at0 {}).RunsV (vf .i8) [(vf .i8).opd.toNat] :=
  ⟨rfl, runsV0 _ rfl _ _ _, runsV0 _ rfl _ _ _, runsV0 _ rfl _ _ _, runsV0 _ rfl _ _ _⟩

theorem test_hyp_latchesFed : (at0 {}).RunsV (vf .i32) (if (vf .i32).opx.getLsbD 2 then (vf .i32).regA else []) ∧
    (at0 {}).RunsV (vf .fp32) (vf .fp32).regA ∧ ((at0 {}).me.latch 0).prof = 0 ∧ (at0 {}).poison = [] ∧
    ((at0 { pl := [(0, { prof := 7, acc := .int 0 })] }).me.latch 0).prof = 7 ∧ ETy.fp32.isInt = false :=
  ⟨runsV0 _ rfl _ _ _, runsV0 _ rfl _ _ _, by decide, rfl, by decide, rfl⟩

/-- A chunk sum of context 0 for latch 1, due. -/
def fed (l : Latch) : State :=
  { at0 { pl := [(1, l)] } with
    inflight := [{ ctx := 0, due := 100, issued := 94, slot := 2, val := .latch 1 (.fp 0x3F800000#32), flags := 0#7 }] }

theorem test_hyp_latchesAddAndDrain : (at0 {}).RunsV (vf .fp32) [(vf .fp32).opd.toNat] ∧
    100 ≤ (fed { n := 1 }).cycle ∧ ((fed { n := 1 }).ctx 0).life = .running ∧
    ((fed { n := 1 }).ctx 0).latch 1 ≠ {} ∧ (((fed { n := 1 }).ctx 0).latch 1).n ≠ 2 ^ 20 - 1 ∧
    (((fed { n := 2 ^ 20 - 1 }).ctx 0).latch 1).n = 2 ^ 20 - 1 ∧
    ((((at0 {}).me.latch 0).prof == 7 || ((at0 {}).me.latch 0).prof == 8) = (ETy.fp32 == ETy.i32)) ∧
    ((((at0 {}).me.latch 0).prof == 7 || ((at0 {}).me.latch 0).prof == 8) ≠ (ETy.i32 == ETy.i32)) :=
  ⟨runsV0 _ rfl _ _ _, by decide⟩

theorem test_hyp_latchesReduce : ([.fp 0x3F800000#32, .fp 0x40000000#32] : List PSum).length < 2 ^ 20 := by decide

theorem test_hyp_dotProducts : (at0 {}).RunsV (vf .bf16) (regs3 (vf .bf16)) ∧ (at0 {}).iss.profile ≠ 7 ∧ (at0 {}).iss.profile ≠ 8 ∧
    ({ (at0 {}).iss with profile := 8 } : Issue).profile = 8 := ⟨runsV0 _ rfl _ _ _, by decide, by decide, rfl⟩

theorem test_hyp_lentRegisters : (at0 { lent := 1#16 }).Runs (vf .fp32).g ∧ ¬ (at0 { lent := 1#16 }).NotLent (regs3 (vf .fp32)) :=
  ⟨.inl rfl, fun h => absurd (h 1 (by decide)) (by decide)⟩

/-! ### Hypotheses: the reversible instructions -/

theorem test_hyp_forwards : (vf .fp32).ty = .fp32 ∧ (at0 {}).RunsV (vf .fp32) (regs3 (vf .fp32)) ∧ (vf .i8).ty.isInt = true ∧
    pushWaits (at0 {}).me.sp (at0 {}).iss.depth0 ((at0 {}).iss.pushMax + frameMax 512) = false ∧
    (at0 {}).me.sp.depth + 528 ≤ 65536 + 512 * ((at0 {}).me.sp.lim - (at0 {}).me.sp.base) ∧
    65536 + 512 * ((at0 { sp := { depth := 65520 } }).me.sp.lim - (at0 {}).me.sp.base) < (at0 { sp := { depth := 65520 } }).me.sp.depth + 528 ∧
    pushWaits (at0 { sp := { depth := 65520 } }).me.sp 0 (frameMax 512) = false :=
  ⟨rfl, runsV0 _ rfl _ _ _, rfl, by decide⟩

theorem test_hyp_narrowingForward : (vf .bf16 (BitVec.ofNat 8 ETy.fp32.code)).src = .fp32 ∧ ETy.fp32.width = 2 * ETy.bf16.width ∧
    (ETy.fp32.isInt = false ∧ ETy.bf16.isInt = false ∧ ETy.fp32 ≠ .e8m0 ∧ ETy.bf16 ≠ .e8m0) ∧
    (vf .i8 (BitVec.ofNat 8 ETy.i32.code)).src = .i32 ∧ ETy.i32.width = 4 * ETy.i8.width ∧
    (at0 {}).RunsV (vf .bf16) ([(vf .bf16).opd.toNat] ++ (List.range 2).map (fun q => (vf .bf16).opa.toNat + q)) :=
  ⟨rfl, rfl, by decide, rfl, rfl, runsV0 _ rfl _ _ _⟩

/-- A frame without escapes. -/
def plainFrame (check plen : Nat) : Frame := { plen := plen, check := check, below := 0, esc := 0, pay := 0, bitmap := 0, image := 0 }

/-- A stack that holds it alone. -/
def holding (fr : Frame) : Spoil := (({} : Spoil).push fr 0).land 0

theorem test_hyp_undos :
    let c (opc aux : Nat) (t : ETy) := checkWord opc (physV 0 2) t.code t.lanes aux 0
    (∀ opc ∈ [0xA0, 0xA2, 0xA4], (holding (plainFrame (c opc 0 .fp32) 512)).pop (c opc 0 .fp32) 512 = .frame (plainFrame (c opc 0 .fp32) 512) {}) ∧
    (holding (plainFrame (c 0xAC 0 .i8) 0)).pop (c 0xAC 0 .i8) 0 = .frame (plainFrame (c 0xAC 0 .i8) 0) {} ∧
    (holding (plainFrame (c 0xA8 0xFF .i8) 512)).pop (c 0xA8 0xFF .i8) 512 = .frame (plainFrame (c 0xA8 0xFF .i8) 512) {} ∧
    (holding (plainFrame (c 0xAA 3 .fp32) 0)).pop (c 0xAA 3 .fp32) 0 = .frame (plainFrame (c 0xAA 3 .fp32) 0) {} ∧
    (holding (plainFrame (c 0xA6 12 .bf16) 1024)).pop (c 0xA6 12 .bf16) 1024 = .frame (plainFrame (c 0xA6 12 .bf16) 1024) {} ∧
    ¬ ((at0 {}).iss.vaPush = true ∧ (at0 {}).iss.slot = 2) := by decide

/-- Undos that trap or wait: as VB beside a forward, on an empty stack, on a marker that is no frame of theirs, and while the head
of the frame lies in the spoil area. -/
theorem test_hyp_undoTraps :
    let f := vf .fp32
    let own := { (at0 {}).iss with vaPush := true, slot := 2 }
    let s := at0 { sp := marked }
    let p := s.me.sp
    let info := p.peek (p.depth - 8) 8
    let out := (at0 { sp := { marked with spill := 8 } }).me.sp
    (Instr.unaddf f, regs3 f, 0xA0, 512, 0) ∈ ([(.unaddf f, regs3 f, 0xA0, 512, 0)] : List (Instr × List Nat × Nat × Nat × Nat)) ∧
    s.RunsV f (regs3 f) ∧ own.vaPush = true ∧ own.slot = 2 ∧ ¬ (s.iss.vaPush = true ∧ s.iss.slot = 2) ∧ (at0 {}).me.sp.frames = 0 ∧
    p.frames ≠ 0 ∧ p.spill + 16 ≤ p.depth ∧ ¬ (info % 2 ^ 16 < 16 ∨ info % 2 ^ 16 % 16 ≠ 0 ∨ p.depth < info % 2 ^ 16) ∧
    p.spill ≤ p.depth - info % 2 ^ 16 ∧ (∀ x ∈ p.pay, x.pos < p.depth - info % 2 ^ 16) ∧
    p.peek (p.depth - 16) 8 ≠ checkWord 0xA0 (physV s.me.vrot f.opa.toNat) f.ty.code f.ty.lanes 0 0 ∧
    out.frames ≠ 0 ∧ ¬ out.spill + 16 ≤ out.depth := by
  refine ⟨List.mem_singleton.mpr rfl, runsV0 _ rfl _ _ _, ?_⟩
  decide

theorem test_hyp_lastInFirstOut :
    let p : Spoil := { depth := 16, frames := 1, top := 2 ^ 56 + 5 + 16 * 2 ^ 64 }
    let fr := plainFrame (2 ^ 56 * 0xA0) 512
    p.pay = [] ∧ p.spill ≤ p.depth ∧ p.top < 256 ^ (p.depth - p.spill) ∧ fr.below = 0 ∧ fr.plen % 16 = 0 ∧ fr.plen ≤ 2048 ∧
    fr.esc ≤ 1024 ∧ fr.check < 2 ^ 64 ∧ fr.pay < 256 ^ fr.plen ∧ (fr.esc = 0 ∧ fr.bitmap = 0 ∧ fr.image = 0) := by decide

theorem test_hyp_integerUndos : ETy.i8.isInt = true ∧ (0x80 : Nat) < 2 ^ ETy.i8.width ∧ (rshrLane .i8 0x80 3).esc = false ∧
    (rshrLane .i8 0x80 8).esc = true ∧ (rimulLane .i8 0x80 3).esc = false ∧ (rimulLane .i8 0x80 2).esc = true ∧
    ETy.i4.isInt = true ∧ ETy.i4.width ≤ ETy.i8.width := by decide

theorem test_hyp_floatingUndos : (0x3F80 : Nat) < 2 ^ ETy.bf16.width ∧ (raddLane .bf16 false 0x3F80 0x4000).esc = false ∧
    (raddLane .bf16 false 0x8000 0x4000).esc = true ∧ (0x3F808001 : Nat) < 2 ^ ETy.fp32.width ∧
    (rnarwLane .fp32 .bf16 0x3F808001).esc = false ∧ (rnarwLane .fp32 .bf16 0x7F800001).esc = true := by decide

/-! ### Hypotheses: the M slot and micro-words -/

/-- A valid routine entry at index 0 of cluster 0: START 0, LEN − 1 = 0, MP register 0 in FMASK. -/
def withEntry (s : State) : State := { s with clusters := [(0, { table := [(0, 0x80400000#32)] })] }

/-- A running routine of context 0 on core 0. -/
def rout : Routine := { ctx := 0, issued := 90, start := 0, len := 4, at_ := 100 }

def running (r : Routine) (s : State) : State := { s with cores := [(0, { routine := some r })] }

theorem test_hyp_routinesBound :
    let s := withEntry (at0 {})
    s.Runs 0#3 ∧ s.matrixBusy 0 = false ∧ (running rout s).matrixBusy 0 = true ∧
    (if (0#8).toNat < kern.tLen then (mget 0#32 (s.cluster 0).table (kern.tBase 0 + 0)).toNat else 0) = 0x80400000 ∧
    kern.ownsSlot 0 = true ∧ { kern with slots := [1] }.ownsSlot 0 = false ∧ kern.slotOwner 96 = 0 ∧ s.foldRuns 0 = false ∧
    ({ s with benches := [(0, { powered := true })] } : State).liveBenches 0 = [0] ∧
    (s.core (clusterCore 0 0)).routine = none ∧ (s.core (clusterCore 0 0)).mbusy ≤ s.cycle ∧
    ((s.cluster 0).was.1 ≠ s.cycle ∧ ({ table := [], was := (100, [(0, 7#32)]) } : Cluster).was.1 = s.cycle) ∧
    ((mget 0#32 ((at0 {}).cluster 0).table 0).toNat < 2 ^ 31) ∧
    ((List.range 8).any (fun j => (0x80400000 / 2 ^ 22).testBit j &&
      !((at0 { t := [(0, { fmt := .bf16 })] }).me.te (mpTid ((at0 {}).me.mpr j))).fmt.isInt)) = true :=
  ⟨.inl rfl, by decide⟩

/-- A complete read of a block of one END word, and of one without its end. -/
def block : MRead := { pc := 64, bank := 0, off := 0, got := 1, data := 0x80000000 + 0xB0000000 * 2 ^ 32 }
def endless : MRead := { pc := 64, bank := 0, off := 0, got := 1, data := 0x80000000 + 0x20000000 * 2 ^ 32 }

theorem test_hyp_blocksLoaded :
    let s := at0 { mread := some block }
    s.Runs 0#3 ∧ s.me.mread = some block ∧ block.pc = s.iss.pc ∧ block.complete = true ∧ s.matrixBusy 0 = false ∧
    s.wordsInUse 0 0 1 = false ∧ blockCause 0x80000000 block.words true = 0 ∧ endless.complete = true ∧
    blockCause 0x80000000 endless.words true = 0x07 ∧ ((running rout s).core (clusterCore 0 0)).routine = some rout ∧
    (rout.start < 0 + 1 ∧ 0 < rout.start + rout.len) ∧
    ({ s with cores := [(0, { ended := (100, 0, 4) })] } : State).core (clusterCore 0 0) = { ended := (100, 0, 4) } ∧ s.cycle = 100 ∧
    (∀ b, b < 4 → (s.core (clusterCore 0 b)).routine = none ∧ (s.core (clusterCore 0 b)).ended.1 ≠ s.cycle) :=
  ⟨.inl rfl, by decide⟩

theorem test_hyp_banksLent :
    let s := at0 {}
    s.Runs 0#3 ∧ s.matrixBusy 0 = false ∧
    ¬ ((∃ r n v m ty, r ∈ s.inflight ∧ r.ctx = s.cur ∧ r.issued ≠ s.cycle ∧ r.val = .v n v m ty ∧ n / 128 = 0) ∨
      (∃ e n v m ty, e ∈ s.me.sheet ∧ e.val = .v n v m ty ∧ n / 128 = 0)) ∧
    s.me.lent.getLsbD 0 = false ∧ (at0 { lent := 1#16 }).me.lent.getLsbD 0 = true ∧
    (∃ e n v m ty, e ∈ ([⟨1, 0, 2, .v 5 0 0 .i8, 0#7⟩] : List SheetEntry) ∧ e.val = .v n v m ty ∧ n / 128 = 0) := by
  refine ⟨.inl rfl, by decide, ?_, by decide, by decide, _, 5, 0, 0, .i8, List.mem_singleton.mpr rfl, rfl, rfl⟩
  rintro (⟨r, _, _, _, _, h, _⟩ | ⟨e, _, _, _, _, h, _⟩) <;> cases h

/-- Stream entry 2 of cluster 0. -/
def withStream (x : SEntry) (s : State) : State := { s with clusters := [(0, { streams := [(2, x)] })] }

/-- The small state with a kernel that owns the stream table and a cluster share of 64 KiB. -/
def streaming : State := { at0 {} with kernels := [(0, { kern with strm := true, clLen := 65536 })] }

theorem test_hyp_streamEntries :
    let opened : SEntry := { state := .opened, bench := 0, ctx := 0, tile := 1 }
    let paused : SEntry := { state := .paused, bench := 0, ctx := 0, tile := 1 }
    let s (x : SEntry) : State := withStream x streaming
    streaming.Runs 0#3 ∧ streaming.matrixBusy 0 = false ∧ (streaming.kernel 0).strm = true ∧ ((at0 {}).kernel 0).strm = false ∧
    (streaming.sentry 0 2).state = .closed ∧ streaming.held 0 1 = none ∧ 4096 * 0 + 4096 ≤ (streaming.kernel 0).clLen ∧
    ¬ 4096 * 16 + 4096 ≤ (streaming.kernel 0).clLen ∧ ((s opened).sentry 0 2).state = .opened ∧
    ((s opened).sentry 0 2).ctx = (s opened).cur ∧ ((s paused).sentry 0 2).state = .paused ∧ (s paused).held 0 1 = none ∧
    ((s paused).sentry 0 2).bench = coreBench 0 :=
  ⟨.inl rfl, by decide⟩

theorem test_hyp_microBind :
    let s := running { rout with ents := [(3, { fmt := .e4m3, mx := true })] } (at0 { lent := 1#16 })
    (s.core s.rcore).routine = some { rout with ents := [(3, { fmt := .e4m3, mx := true })] } ∧
    (mget {} [(3, ({ fmt := .e4m3, mx := true } : TEntry))] 3).fmt ∈ ([.e2m1, .e4m3, .e5m2] : List ETy) ∧
    (s.ctx 0).lent.getLsbD (0#4).toNat = true ∧ (mget {} [(3, ({ fmt := .e4m3, mx := true } : TEntry))] 3).kind = 0 ∧
    (mget {} [(3, ({ fmt := .i8, kind := 1 } : TEntry))] 3).kind = 1 ∧ (0#14).toNat = 0 ∧ (16383#14).toNat ≠ 0 ∧
    chunkLoop [.mac 1#3, .chain 1#3 false] = some 1 ∧ chunkLoop [.mac 1#3] = none ∧ (s.ctx 0).released = false ∧
    (let u := running rout (at0 { released := true })
     (u.ctx rout.ctx).released = true ∧ u.recordPa rout.ctx % 4096 = 0 ∧ (0x81#8).getLsbD 7 = true ∧
      ((paLoc u.ncc (u.recordPa rout.ctx + 0xF80 + 8 * 7)).map u.deadAt) = some false) := by decide

theorem test_hyp_microMultiply :
    let a : Stream := ⟨.bank 1, 0, .i8, false⟩
    let b : Stream := ⟨.bank 2, 0, .i8, false⟩
    let r : Routine := { rout with ex := { sA := some a, sB := some b, chunk := { ot := 1, cn := 248 } } }
    let s := running r (at0 {})
    (s.core s.rcore).routine = some r ∧ r.deal = none ∧ s.poison = [] ∧ s.held 0 1 = none ∧
    (withStream { state := .opened, bench := 0, ctx := 0, tile := 1 } s).held 0 1 ≠ none ∧ a.place = .bank 1 ∧ b.place = .bank 2 ∧
    a.fmt.isInt = b.fmt.isInt ∧ r.ex.chunk.ot = (1#3).toNat ∧ r.ex.chunk.cn + 64 / max a.fmt.width b.fmt.width ≤ 256 ∧
    0 < r.ex.chunk.cn := by decide

/-- A routine whose operand A lies in the cluster share and whose operand B lies in a lent bank. -/
theorem test_hyp_microStreams :
    let a : Stream := ⟨.cluster, 0, .e4m3, true⟩
    let b : Stream := ⟨.lent 0, 0, .e4m3, true⟩
    let r : Routine := { rout with ex := { sA := some a, sB := some b } }
    let s := running r { streaming with cycle := 96 }
    (s.core s.rcore).routine = some r ∧ r.deal = none ∧ s.poison = [] ∧ s.held 0 1 = none ∧ a.fmt.isInt = b.fmt.isInt ∧
    (s.kernel 0).slotOwner s.cycle = coreBench 0 ∧ a.ptr + 256 ≤ (s.kernel 0).clLen ∧ 0 + 64 / max a.fmt.width b.fmt.width ≤ 256 ∧
    4 * (64 / max a.fmt.width b.fmt.width) * a.fmt.width = 256 ∧ (0 < 256 ^ 256) ∧
    readByte s.mem (clLoc 0 ((s.kernel 0).clBase 0 + 5)) = 0#8 ∧
    ((withStream { state := .opened, bench := 0, ctx := 0, tile := 1 } s).held 0 1).any (fun x => x.ctx == r.ctx) = true ∧
    ((withStream { state := .opened, bench := 0, ctx := 7, tile := 1 } s).held 0 1).any (fun x => x.ctx != r.ctx) = true ∧
    (mget {} [(0, ({ kind := 1 } : TEntry))] 0).kind = 1 ∧ (mget {} [(0, ({ kind := 2 } : TEntry))] 0).kind ≠ 1 ∧
    ((mget {} [(0, ({ kind := 1 } : TEntry))] 0).loc.toNat % 2 ^ 22 + mpAddr ((s.ctx 0).mpr 0) + 512 * 7 + 512 ≤ (s.kernel 0).clLen) := by
  decide

theorem test_hyp_microClear :
    let s := running rout (at0 {})
    (s.core s.rcore).routine = some rout ∧ s.held 0 7 = none ∧ (mget {} rout.ents 0).kind = 0 ∧ rout.rep = 0 ∧ rout.d < 8 ∧
    rout.prof < 16 ∧ (s.core (clusterCore 0 1)).routine = none ∧
    (let again : Routine := { rout with rep := 2, inc := 0x81, steps := [2] }
     let u := withStream { state := .opened, bench := 0, ctx := 0, tile := 1, cn := 4 } (running again (at0 {}))
     (u.core u.rcore).routine = some again ∧ again.rep ≠ 0 ∧ again.inc.getLsbD 7 = true ∧ again.inc.getLsbD 6 = false ∧ rout.steps = [] ∧
      mwf {} (u.cluster (coreCluster u.rcore)).streams = true ∧ 2 ∈ again.steps ∧ u.held 0 1 ≠ none ∧ u.held 0 2 = none) := by decide

theorem test_hyp_streamWords :
    let b : Stream := ⟨.bank 3, 0, .bf16, false⟩
    let r : Routine := { rout with ex := { sB := some b } }
    let s := withStream { state := .opened, bench := 0, ctx := 0, tile := 1, cn := 30 } (running r (at0 {}))
    let x := s.sentry 0 2
    (s.core s.rcore).routine = some r ∧ s.poison = [] ∧
    (x.state = .opened ∧ x.bench = coreBench 0 ∧ x.ctx = r.ctx ∧ (2#3).toNat ≠ x.tile) ∧ ¬ (1#3).toNat ≠ x.tile ∧
    b.place = .bank 3 ∧ b.fmt.isInt = false ∧ r.prof ≠ 7 ∧ r.prof ≠ 8 ∧ x.cn ≤ 30 := by decide

/-! ### Hypotheses: the L and S slots -/

/-- An L or S slot at offset 0 of bank 5. -/
def lf (ty : ETy) (opx : BitVec 9 := 0) : LF :=
  { g := 0, opd := 1, sh := 0, sw := false, ty := ty, opx := opx, spa := .bank 5 false 0 false 0 }

theorem accesses0 (f : LF) (hg : f.g = 0#3) (hs : f.spa = .bank 5 false 0 false 0) (consumer : Bool) (align : Nat) (regs : List Nat) :
    Accesses (at0 {}) f consumer 0 align regs 5 0 := by
  refine ⟨.inl hg, free0 {} rfl regs, ?_, ?_, ?_, ?_, rfl, rfl⟩
  · intro q k w h; rw [hs] at h; cases h
  · intro q k w h; rw [hs] at h; cases h
  · rw [hs]; simp [place]
  · rintro (⟨_, h⟩ | h | h)
    · cases h
    · exact absurd h (by show ¬ 5 ∈ State.feedBanks (at0 {}) 0; decide)
    · exact absurd h (by show ¬ (State.kernel (at0 {}) 0).spoil = some 5; decide)

theorem test_hyp_loads : Accesses (at0 {}) (lf .n8) true 0 64 [1] 5 0 ∧ Accesses (at0 {}) (lf .n8) true 0 8 [] 5 0 ∧
    Accesses (at0 {}) (lf .n8) true 0 128 [] 5 0 ∧ Accesses (at0 {}) (lf .e4m3 8) true 0 64 [1, 2] 5 0 ∧
    ((lf .e4m3 8).opx.toNat % 16, ETy.e2m1, (lf .e4m3 8).ty) ∈
      ([(0, .i4, .i8), (1, .n4, .n8), (1, .n4, .i8), (8, .e2m1, .e4m3), (8, .e2m1, .e5m2)] : List (Nat × ETy × ETy)) :=
  ⟨accesses0 _ rfl rfl _ _ _, accesses0 _ rfl rfl _ _ _, accesses0 _ rfl rfl _ _ _, accesses0 _ rfl rfl _ _ _, by decide⟩

theorem test_hyp_stores : Accesses (at0 {}) (lf .fp32) false 0 64 [1] 5 0 ∧ Accesses (at0 {}) (lf .fp32) false 0 8 [] 5 0 ∧
    Accesses (at0 {}) (lf .fp32) false 0 128 [] 5 0 :=
  ⟨accesses0 _ rfl rfl _ _ _, accesses0 _ rfl rfl _ _ _, accesses0 _ rfl rfl _ _ _⟩

/-- A queue operand of handle 12, waiting for one slot. -/
def queued : LF := { lf .n8 with spa := .queue 12 0 1 }

/-- Handle 12 declared: two slots of 512 bytes in bank 4. -/
def ring : QHandle := { base := 0, bank := 4, size := 8, count := 2, occ := 2 }

theorem test_hyp_accessTraps :
    ¬ HandleFits (at0 {}).me queued.spa ∧ HandleFits (at0 { q := [(12, ring)] }).me queued.spa ∧
    ¬ WaitMet (at0 { q := [(12, ring)] }).me true queued.spa ∧ (at0 { q := [(12, ring)] }).Runs queued.g ∧
    (place (at0 {}).me true (lf .n8).spa 0 64).1 = 5 ∧
    (5 ∈ ({ at0 {} with cores := [(0, { feeds := (100, [5]) })] } : State).feedBanks 0) ∧
    ({ kern with spoil := some 5 } : Kernel).spoil = some 5 ∧
    (12 ≤ (12#4).toNat ∧ ((at0 { q := [(12, ring)] }).me.qh (12#4).toNat).count ≠ 0) := by
  refine ⟨fun h => ?_, fun q k w h => ?_, fun h => ?_, .inl rfl, by decide, by decide, rfl, by decide⟩
  · exact absurd (h 12 0 1 rfl).1 (by decide)
  · cases h; decide
  · exact absurd (h 12 0 1 rfl) (by decide)

theorem test_hyp_deliveries :
    let s := at0 { q := [(12, ring)] }
    s.Runs 0#3 ∧ s.NotLent [1] ∧ s.boundOf 0 (clusterCore 0 0) 0 = some 0 ∧ s.boundOf 0 (clusterCore 0 1) 0 = none ∧
    ((s.ctx 0).qh 12).count ≠ 0 ∧ 8 ≤ ((s.ctx 0).qh 12).size ∧ kern.ownsSlot 0 = true ∧
    ({ kern with slots := List.replicate 16 0 } : Kernel).slotOwner 100 = coreBench 0 ∧ s.k1Now 0 = [] ∧
    (2#9).toNat ≤ ((s.ctx 0).qh 12).occ - ((s.ctx 0).qh 12).fill - ((s.ctx 0).qh 12).infl ∧
    (let h := (at0 { q := [(12, { ring with fill := 1 })] }).me.qh 12; h.occ - h.fill - h.infl < (2#9).toNat) ∧ ((s.ctx 0).qh 12).count < (3#9).toNat ∧
    (2#9).toNat ≤ ((s.ctx 0).qh 12).count ∧ ({ ring with size := 4 } : QHandle).size < 8 ∧
    ({ kern with slots := [1] } : Kernel).ownsSlot 0 = false ∧ ((s.ctx 0).qh 12).bank ∉ s.usedBanks 0 ∧
    ((s.ctx 0).qh 12).bank ∉ s.feedBanks 0 ∧ (⟨7, 0, 12, 0, 100⟩ : Putq).due ≤ s.cycle ∧ (s.ctx 0).moving = false ∧
    ((at0 { q := [(12, ring)], moving := true }).ctx 0).moving = true ∧ mget 0 (s.core 0).engAt 4 ≤ s.cycle :=
  ⟨.inl rfl, free0 _ rfl _, by decide⟩

/-! ### Hypotheses: the C and Y slots -/

/-- A command on tag 5. -/
def cf : CF := { g := 0, tag := 5, aq := none, rl := some .cluster, sh := 0, sw := false, sa := 3 }

theorem fits_bank (c : Ctx) (b : BitVec 4) (e : Bool) (u v m) : HandleFits c (.bank b e u v m) :=
  fun _ _ _ h => by cases h

theorem waits_bank (c : Ctx) (r : Bool) (b : BitVec 4) (e : Bool) (u v m) : WaitMet c r (.bank b e u v m) :=
  fun _ _ _ h => by cases h

theorem unfit : ¬ HandleFits (at0 {}).me (.queue 12 0 1) := fun h => absurd (h 12 0 1 rfl).1 (by decide)

theorem fit : HandleFits (at0 { q := [(12, ring)] }).me (.queue 12 0 1) := fun q k w h => by cases h; decide

theorem unmet : ¬ WaitMet (at0 { q := [(12, ring)] }).me true (.queue 12 0 1) := fun h => absurd (h 12 0 1 rfl) (by decide)

theorem test_hyp_commands :
    (at0 {}).Runs cf.g ∧ HandleFits (at0 {}).me (.bank 3 false 0 false 1) ∧ WaitMet (at0 {}).me true (.bank 3 false 0 false 1) ∧
    ¬ ((at0 {}).me.tagPend.getLsbD cf.tag.toNat = true ∨
      16 ≤ ((at0 {}).cmdList.filter (fun x => decide (x.ctx = (at0 {}).cur ∧ x.stage = .queued) &&
        x.job.isColl == (Job.cpy true false).isColl)).length) ∧
    (at0 { tagPend := 0x20#64 }).me.tagPend.getLsbD cf.tag.toNat = true ∧ ¬ HandleFits (at0 {}).me (.queue 12 0 1) ∧
    HandleFits (at0 { q := [(12, ring)] }).me (.queue 12 0 1) ∧ ¬ WaitMet (at0 { q := [(12, ring)] }).me true (.queue 12 0 1) :=
  ⟨.inl rfl, fits_bank _ _ _ _ _ _, waits_bank _ _ _ _ _ _ _, by decide, by decide, unfit, fit, unmet⟩

/-- A store of context 0 in flight. -/
def stored : Store := { ctx := some 0, due := 102, core := 0, bank := 1, pieces := [] }

theorem test_hyp_fences :
    (at0 {}).Runs 0#3 ∧ scopeLevel .core = none ∧ (∀ x ∈ (at0 {}).stores, ¬ x.ctx = some (at0 {}).cur) ∧ stored.ctx = some (at0 {}).cur ∧
    scopeLevel .sys ≠ none ∧ ((at0 { pend := .fence .sys .sc 100 }).ctx 0).pend = .fence .sys .sc 100 ∧ 100 ≤ (at0 {}).cycle ∧
    (∀ x ∈ (at0 { pend := .fence .sys .sc 100 }).stores, x.ctx ≠ some 0) ∧ (at0 {}).undelivered ((at0 {}).ctx 0).outbox = false :=
  ⟨.inl rfl, rfl, by decide, rfl, by decide⟩

theorem test_hyp_ringHandles :
    let h := (at0 { q := [(3, { ring with fill := 1 })] }).me.qh 3
    (at0 {}).Runs 0#3 ∧ ((at0 {}).me.qh 3).count = 0 ∧ h.count ≠ 0 ∧ h.fill < 2 ∧ h.count - h.fill < 2 ∧ (1 ≤ 256 ∧ 1 ≤ h.fill) ∧
    h.fill + 1 ≤ h.occ ∧ ({ h with occ := 1 } : QHandle).occ < h.fill + 1 ∧ (256 : Nat) < 257 :=
  ⟨.inl rfl, by decide⟩

theorem test_hyp_tags :
    let c := (at0 { sr := [(1, 6#64)], tagPend := 4#64, tagSet := 2#64 }).me
    (at0 {}).Runs 0#3 ∧ (c.s 1).getLsbD 1 = true ∧ c.tagSet.getLsbD 1 = true ∧ c.tagPend.getLsbD 2 = true ∧
    (¬ c.tagSet.getLsbD 0 = true ∧ ¬ c.tagPend.getLsbD 0 = true) ∧ (c.s 1) ≠ 0#64 ∧
    ((at0 { pend := .twait true 2#64, tagSet := 2#64 }).ctx 0).pend = .twait true 2#64 ∧
    ((at0 { pend := .twait true 2#64, tagSet := 2#64 }).ctx 0).resumeAt ≤ (at0 {}).cycle ∧
    (∀ j, j < 64 → ¬ (at0 {}).me.tagSet.getLsbD j = true) :=
  ⟨.inl rfl, by decide⟩

/-! ### Hypotheses: barriers, signals, waits, children -/

theorem test_hyp_barriers :
    let s := at0 { pend := .bar .core 1 false }
    let t := at0 { pend := .bar .cluster 1 false }
    (at0 {}).Runs 0#3 ∧ s.Keyed ∧ (∃ e ∈ s.ctxs, e.1 = 0) ∧ (s.ctx 0).pend = .bar .core 1 false ∧ (s.ctx 0).life ≠ .unbound ∧
    (∀ e ∈ s.ctxs, e.2.pend = .bar .core 1 false ∧ e.2.kernel = (s.ctx 0).kernel ∧ e.2.core = (s.ctx 0).core) ∧
    t.Keyed ∧ (∀ e ∈ t.ctxs, e.2.pend = .bar .cluster 1 false ∧ e.2.kernel = (t.ctx 0).kernel ∧ e.2.life = .running ∧
      coreCluster e.2.core = coreCluster (t.ctx 0).core) :=
  ⟨.inl rfl, by unfold State.Keyed; decide, ⟨_, List.mem_singleton.mpr rfl, rfl⟩, by decide, by decide, by decide,
    by unfold State.Keyed; decide, by decide⟩

/-- The small state whose kernel has a cluster share of 64 KiB and two declared children, one of them launched. -/
def shared0 (c : Ctx) : State :=
  { at0 c with kernels := [(0, { kern with clLen := 65536, children := 2, launched := 1 })] }

/-- A signal update on its way to byte 8 of that share. -/
def update : Sig := { id := 9, ctx := 0, loc := clLoc 0 8, add := true, val := 5#64, due := 101 }

/-- A write to device 5, and the small states of which it stands in a link queue. -/
def sentWr : Wr := ⟨7, remoteLoc 5 0, 8, 1⟩

def linked0 (c : Ctx) : State := { shared0 { c with outbox := [sentWr] } with links := [(5, [{ cmd := 3, wr := sentWr }])] }

theorem test_hyp_signals :
    let s := shared0 { sr := [(1, 0x2000000000000008#64)] }
    s.Runs 0#3 ∧ scopeLevel .sys = some 3 ∧ scopeLevel .core = none ∧
    (s.publishCtx s.cur .core).signalHome 0 0 .add (s.me.s 1#6) = some (clLoc 0 8) ∧
    (s.publishCtx s.cur .core).signalHome 0 0 .store (s.me.s 2#6) = none ∧
    ({ s with sigs := [update] } : State).sigs.find? (fun y => y.id == 9) = some update ∧
    (∀ y ∈ ({ s with sigs := [update] } : State).sigs, y.ctx = update.ctx → y.loc = update.loc → update.id ≤ y.id) ∧ s.deadChs = [] ∧
    s.undelivered s.me.outbox = false ∧ (linked0 {}).undelivered (linked0 {}).me.outbox = true :=
  ⟨.inl rfl, by decide⟩

theorem test_hyp_signalWaits :
    let s := shared0 { sr := [(1, 0x2000000000000008#64)] }
    let w (v : BitVec 64) : State := shared0 { pend := .swait .cluster 4#6 0x2000000000000008#64 v 50 0 90 }
    s.Runs 0#3 ∧ s.signalHome 0 0 .wait (s.me.s 1#6) ≠ none ∧ s.signalHome 0 0 .wait (s.me.s 2#6) = none ∧
    ((w 0#64).ctx 0).pend = .swait .cluster 4#6 0x2000000000000008#64 0#64 50 0 90 ∧ Live (w 0#64) 0 ∧ 90 ≤ (w 0#64).cycle ∧
    (w 0#64).signalHome 0 0 .wait 0x2000000000000008#64 = some (clLoc 0 8) ∧ 0 ≤ (w 0#64).homeValue (clLoc 0 8) ∧
    (w 1#64).homeValue (clLoc 0 8) < (1#64).toNat ∧ 50 ≠ 0 ∧ 0 + 50 ≤ ({ w 1#64 with scht := 50 } : State).scht :=
  ⟨.inl rfl, by decide, by decide, by decide, by unfold Live; decide, by decide⟩

theorem test_hyp_children :
    let s := shared0 {}
    let x := { s with kernels := [(0, { kern with expo := some 3 })] }
    s.Runs 0#3 ∧ (s.kernel 0).launched < (s.kernel 0).children ∧ (x.kernel 0).children ≤ (x.kernel 0).launched ∧
    (x.kernel 0).expo = some 3 ∧ (s.kernel 0).expo = none ∧ s.undelivered s.me.outbox = false ∧
    (linked0 {}).undelivered (linked0 {}).me.outbox = true :=
  ⟨.inl rfl, by decide⟩

/-! ### Hypotheses: steps of the core -/

/-- A decoder's answer is this one. -/
def reads {α ε : Type} [DecidableEq α] (x : α) : Except ε α → Bool
  | .ok y => decide (x = y)
  | .error _ => false

/-- The bundle ADD S8 = S4 + S12, alone, in a fetch line at 256. -/
def addWord : Nat := 0xA0000001 + 0x0002043000000000 * 2 ^ 32

/-- One running context whose next bundle is that one, with nothing else to do before it. -/
def ready1 (w : Nat) : State :=
  { State.reset with
    cycle := 101, ctxs := [(5, { life := .running, pc := 256, fq := [⟨256, false, w, false⟩], fetchAt := 200 })]
    kernels := [(0, kern)] }

def addBundle : Bundle := ⟨headerRaw 0xA0000001, [(.x, .add 0#3 8#6 4#6 (.reg 12#6))]⟩

theorem test_hyp_steps :
    let s := ready1 addWord
    let c := s.ctx 5
    let r := s.setIssue 5 addBundle
    s.issued = false ∧ (firstDue beforeIssue s).isNone = true ∧ s.ctxs = [(5, c)] ∧ c.readyAt ≤ s.cycle ∧ c.pend = .none ∧ c.hdrRead = none ∧ c.loop = none ∧
    c.fq = [⟨256, false, addWord, false⟩] ∧ c.pc % 4 = 0 ∧ c.pc < 2 ^ 64 ∧ 256 = c.pc / 256 * 256 ∧ c.pc % 256 + addBundle.hdr.len ≤ 256 ∧
    addBundle.hdr = headerRaw (addWord / 256 ^ (c.pc % 256) % 2 ^ 32) ∧ reads addBundle (decodeBundle addWord) = true ∧
    (Instr.add 0#3 8#6 4#6 (.reg 12#6)).guard ≠ none ∧
    after (.add 0#3 8#6 4#6 (.reg 12#6)) { r with iss := { r.iss with slot := 0 } } (fun t =>
      t.iss.trapped == none && !t.iss.blocked) = true ∧
    after (.trap 0#3 (.imm 7#32)) { r with iss := { r.iss with slot := 0 } } (fun t => t.iss.trapped != none) = true ∧
    after (.mrun 0#3 0#8 0#2 false 0#12 0#8) (running rout (withEntry (at0 {}))) (fun t =>
      t.iss.trapped == none && t.iss.blocked && t.iss.mread == none) = true := by
  decide +kernel

/-- A slot that names a lent bank traps; one of them has a wait that comes before (R424). -/
theorem test_hyp_lentSteps :
    let lent (t : State) : Bool := t.iss.trapped.any (fun x => x.code == 0x06 && x.cause == 0x02)
    let s := at0 { lent := 1#16 }
    let w : State := { at0 { lent := 1#16, sp := { depth := 65000, lim := 100 } } with iss := { pc := 64, len := 12, depth0 := 65000 } }
    after (.vadd (vf .fp32)) s lent = true ∧ (s.unlent (.vadd (vf .fp32))).isSome = true ∧
    after (.raddf (vf .fp32)) w lent = true ∧ (w.unlent (.raddf (vf .fp32))).isNone = true := by
  decide +kernel

/-- A routine whose next micro-word, of the store at word 0, acts in this cycle. -/
theorem test_hyp_microSteps :
    let s : State := { State.reset with cycle := 101, cores := [(0, { routine := some rout })], clusters := [(0, { store := [(0, 0x20000000#32)] })] }
    s.issued = false ∧ (firstDue (beforeIssue.take 5) s).isNone = true ∧ rout.at_ ≤ s.cycle ∧ rout.pc < rout.len ∧
    reads (.mac 0#3) (decodeMicro (mget 0#32 (s.cluster (coreCluster 0)).store ((rout.start + rout.pc) % 2048)).toNat) = true := by
  decide +kernel

/-- Two running contexts of a core, each with its next bundle in its fetch queue. -/
def two (a b : Nat) (wa wb : Nat) (ya : Bool) : State :=
  let c (h w k : Nat) (y : Bool) : Ctx :=
    { life := .running, hw := h, pc := 256, fq := [⟨256, false, w, false⟩], fetchAt := 200, wait := k, yielded := y }
  { State.reset with cycle := 101, ctxs := [(5, c 0 a wa ya), (6, c 1 b wb false)], kernels := [(0, kern)] }

/-- A FENCE at CTX, alone: it shares no slot with the ADD. -/
def fenceWord : Nat := 0xA0000080

theorem test_hyp_sharing :
    let issues (s : State) (u : Nat) : Bool := match s.plan u with | .issues .. => true | _ => false
    let shares (s : State) (u v : Nat) : Bool := match s.plan u, s.plan v with
      | .issues t m .., .issues _ n .. => m &&& n != 0#8 || (match t.plan v with | .issues .. => false | _ => true)
      | _, _ => true
    let s := two addWord addWord 0 0 false
    issues s 5 = true ∧ issues s 6 = true ∧ shares s 5 6 = true ∧ issues (two addWord addWord 0 0 true) 5 = true ∧
    shares (two addWord fenceWord 0 0 false) 5 6 = false ∧ shares (two addWord fenceWord 0 70 false) 6 5 = false := by
  decide +kernel

def frozen0 (c : Ctx) : State := { State.reset with cycle := 110, ctxs := [(0, { c with life := .frozen, frozenAt := 105 })] }

/-- A scalar result issued in cycle 104 and due in 106, and two entries of a contact sheet. -/
def late : Res := { ctx := 0, due := 106, issued := 104, slot := 0, val := .s 3 7, flags := 0#7 }
def older : SheetEntry := ⟨1, 2, 0, .s 3 7, 0#7⟩
def younger : SheetEntry := ⟨1, 1, 0, .s 3 9, 1#7⟩

theorem test_hyp_sheets :
    let s := { frozen0 {} with inflight := [late] }
    let t := { at0 { sheet := [younger, older], resumeAt := 99 } with issued := true }
    let v := { at0 { sheet := [⟨1, 1, 0, .v 5 1 1 .i8, 0#7⟩], resumeAt := 99 } with issued := true }
    s.ends = [] ∧ late.due ≤ s.cycle ∧ late.isLatch = false ∧ (s.ctx 0).life = .frozen ∧
    t.issued = true ∧ Live t 0 ∧ younger.age < older.age ∧ (t.ctx 0).sheet = [younger, older] ∧
    (t.ctx 0).resumeAt + younger.off ≤ t.cycle ∧ (v.ctx 0).resumeAt + 1 ≤ v.cycle ∧
    v.cycle < ({ v with ctxs := [(0, { v.ctx 0 with resumeAt := 100 })] } : State).cycle + 1 :=
  by unfold Live; decide

theorem test_hyp_fetches :
    let s := at0 { pc := 260 }
    let t := at0 { pc := 260, fq := [⟨256, false, 0, false⟩] }
    let f := at0 { pc := 260, fq := List.replicate 4 ⟨256, false, 0, false⟩ }
    (s.ctx 0).life = .running ∧ (s.ctx 0).resumeAt ≤ s.cycle + 1 ∧ (s.ctx 0).fetchAt ≤ s.cycle ∧ (f.ctx 0).fq.length = 4 ∧
    (t.ctx 0).fq.length < 4 ∧ (256 + 256) % 2 ^ 64 = 512 ∧ 256 = (s.ctx 0).pc / 256 * 256 ∧
    windowPa kern.windows 0 256 ≠ none ∧ windowPa [] 0 256 = none := by decide

theorem test_hyp_routineFaults :
    let s := { running rout (at0 {}) with cycle := 17000 }
    let t := at0 { rfault := some (0x0D, 0x06, 3, 90) }
    (s.core 0).routine = some rout ∧ rout.issued + 16385 ≤ s.cycle ∧ (∀ e ∈ s.cores, e.1 = 0) ∧
    (t.ctx 0).rfault = some (0x0D, 0x06, 3, 90) ∧ 90 < t.cycle ∧ Live t 0 ∧ (∀ e ∈ t.ctxs, e.1 = 0) ∧ (t.ctx 0).readyAt ≤ t.cycle ∧
    (t.ctx 0).pend = .none ∧ (t.ctx 0).hdrRead = none :=
  by unfold Live; decide

theorem test_hyp_spoilMoves :
    let sp (d f : Nat) (b : Bool) : Spoil := { depth := d, spill := f, lim := 100, bank := 2, move := some (b, 100) }
    let s := at0 { sp := sp 50000 600 true }
    let t := at0 { sp := sp 600 600 false }
    (∃ c, s.ctxs = [(0, c)]) ∧ Live s 0 ∧ 100 ≤ s.cycle ∧ (s.ctx 0).sp.move = some (true, 100) ∧ 2 ∉ s.usedBanks 0 ∧ 2 ∉ s.feedBanks 0 ∧
    mget 0 (s.core 0).engAt 2 ≤ s.cycle ∧ (s.ctx 0).sp.pay = [] ∧
    (49152 < (s.ctx 0).sp.depth - (s.ctx 0).sp.spill ∧ (s.ctx 0).sp.spill < 512 * 100) ∧
    (t.ctx 0).sp.move = some (false, 100) ∧ (t.ctx 0).sp.depth - (t.ctx 0).sp.spill < 16384 ∧ 0 < (t.ctx 0).sp.spill :=
  ⟨⟨_, rfl⟩, by unfold Live; decide, by decide⟩

/-- A command of context 0 on tag 5. -/
def cmd0 (j : Job) : Cmd :=
  { id := 9, job := j, opc := 0, ctx := 0, kernel := 0, asid := 0, core := 0, hw := 0, tag := 5, aq := none, rl := none, prof := 0
    words := [], ch := 0, bank := 1, off := 0, issued := 0, tick := 0 }

theorem test_hyp_orders :
    let w : Wr := ⟨7, 0, 8, 1⟩
    let s := { at0 {} with orders := [(0, [w])] }
    let c := cmd0 (.cpy true false)
    0 < 131 ∧ (at0 {}).order 0 = [] ∧ s.order 0 = [] ++ w :: [] ∧ w.n ≠ 0 ∧ (∀ x ∈ s.order (domainParent 0), x.id ≠ w.id) ∧
    scopeLevel .cluster = some 0 ∧ (s.ctx 0).life ≠ .unbound ∧ ({ s with cmds := [(9, some c)] } : State).cmd? c.id = some c := by decide

/-! ### Hypotheses: pre-emption and benches -/

/-- Two queues, the second of higher priority with a launch of one core with four contexts at its head, where the first queue's
kernel holds a context of each core of the one bench that is left. -/
def headWords1 : List Nat := [0, 2 ^ 36, 0, 0, 0, 0, 0, 0, 1 + 2 ^ 10 + 4 * 2 ^ 12, 0, 0, 0, 4096, 4096, 4096, 4096, 0, 0, 0, 0]

def crowded : State :=
  { State.reset with
    cycle := 100
    ctxs := (List.range 64).map (fun k => (k, { life := .running, core := k }))
    kernels := [(0, kern)]
    benches := [(1, { retired := true }), (2, { retired := true }), (3, { retired := true })]
    hqs := [(1, { cfg := 0x301#64, launch := some (headWords1, 0) })] }

theorem test_hyp_freezes :
    let s := at0 {}
    let f := at0 { pre := .at_ 100 }
    let z : State := { frozen0 { releaseAt := 108 } with cycle := 117 }
    let r : State := { frozen0 { released := true } with benches := [(0, { powered := true })] }
    let e : State := { r with evicted := [(0, some (0, [(3, 7#4096)]))] }
    Live s 0 ∧ Live f 0 ∧ ((s.ctx 0).pre = .none ∧ ∀ e ∈ s.ctxs, e.1 = 0) ∧
    (f.issued = false ∧ (f.ctx 0).pre = .at_ 100 ∧ 100 ≤ f.cycle ∧ (f.ctx 0).pend = .none ∧ (f.ctx 0).doomed = false ∧
      (f.ctx 0).hdrRead = none) ∧
    ((z.ctx 0).life = .frozen ∧ (z.ctx 0).released = false ∧ (z.ctx 0).lost = false ∧ (z.ctx 0).releaseAt ≤ z.cycle ∧
      (z.ctx 0).frozenAt + 12 ≤ z.cycle ∧ z.deadChs = [] ∧
      ((z.kernel (z.ctx 0).kernel).saveArea + 1280 * 1024 * (z.ctx 0).worker) % 4096 = 0 ∧ paLoc z.ncc 0 = some 0 ∧
      (paLoc z.ncc 0x3140).isSome = true) ∧
    ((r.ctx 0).life = .frozen ∧ r.canResume 0 = true ∧ r.cycle < 111 ∧ (mget none r.evicted 0).map Prod.fst ≠ some 0) ∧
    (e.canResume 0 = true ∧ mget none e.evicted 0 = some (0, [(3, 7#4096)])) := by
  refine ⟨?_, ?_, ?_⟩ <;> first | decide | (unfold Live; decide)

theorem test_hyp_priority :
    crowded.wantsContexts 1 = true ∧ crowded.victim 1 = some 63 ∧ (crowded.ctx 63).life = .running ∧
    (crowded.ctx 63).pre = .none := by decide +kernel

/-- A bench of die 0 that is on, and the three others off. -/
def oneOn : State := { at0 {} with benches := [(0, { powered := true })] }

theorem test_hyp_benches :
    let z : State := { State.reset with benches := [(0, { powered := true })] }
    let fed : State := { at0 { q := [(12, { ring with infl := 1 })] } with benches := [(0, { powered := true })] }
    (at0 {}).Keyed ∧
    ((oneOn.bench 0 0).retired = false ∧ coreDie ((at0 {}).ctx 0).core = 0 ∧ coreBench ((at0 {}).ctx 0).core = 0 ∧
      ((at0 {}).ctx 0).life = .running ∧ ((at0 {}).ctx 0).lost = false ∧ ¬ coreBench ((at0 { core := 64 }).ctx 0).core = 0) ∧
    ((oneOn.bench 0 0).powered = true ∧ (oneOn.bench 0 0).throttled = false ∧
      (∀ b, b < 4 → 0 < b → (oneOn.bench 0 b).powered = false) ∧ (∀ b, b < 1 → (oneOn.bench 0 b).powered = true)) ∧
    (∀ g, g < 64 → z.residents g = [] ∧ z.kernelsOn g = []) ∧
    (0 ∈ fed.benchCtxs 0 0 ∧ (fed.ctx 0).still = false) := by
  refine ⟨by unfold State.Keyed; decide, by decide, by decide, by decide +kernel, by decide +kernel⟩

/-! ### Hypotheses: commands -/

/-- One command, at the head of its queue or on its way, with the kernel of the small states and a die share of 64 KiB. -/
def withCmd (c : Cmd) : State :=
  { at0 { tagPend := 0x20#64 } with kernels := [(0, { kern with dieLen := 65536 })], cmds := [(c.id, some c)] }

/-- A copy of two rows of 64 bytes between bank 1 and the die share. -/
def copy0 (ld : Bool) (w0 ch : BitVec 64) : Cmd := { cmd0 (.cpy ld false) with words := [w0], ch := ch }

/-- CH of two rows of 64 bytes, one after the other on both sides. -/
def twoRows : BitVec 64 := BitVec.ofNat 64 (2 * 2 ^ 52 + 1 * 2 ^ 39 + 1 * 2 ^ 14 + 1)

theorem test_hyp_copyStarts :
    let c (ld : Bool) (w0 : BitVec 64) : Cmd := copy0 ld w0 twoRows
    let s := withCmd (c true 0x1000000000000000#64)
    let far : State := { s with fabcfg := BitVec.ofNat 64 (2 ^ 19 + 9 * 2 ^ 10) }
    let g (ib : Nat) : Cmd := { c true 0x1000000000000000#64 with job := .cgath ib }
    let p : Cmd := { c false 0x1000000000000000#64 with job := .cpair, words := [0x1000000000000000#64, 0x1000000000000000#64] }
    let t (e : TEntry) : Cmd := { cmd0 (.cpyt true e) with words := [] }
    let m (w0 w1 : BitVec 64) : Cmd := { cmd0 (.cmig true 0) with words := [w0, w1] }
    (s.cmds = [(9, some (c true 0x1000000000000000#64))] ∧ coreCluster 0 = 0 ∧ s.cycle % 2 = 0 ∧ mget 0 s.ceNext 0 ≤ s.cycle) ∧
    (∀ ld, (c ld 0x3000000000000000#64).stage = .queued ∧ (c ld 0x3000000000000000#64).due ≤ s.cycle ∧
      s.memSide (c ld 0x3000000000000000#64) 0x3000000000000000#64 = none ∧
      s.memSide (c ld 0x1000000000000000#64) 0x1000000000000000#64 = some (.share (dieLoc 0 0) 65536, 0) ∧
      s.memSide (c ld 0x1000000000000004#64) 0x1000000000000004#64 = some (.share (dieLoc 0 0) 65536, 4) ∧
      s.memSide (c ld 0#64) 0#64 = some (.virt, 0)) ∧
    (twoRows.toNat / 2 ^ 39 % 2 ^ 13 ≤ 4096 ∧ twoRows.toNat / 2 ^ 52 = 2 ∧
      4096 < (BitVec.ofNat 64 (5000 * 2 ^ 39)).toNat / 2 ^ 39 % 2 ^ 13 ∧ (0 < 2 ∧ 65536 < 65472 + 64 * 1 * 0 + 128)) ∧
    (addrWord 0x4028000000000000#64 = .fabric 5 0 0) ∧
    (s.fabEn = false ∧ far.fabEn = true ∧ far.fabMax = 9 ∧ far.fabId = 0 ∧ far.livePlanes ≠ [] ∧
      ({ far with ports := (List.range 32).map (fun p => (p, { retired := true })) } : State).livePlanes = []) ∧
    ((g 2).job = .cgath 2 ∧ 2 ≠ (g 2).bank ∧ 1 = (g 1).bank) ∧
    (p.job = .cpair ∧ twoRows.toNat / 2 ^ 12 % 4 = 0 ∧ 64 * 1 / 2 ^ 0 = 64 ∧ ¬ 64 * 1 < 2 ^ 0 * 2 ∧
      (BitVec.ofNat 64 (2 ^ 12 * 3)).toNat / 2 ^ 12 % 4 = 3) ∧
    ((t {}).job = .cpyt true {} ∧ ({} : TEntry).kind = 0 ∧ ({ kind := 4, loc := 4#64 } : TEntry).loc.toNat % 64 ≠ 0 ∧
      ({ kind := 4, rank := 0 } : TEntry).refused.isSome = true ∧
      ({ kind := 2, rank := 1, ext := [64, 1, 1, 1], str := [1, 0, 0, 0], fmt := .i8 } : TEntry).refused = none ∧
      (t { kind := 2, rank := 1, ext := [64, 1, 1, 1], str := [1, 0, 0, 0], fmt := .i8 }).moveCount = 1 ∧
      s.outside7 (t { kind := 2, rank := 1, ext := [64, 1, 1, 1], str := [1, 0, 0, 0], fmt := .i8 }) = false) ∧
    (addrWord ((m 4096#64 4096#64).word 0) = .virt 4096 ∧ addrWord ((m 1#64 4096#64).word 0) = .virt 1 ∧
      ((m 4096#64 4096#64).word 1).toNat % 4096 = 0 ∧ s.walk 0 4096 = .absent) ∧
    (Job.nmdot.isNm = true ∧ (withCmd (cmd0 .nmdot)).unitFull ((withCmd (cmd0 .nmdot)).unitOf (cmd0 .nmdot)) = false) := by
  decide +kernel

/-- A page of 1 GiB at virtual address 0, with every right, and a table of one entry above it. -/
def mapped (pte : Nat) (s : State) : State :=
  { s with roots := [(0, some 4096)], mem := writeRun (writeRun [] (2 ^ 31) 8 (8192 + 1)) (2 * 2 ^ 31) 8 pte }

/-- Under a table whose first entries lead to a leaf at level 2, each address of the first GiB is walked as address 0 is. -/
theorem walk_low (s : State) (a r x : Nat) (hr : mget none s.roots a = some r) (hx : x < 2 ^ 30)
    (hl : pteLeaf (s.readPa (ptePa (s.readPa r 8)) 8) = true) (h0 : pteLeaf (s.readPa r 8) = false) : s.walk a x = s.walk a 0 := by
  have h1 : x / 549755813888 = 0 := Nat.div_eq_of_lt (by omega)
  have h2 : x / 1073741824 = 0 := Nat.div_eq_of_lt (by omega)
  unfold State.walk
  rw [hr]
  simp [walkFrom, h1, h2, hl, h0]

/-- A migration to host memory of the page at 4096, which is there already, is pinned, or has a malformed entry. -/
theorem test_hyp_migrationStarts :
    let m : Cmd := { cmd0 (.cmig true 0) with words := [4096#64, 4096#64] }
    let s (pte : Nat) : State := mapped pte (withCmd m)
    (∀ x, 4096 ≤ x → x < 4096 + 4096 → (s (71 + 2 ^ 59)).walk 0 x = .leaf (71 + 2 ^ 59) 0 (2 ^ 30)) ∧
    (∀ x, 4096 ≤ x → x < 4096 + 4096 → (s (71 + 2 ^ 62)).walk 0 x = .leaf (71 + 2 ^ 62) 0 (2 ^ 30)) ∧
    pteHost (71 + 2 ^ 59) = true ∧ pteHost (71 + 2 ^ 62) = false ∧ (s (71 + 2 ^ 62)).pagePinned (71 + 2 ^ 62) (2 ^ 30) = true ∧
    (s (71 + 8)).walk 0 4096 = .malformed := by
  refine ⟨fun x _ h => ?_, fun x _ h => ?_, by decide, by decide, by decide +kernel, by decide +kernel⟩
  · rw [walk_low _ 0 4096 x (by decide +kernel) (by omega) (by decide +kernel) (by decide +kernel)]; decide +kernel
  · rw [walk_low _ 0 4096 x (by decide +kernel) (by omega) (by decide +kernel) (by decide +kernel)]; decide +kernel

/-- A running copy. -/
def copying (ld : Bool) (w0 : BitVec 64) : Cmd := { copy0 ld w0 twoRows with stage := .running }

/-- Its next transfer is a row of 64 bytes at the start of the memory side. -/
theorem copy_row (c : Cmd) (ld mc : Bool) (s : State) (m : MemSide) (h : c.job = .cpy ld mc) (h0 : c.run.move = 0)
    (hr : 0 < c.ch.toNat / 2 ^ 52) (hl : c.ch.toNat / 2 ^ 39 % 2 ^ 13 = 1) (hm : s.memSide c (c.word 0) = some (m, 0)) :
    CopyMove s c m 0 64 (fun p => c.off + 64 * (c.ch.toNat % 2 ^ 12) * c.run.move + p) := by
  unfold CopyMove
  rw [h]
  refine ⟨by rw [h0]; exact hr, 0, hm, by rw [h0]; simp, by rw [hl], rfl⟩

theorem test_hyp_copyMoves :
    (∃ pad, CopyMove (withCmd (copying true 0x1000000000000000#64)) (copying true 0x1000000000000000#64)
      (.share (dieLoc 0 0) 65536) 0 64 pad) ∧
    (∃ pad, CopyMove (mapped 71 (withCmd (copying false 0#64))) (copying false 0#64) .virt 0 64 pad) ∧
    (∃ pad, CopyMove (withCmd (copying true 0x4028000000000000#64)) (copying true 0x4028000000000000#64)
      (.remote (remoteLoc 5 (0 * 2 ^ 43))) 0 64 pad) :=
  ⟨⟨_, copy_row _ _ _ _ _ rfl rfl (by decide +kernel) (by decide +kernel) (by decide +kernel)⟩,
    ⟨_, copy_row _ _ _ _ _ rfl rfl (by decide +kernel) (by decide +kernel) (by decide +kernel)⟩,
    ⟨_, copy_row _ _ _ _ _ rfl rfl (by decide +kernel) (by decide +kernel) (by decide +kernel)⟩⟩

theorem test_hyp_copyAccesses :
    let c := copying true 0x1000000000000000#64
    let v := copying false 0#64
    let s := withCmd c
    let m (pte : Nat) : State := mapped pte (withCmd v)
    (s.cmds = [(9, some c)] ∧ coreCluster c.core = 0 ∧ c.stage = .running ∧ c.due ≤ s.cycle ∧
      (∀ b ∈ s.accessBanks c, s.bankFree b.1 b.2 = true) ∧ s.poison = [] ∧ s.deadChs = [] ∧ s.tlbs = [] ∧ s.evicted = [] ∧
      (s.bench (coreDie c.core) (coreBench c.core)).retired = false ∧ c.run.pos < 64) ∧
    ((s.kernel c.kernel).slotOwner s.cycle = coreBench c.core ∧ (s.cluster 0).busAt ≤ s.cycle ∧ s.k1Now 0 = [] ∧ s.accessBanks c ≠ []) ∧
    (({ kern with slots := List.replicate 16 1 } : Kernel).slotOwner 100 ≠ coreBench c.core ∧
      s.cycle < (({ s with clusters := [(0, { busAt := 101 })] } : State).cluster 0).busAt ∧
      ({ s with clusters := [(0, { k1 := (100, [(0, 0, 64, true)]) })] } : State).k1Now 0 ≠ [] ∧
      ({ s with cores := [(0, { engAt := [(1, 101)] })] } : State).bankFree 0 1 = false) ∧
    (v.stage ≠ .performed ∧ v.issued < (100 : Nat) ∧ 1 ∈ v.readsBanks ∧ stored.bank = 1 ∧ stored.core = v.core) ∧
    dieLoc 0 0 + 0 + 512 ≤ 2 ^ 39 + 2 ^ 30 ∧
    ((withCmd v).walk 0 0 = .absent ∧ (m (71 + 8)).walk 0 0 = .malformed ∧ (m 71).walk 0 0 = .leaf 71 0 (2 ^ 30) ∧
      pteHost 71 = false ∧ leafLoc (m 71).ncc 71 0 0 = some 0 ∧ pteW 71 = true ∧ pteW 67 = false ∧ (m 71).closedPage 71 (2 ^ 30) = false ∧
      pteMt 71 = 0 ∧ pteMt (71 + 3 * 2 ^ 60) = 3) ∧
    ((5 < 512 ∧ 1 * 2 ^ 43 + 0 + 512 < 2 ^ 64) ∧ s.portOpen 3 16 = true ∧
      ({ s with ports := [(3, { retrain := true })] } : State).portOpen 3 16 = false) := by
  decide +kernel

theorem test_hyp_headers :
    let e : TEntry := { kind := 4, rank := 1, ext := [64, 1, 1, 1], str := [1, 0, 0, 0], fmt := .e4m3, mx := true }
    let c : Cmd := { cmd0 (.cpyt false e) with stage := .running }
    let s : State := mapped 71 (withCmd c)
    let g : Cmd := { copying true 0x1000000000000000#64 with job := .cgath 2 }
    let x (d : Nat) : Nat := if d < e.rank then (e.ext[d]?).getD 1 else 1
    (s.cmds = [(9, some c)] ∧ c.stage = .running ∧ c.due ≤ s.cycle ∧ s.poison = [] ∧ s.deadChs = [] ∧ s.tlbs = []) ∧
    (e.kind = 4 ∧ c.run.move = 0 ∧ c.run.pos = 0 ∧ e.loc.toNat < 2 ^ 48 ∧ e.loc.toNat % 64 = 0 ∧ 1 ≤ e.rank ∧ e.rank ≤ 4 ∧
      s.walk c.asid e.loc.toNat = .leaf 71 0 (2 ^ 30) ∧ leafLoc s.ncc 71 0 0 = some 0 ∧ s.closedPage 71 (2 ^ 30) = false ∧ pteMt 71 < 2) ∧
    (x e.kd + 31) / 32 * (x 0 * x 1 * x 2 * x 3 / x e.kd) ≠ 0 ∧
    ((withCmd g).bankFree g.core 2 = true ∧ g.off % 64 = 0 ∧ g.run.idx.length < g.ch.toNat / 2 ^ 52 ∧ g.older = []) ∧
    (s.kernel 0).slotOwner s.cycle = coreBench 0 ∧ (s.cluster 0).busAt ≤ s.cycle ∧ s.k1Now 0 = [] := by
  decide +kernel

/-- The first row of a CPAIR whose bank holds a poisoned unit. -/
theorem test_hyp_pairs :
    let c : Cmd := { copying false 0x1000000000000000#64 with job := .cpair, words := [0x1000000000000000#64, 0x1000000000000000#64] }
    let s : State := { withCmd c with poison := [unitLoc 0 1 0 / 64] }
    (∃ pad, CopyMove s c (.share (dieLoc 0 0) 65536) 0 64 pad ∧ s.unitBad (unitLoc c.core c.bank (pad c.run.pos % 2 ^ 18)) = true) ∧
    s.cmds = [(9, some c)] ∧ c.run.pos < 64 ∧ s.bankFree c.core c.bank = true ∧ (s.kernel 0).slotOwner s.cycle = coreBench 0 ∧
    (s.cluster 0).busAt ≤ s.cycle ∧ s.k1Now 0 = [] ∧ s.deadChs = [] ∧ dieLoc 0 0 + 0 + 64 ≤ 2 ^ 39 + 2 ^ 30 := by
  refine ⟨⟨fun p => 0 + 64 * 1 * 0 + p, ⟨fun _ => ⟨by decide, 0, by decide +kernel, by decide, by decide, rfl⟩, fun h => absurd h (by decide)⟩,
    by decide +kernel⟩, ?_⟩
  decide +kernel

theorem test_hyp_commandEnds :
    let c (rl : Option Scope) : Cmd := { cmd0 (.cpy true false) with stage := .performed, rl := rl, outbox := [⟨3, 0, 8, 1⟩] }
    (withCmd (c none)).cmd? 9 = some (c none) ∧ (c none).due ≤ 100 ∧ (c none).tag < 64 ∧ (c (some .core)).rl = some .core ∧
    scopeLevel .core = none ∧ scopeLevel .sys = some 3 ∧ (withCmd (c (some .sys))).cmd? 9 = some (c (some .sys)) ∧
    (withCmd (c (some .sys))).undelivered (c (some .sys)).outbox = false ∧
    (let u : State := { withCmd (c none) with ctxs := [(0, { life := .frozen, released := true, tagPend := 0x20#64 })] }
     (u.ctx 0).released = true ∧ u.deadChs = [] ∧ u.recordPa 0 % 4096 = 0 ∧ (paLoc u.ncc (u.recordPa 0 + 0x3150 + 8 * 5)).isSome = true) := by
  decide +kernel

/-- A search that finds no page has passed over each. -/
theorem find_none (p : Nat → Bool) (n : Nat) : ∀ k i, findPage p n k i = none → ∀ j, j < k → p ((i + j) % n) = false := by
  intro k
  induction k with
  | zero => intro i _ j hj; omega
  | succ k ih =>
    intro i h j hj
    unfold findPage at h
    split at h
    · cases h
    · rcases j with _ | j
      · simpa using ‹¬ p (i % n) = true›
      · have := ih (i + 1) h j (by omega)
        rwa [show i + 1 + j = i + (j + 1) by omega] at this

/-- A search over all pages finds one where one passes. -/
theorem find_some (p : Nat → Bool) (n i k : Nat) (hk : k < n) (hp : p k = true) : (findPage p n n i).isSome = true := by
  rcases h : findPage p n n i with _ | x
  · have hn : 0 < n := by omega
    have hi : i % n < n := Nat.mod_lt _ hn
    have := find_none p n n i h ((k + n - i % n) % n) (Nat.mod_lt _ hn)
    rw [Nat.add_mod_mod, show i + (k + n - i % n) = n * (i / n + 1) + k by have := Nat.div_add_mod i n; rw [Nat.mul_add]; omega,
      Nat.mul_add_mod, Nat.mod_eq_of_lt hk, hp] at this
    cases this
  · rfl

/-- A migration to host memory of two pages; a page of 4 KiB would find a place there. -/
def moving (j : Job) (st : Stage) : Cmd := { cmd0 j with stage := st, pages := [4096, 8192] }

/-- Where a search over the pages of host memory finds one, it is the new page; a target of less than a page has none. -/
theorem new_some (s : State) (size : Nat) (h : (findPage (fun i => s.pageFree s.namedRanges true size (i * size)) (2 ^ 52 / size)
    (2 ^ 52 / size) (s.free % (2 ^ 52 / size))).isSome = true) : ∃ new, s.newPage true size = some new := by
  obtain ⟨x, hx⟩ := Option.isSome_iff_exists.mp h
  exact ⟨x * size, by simp only [State.newPage, if_true, hx, Option.map_some]⟩

theorem new_none (s : State) (size : Nat) (h : 2 ^ 29 * (1024 - s.ncc) / size = 0) : s.newPage false size = none := by
  simp only [State.newPage, Bool.false_eq_true, if_false, h, findPage, Option.map_none]

/-- A page of 4 KiB at virtual address 4096, below tables of one entry each. -/
def mapped4 (pte : Nat) (s : State) : State :=
  { s with
    roots := [(0, some 4096)]
    mem := writeRun (writeRun (writeRun (writeRun [] (2 ^ 31) 8 (8192 + 1)) (2 * 2 ^ 31) 8 (12288 + 1)) (3 * 2 ^ 31) 8 (16384 + 1))
      (4 * 2 ^ 31 + 8) 8 pte }

def smallPage : State := mapped4 (2 ^ 20 + 71) (withCmd (moving (.cmig true 10) .moving))

def noRoom : State := { mapped (2 ^ 59 + 71) (withCmd (moving (.cmig false 10) .moving)) with ncc := 1023 }

theorem test_hyp_pageMoves :
    (smallPage.walk 0 4096 = .leaf (2 ^ 20 + 71) 4096 4096 ∧ pteHost (2 ^ 20 + 71) = false ∧ smallPage.pagePinned (2 ^ 20 + 71) 4096 = false ∧
      (smallPage.blockOf (2 ^ 20 + 71) 4096).2 = 4096) ∧
    (noRoom.walk 0 4096 = .leaf (2 ^ 59 + 71) 0 (2 ^ 30) ∧ pteHost (2 ^ 59 + 71) = true ∧ noRoom.pagePinned (2 ^ 59 + 71) (2 ^ 30) = false ∧
      (noRoom.blockOf (2 ^ 59 + 71) (2 ^ 30)).2 = 2 ^ 30) := by
  decide +kernel

theorem test_hyp_newPage : (∃ new, smallPage.newPage true 4096 = some new) ∧ noRoom.newPage false (2 ^ 30) = none :=
  ⟨new_some smallPage 4096 (find_some (fun i => smallPage.pageFree smallPage.namedRanges true 4096 (i * 4096)) (2 ^ 52 / 4096)
    (smallPage.free % (2 ^ 52 / 4096)) 1 (by decide) (by decide +kernel)), new_none noRoom (2 ^ 30) (by decide)⟩

theorem test_hyp_faultsAndMigrations :
    let s (c : Cmd) : State := withCmd c
    let a := moving (.cpy true false) (.stalled 4096 true false)
    let b := moving (.coll 1) (.stalled 4096 true true)
    let g := moving (.cmig true 10) .moving
    ((s a).cmd? 9 = some a ∧ (s b).cmd? 9 = some b ∧ (s g).cmd? 9 = some g) ∧
    ((Job.coll 1).isColl = true ∧ (Job.cpy true false).isColl = false ∧ a.opc < 256 ∧ a.tag < 64 ∧ a.hw < 4 ∧ a.core < 512) ∧
    (4096 ∈ g.pages ∧ g.pages.filter (fun p => p != 4096) ≠ [] ∧ ([4096] : List Nat).filter (fun p => p != 4096) = [] ∧
      (s g).walk 0 4096 = .absent ∧ (mapped (71 + 8) (s g)).walk 0 4096 = .malformed ∧
      (mapped (71 + 2 ^ 59) (s g)).walk 0 4096 = .leaf (71 + 2 ^ 59) 0 (2 ^ 30) ∧ pteHost (71 + 2 ^ 59) = true ∧
      (mapped (71 + 2 ^ 62) (s g)).walk 0 4096 = .leaf (71 + 2 ^ 62) 0 (2 ^ 30) ∧ pteHost (71 + 2 ^ 62) = false ∧
      (mapped (71 + 2 ^ 62) (s g)).pagePinned (71 + 2 ^ 62) (2 ^ 30) = true) := by
  decide +kernel

/-! ### Hypotheses: near-memory units -/

/-- Entry 0 of stack 0, of generation 1: two MiB of channel 0, with every right. -/
def cap0 (filter : Bool) : Cap :=
  { valid := true, filter := filter, tick := true, tap := true, sample := true, dot := true, copy := true, gen := 1, len := 32768 }

def withCap (f : Bool) (c : Cmd) : State := { withCmd c with caps := [(0, cap0 f)] }

def word0 (off : Nat) : BitVec 64 := BitVec.ofNat 64 (2 ^ 32 + off)

theorem test_hyp_nearMemory :
    let c (j : Job) (st : Stage) (w : List (BitVec 64)) (ch : Nat) : Cmd := { cmd0 j with words := w, stage := st, ch := BitVec.ofNat 64 ch }
    let rows : Nat := 2 * 2 ^ 52 + 1 * 2 ^ 39 + 1 * 2 ^ 14
    let cp := c (.nmcopy 1) (.atUnit 0 1) [word0 0, word0 4096] rows
    let dot := c .nmdot (.atUnit 0 1) [word0 0, BitVec.ofNat 64 (64 + 5 * 2 ^ 20)] rows
    let s (x : Cmd) : State := withCap false x
    (s dot).cmds = [(9, some dot)] ∧ dot.due ≤ (s dot).cycle ∧ dot.ring.arr = none ∧
    dot.nm = {} ∧ cp.nm = {} ∧ ((s dot).bench (coreDie dot.core) (coreBench dot.core)).retired = false ∧
    (c .nmdot .sent [0#64] 0).left = [] ∧ (s dot).staleCap 0#64 = true ∧ (s dot).staleCap (word0 0) = false ∧
    (s dot).capChan (word0 0) = 0 ∧ 0 ∉ (s dot).deadChs ∧ 0 ∈ ({ s dot with deadChs := [0] } : State).deadChs ∧
    ({ c (.ftick 2 1) .sent [word0 0, word0 0] 0 with left := [1] } : Cmd).left = 1 :: [] ∧
    (s cp).nmcopyChecks cp 1 = none ∧ cp.rows ≠ 0 ∧ cp.rlen ≠ 0 ∧ ((s cp).capOf (cp.word 0)).ch < 32 ∧
    ((s cp).capOf (cp.word 0)).base < 2 ^ 25 ∧ (s cp).poison = [] ∧ (s cp).deadChs = [] ∧
    (s dot).nmdotChecks dot = none ∧ dot.rows ≠ 0 ∧ dot.dotBytes ≠ 0 ∧
    { cp with ch := 0#64 }.rows = 0 ∧ (s cp).nmcopyChecks { cp with ch := 0#64 } 1 = none ∧
    ((s cp).nmcopyChecks (c (.nmcopy 1) (.atUnit 0 1) [word0 0, word0 0] rows) 1).isSome = true ∧
    ((s dot).nmdotChecks (c .nmdot (.atUnit 0 1) [word0 4, word0 0] rows)).isSome = true ∧
    Job.ftap.isNm = true ∧ ((s dot).filterChecks (c .ftap (.atUnit 0 1) [word0 0, 1#64] 0)).isSome = true := by
  decide +kernel

/-- The accesses of an NMDOT of 300 lanes of N16 without accumulators: two that read, the second its last, and one that writes, each with
its bank free and in use; and the last of an FSAMP. -/
theorem test_hyp_nearAccesses :
    let w1 : BitVec 64 := BitVec.ofNat 64 (300 + 5 * 2 ^ 20 + 2 * 2 ^ 25)
    let c (j : Job) (w : BitVec 64) (nm : NmRun) : Cmd :=
      { cmd0 j with words := [word0 0, w], stage := .atUnit 0 1, ch := BitVec.ofNat 64 (2 * 2 ^ 52 + 10 * 2 ^ 39 + 10 * 2 ^ 14), nm := nm }
    let first := c .nmdot w1 { phase := .gather }
    let last := c .nmdot w1 { phase := .gather, got := 512 }
    let out := c .nmdot w1 { phase := .deliver, len := 8 }
    let samp := c (.fsamp .fp32) 2#64 { phase := .gather }
    let s (x : Cmd) : State := withCap (x.job == .fsamp .fp32) x
    let held (x : Cmd) (b : Nat) : State := { s x with cores := [(0, { engAt := [(b, 101)] })] }
    ∀ x ∈ [first, last, out, samp], (s x).cmds = [(9, some x)] ∧ x.due ≤ (s x).cycle ∧ x.left = [] ∧ x.ring.arr = none ∧ (s x).poison = [] ∧
      (s x).deadChs = [] ∧ ((s x).bench (coreDie x.core) (coreBench x.core)).retired = false ∧ x.nm.bad = false ∧
      (s x).bankFree x.core x.bank = true ∧ (s x).bankFree x.core 2 = true ∧ (held x x.bank).bankFree x.core x.bank = false ∧
      (held x 2).bankFree x.core 2 = false ∧ first.dotBytes = 600 ∧ first.nm.got + 512 < 600 ∧ 600 ≤ last.nm.got + 512 ∧ out.nm.put < out.nm.len ∧
      last.rows ≠ 0 ∧ ((s last).capOf (last.word 0)).ch < 32 ∧ ((s last).capOf (last.word 0)).base < 2 ^ 25 ∧
      (w1.toNat.testBit 24 = false) ∧ 0 < 2 * ETy.fp32.width / 8 ∧ 2 * ETy.fp32.width / 8 ≤ samp.nm.got + 512 := by
  decide +kernel

theorem test_hyp_cells :
    ({ fx := true } : Cap).fx = true ∧ ({ fx := false } : Cap).fx = false ∧
    ({} : Cell).stamp < 2 ^ 32 ∧ (1 ≤ 1 ∧ 1 + 1 < 2 ^ 32) := by decide

theorem test_hyp_filters :
    let c (j : Job) (w : List (BitVec 64)) : Cmd := { cmd0 j with words := w, stage := .atUnit 0 1 }
    let jobs : List Job := [.fsamp .fp32, .freset false, .freset true]
    let tap := c .ftap [word0 64, BitVec.ofNat 64 (2 + 2 ^ 17)]
    let tick := c (.ftick 1 9) [word0 0]
    let group := c (.ftick 2 9) [word0 0, BitVec.ofNat 64 (2 ^ 48 + 2 ^ 32)]
    let both (ch : Nat) : State := { withCap true group with caps := [(0, cap0 true), (1, { cap0 true with ch := ch, base := 32768 })] }
    0 < 2 ^ 32 ∧ (5 + 2 ^ 32 - 3) % 2 ^ 32 + 7 < 2 ^ 32 ∧
    (∀ j ∈ jobs, (withCap true (c j [word0 64, 2#64])).filterChecks (c j [word0 64, 2#64]) = none ∧
      (withCap true (c j [word0 64, 2#64])).filterCells (c j [word0 64, 2#64]) = [64, 96]) ∧
    tap.ring.arr = none ∧ tap.nm = {} ∧
    (withCap true (c (.fsamp .fp32) [word0 64, 0#64])).filterChecks (c (.fsamp .fp32) [word0 64, 0#64]) = none ∧
    (both 0).filterChecks group = none ∧ (∀ i, i < 2 → (both 0).capChan (group.word i) = 0) ∧
    (both 3).filterChecks group = none ∧ (both 3).capChan (group.word 1) = 3 ∧
    (withCap true tap).filterChecks tap = none ∧ ((withCap true tap).capOf (word0 64)).tapSize (parMask (tap.word 1).toNat) ≠ 0 ∧
    (withCap true tick).filterChecks tick = none ∧ 0 = (withCap true tick).capChan (tick.word 0) ∧
    ({ c (.ftick 2 9) [word0 0, word0 0] with left := [1] } : Cmd).left = 1 :: [] ∧
    ¬ 4096 < ((cap0 true).t + 2 ^ 32 - (cap0 true).lows) % 2 ^ 32 + 9 ∧
    4096 < (({ cap0 true with t := 4090 } : Cap).t + 2 ^ 32 - (cap0 true).lows) % 2 ^ 32 + 9 := by
  decide +kernel

/-! ### Hypotheses: collectives -/

/-- The descriptor of a ring of two: 256 elements, rank 0, PREV and NEXT on the device `id`, dies 1, no ready word, a timeout of 10
ticks. -/
def desc0 (ty id n : Nat) : List Nat := [256 + ty * 2 ^ 32, 2 + id * 2 ^ 18 + 2 ^ 27 + id * 2 ^ 28 + 2 ^ 37, 0, 0, 10 * 2 ^ 32 + 7, 0, 0, n]

def coll0 (op : Nat) (r : RingSt) : Cmd := { cmd0 (.coll op) with words := [0x1000000000000000#64], stage := .ring, ring := r }

/-- The fabric enabled; this device is 0, the last one 9. -/
def enabled (s : State) : State := { s with fabcfg := BitVec.ofNat 64 (2 ^ 19 + 9 * 2 ^ 10) }

theorem test_hyp_collectives :
    let q : Cmd := { coll0 2 {} with stage := .queued }
    let r : RingSt := { desc := desc0 11 0 0 }
    let far : RingSt := { desc := desc0 11 5 0 }
    let w : RingSt := { far with phase := .handshake }
    let s (c : Cmd) : State := enabled (withCmd c)
    (q.job = .coll 2 ∧ (s q).poison = [] ∧ (s q).cmds = [(q.id, some q)] ∧ q.due ≤ (s q).cycle ∧ (s q).bankFree q.core q.bank = true ∧
      ((s q).bench (coreDie q.core) (coreBench q.core)).retired = false ∧ q.older = []) ∧
    ((s q).collChecks { q with ring := r } = none ∧ (s q).collChecks { q with ring := far } = none ∧
      ((s q).collChecks { q with ring := { desc := desc0 11 0 1 } }).isSome = true) ∧
    (r.prevId = (s q).fabId ∧ r.nextId = (s q).fabId ∧ far.prevId ≠ (s q).fabId ∧ (s q).fabEn = true ∧ (s q).livePlanes ≠ [] ∧
      (withCmd q).fabEn = false) ∧
    ((coll0 2 r).ring.phase = .ready ∧ (s (coll0 2 r)).collIsReady (coll0 2 r) = true ∧ (coll0 2 w).ring.phase = .handshake ∧
      (coll0 2 w).ring.prevId ≠ (s (coll0 2 w)).fabId ∧ r.timeout ≠ 0 ∧ r.tick0 + r.timeout ≤ ({ s q with scht := 10 } : State).scht) ∧
    (r.word 0).testBit 37 = false ∧ (({ desc := desc0 43 0 0 } : RingSt).word 0).testBit 37 = true := by
  decide +kernel

/-- Two members of this device: that of die 0 has rank 0 and KEY 7, the other, of die 1, rank 1, command number 10 and a KEY. -/
def members (p q : RingPhase) (count key : Nat) : Cmd × Cmd :=
  (coll0 2 { desc := desc0 11 0 0, phase := p, gen := 1 },
   { coll0 2 { desc := [count + 11 * 2 ^ 32, 2 + 2 ^ 9, 0, 0, 10 * 2 ^ 32 + key, 0, 0, 0], phase := q } with id := 10, core := 256 })

theorem test_hyp_membersOfOneDevice :
    let s (x : Cmd × Cmd) : State := { withCmd x.1 with cmds := [(9, some x.1), (10, some x.2)] }
    let held (x : Cmd × Cmd) : Bool := decide ((s x).cmd? 9 = some x.1 ∧ (s x).cmd? 10 = some x.2 ∧ x.2.id ≠ x.1.id ∧ x.1.due ≤ (s x).cycle ∧
      x.1.stage = .ring ∧ x.1.ring.prevId = (s x).fabId ∧ x.1.collActive (coreDie x.1.core) = true ∧ x.1.ring.nextId = (s x).fabId)
    let ok (x : Cmd × Cmd) : Bool := held x && decide ((s x).ringPrev x.1 = some x.2 ∧ (s x).ringNext x.1 = some x.2)
    let a := members .handshake .ready 256 7
    let b := members .handshake .handshake 512 7
    let c := members .handshake .scatter 256 7
    let d := members .handshake .handshake 256 8
    (s a).CmdsKeyed ∧
    (ok a = true ∧ a.2.ring.phase = .ready) ∧ (ok b = true ∧ b.2.ring.phase ≠ .ready ∧ b.2.token ≠ b.1.token) ∧
    (ok c = true ∧ c.2.ring.phase ≠ .handshake ∧ c.2.token = c.1.token) ∧
    (c.1.ring.abort.getD 0 ≠ (c.1.ring.rank + 1) % c.1.ring.n + 1 ∧
      ({ c.1.ring with abort := some 2 } : RingSt).abort.getD 0 = (c.1.ring.rank + 1) % c.1.ring.n + 1) ∧
    (held d = true ∧ (s d).ringPrev d.1 = none ∧ (s d).strayToken d.1 = true ∧ (s d).ringNext d.1 = none ∧
      d.1.ring.abort.getD 0 ≠ 2 ∧ (s d).starts d.1.ring.nextDie d.1.ring.key 1 < d.1.ring.gen) := by
  unfold State.CmdsKeyed
  refine ⟨?_, by decide +kernel⟩
  intro e he c hc
  rcases List.mem_cons.mp he with rfl | he
  · cases hc; decide +kernel
  · rcases List.mem_singleton.mp he with rfl
    cases hc; decide +kernel

theorem test_hyp_ringSteps :
    let r (p : RingPhase) (n k : Nat) : RingSt :=
      { desc := [256 + 11 * 2 ^ 32, n + 5 * 2 ^ 18 + 5 * 2 ^ 28, 0, 0, 0, 0, 0, 0], phase := p, step := k }
    let c (op : Nat) (p : RingPhase) (n k : Nat) : Cmd := coll0 op (r p n k)
    let s (x : Cmd) : State := enabled (withCmd x)
    let a := c 2 .scatter 3 0
    let b := c 1 .gather 2 0
    ((s a).cmd? 9 = some a ∧ (s b).cmd? 9 = some b ∧ (s a).poison = [] ∧ (s a).deadChs = [] ∧ a.stage = .ring ∧ a.status = 0 ∧
      a.due ≤ (s a).cycle ∧ (s a).bucket a = some (.share (dieLoc 0 0) 65536, 0) ∧ (s b).bucket b = some (.share (dieLoc 0 0) 65536, 0)) ∧
    (a.ring.prevId ≠ (s a).fabId ∧ a.ring.sent = false ∧ a.ring.inq = [] ∧ a.ring.ty.width % 8 = 0 ∧
      dieLoc 0 0 + 0 + a.ring.count * 4 ≤ 2 ^ 40) ∧
    (2 ≤ a.ring.n ∧ a.ring.step + 2 < a.ring.n ∧ (c 2 .scatter 3 1).ring.step + 2 = (c 2 .scatter 3 1).ring.n ∧
      (c 2 .scatter 3 1).ring.step ≠ 0 ∧ b.ring.step + 2 = b.ring.n ∧ b.ring.filter = false ∧ a.ring.phase = .scatter ∧ b.ring.phase = .gather) ∧
    ∀ k, k < 3 → (s a).portOpen (a.planeTo a.ring.nextId) ((if a.ring.exact then 8 else 4) * (a.ring.segHi k - a.ring.segLo k)) = true := by
  decide +kernel

theorem test_hyp_deliveriesOfRings :
    let r : RingSt := { desc := [256, 2, 0, 0, 0, 2 ^ 32, 0, 0], phase := .finished, deliver := [(0, [1#65, 2#65])] }
    let c := coll0 2 r
    let s := withCap true c
    s.cmd? 9 = some c ∧ c.stage = .ring ∧ c.due ≤ s.cycle ∧ c.ring.deliver = (0, [1#65, 2#65]) :: [] ∧ s.poison = [] ∧ c.status = 0 ∧
    capOff c.ring.fcap % 32 = 0 ∧ c.ring.phase = .finished ∧
    ({ r with deliver := [(0, []), (4, [])] } : RingSt).deliver = (0, []) :: [(4, [])] ∧ c.ring.arr = none ∧
    s.unitLoad (s.capChan c.ring.fcap) < 64 ∧ ({ r with arr := some (0, 7) } : RingSt).arr = some (0, 7) ∧
    (withCap true (coll0 2 { r with arr := some (0, 7) })).deliveryFirst 0 7 = true ∧ s.unitBad (s.capLoc c.ring.fcap 0) = false ∧
    ({ s with poison := [s.capLoc c.ring.fcap 0 / 64] } : State).unitBad (s.capLoc c.ring.fcap 0) = true := by decide +kernel

/-! ### Hypotheses: fabric -/

/-- Port 1 with a queue of one write for device 5, and a command that uses plane 1. -/
def withPort (x : Port) : State :=
  { at0 {} with ports := [(1, x)], links := [(517, [⟨9, ⟨3, 0, 64, 1⟩, 0, 0⟩])], fabcfg := 0x80000#64
                cmds := [(9, some { cmd0 (.cpy false false) with stage := .running, routes := [(5, 1)] })] }

theorem test_hyp_links :
    let s := withPort { unacked := 5, replays := 63 }
    let f := withPort { retrain := true, fails := [10, 20] }
    let fails (s : State) : Nat := ((s.port 1).fails.filter (fun t => decide (s.scht ≤ t + 1000)) ++ [s.scht]).length
    let c : Cmd := { cmd0 (.cpy false false) with stage := .running, routes := [(5, 1)] }
    let r : Cmd := coll0 2 { desc := desc0 11 5 0 }
    s.CmdsKeyed ∧
    (mget [] s.links (512 * 1 + 5) = [⟨9, ⟨3, 0, 64, 1⟩, 0, 0⟩] ∧ (s.port 1).retrain = false ∧
      (s.port 1).retired = false ∧ (s.port 1).unacked + (64 + 111) / 112 ≤ 1024 ∧ (f.port 1).retrain = true) ∧
    (3 ≤ (s.port 1).unacked ∧ (s.port 1).retired = false ∧ (s.port 1).unacked ≠ 0 ∧ (s.port 1).replays + 1 = 64 ∧
      ((withPort { unacked := 5 }).port 1).replays + 1 ≠ 64) ∧
    ((f.port 1).retrain = true ∧ 3 ≤ fails f ∧ fails (withPort { retrain := true }) < 3) ∧
    (s.cmd? 9 = some c ∧ c.id = 9 ∧ s.usesPlane 1 c = true ∧ (f.port 0).retired = false) ∧
    ((∀ q, q < 32 → q ≠ 1 → (({ s with ports := (List.range 32).map (fun p => (p, { retired := p != 1, retrain := true })) } : State).port q).retired = true) ∧
      c.stage ≠ .performed ∧ c.job.isColl = false ∧ (5, 1) ∈ c.routes ∧ c.status = 0 ∧ s.linked c.id = true ∧
      r.collActive (coreDie r.core) = true ∧ r.ring.prevId ≠ s.fabId) := by
  refine ⟨fun e h c hc => ?_, by decide, by decide, by decide, by decide, by decide +kernel⟩
  cases List.mem_singleton.mp h
  cases hc
  rfl

/-- Export entry 2: enabled, for job tag 7, readable and writable, one page at physical address 0. -/
def exported (s : State) : State := { s with exports := [(2, (BitVec.ofNat 64 (2 ^ 63 + 3 * 2 ^ 61 + 7 * 2 ^ 45 + 1), 0#64))] }

theorem test_hyp_remote :
    let s := exported (withPort {})
    let e := mget (0#64, 0#64) s.exports 2
    let c : Cmd := { cmd0 (.cpy false false) with stage := .performed, words := [0x4028000000000000#64], routes := [(5, 1)] }
    let r : Cmd := coll0 2 { desc := desc0 11 5 0 }
    let n : State := { exported (withPort {}) with exports := [(2, (e.1, 0x8000000000000#64))] }
    let x : Inbound := ⟨7, 90, ⟨3, 64, 8, 1⟩⟩
    let run : Cmd := { c with stage := .running }
    let ports : State := { s with ports := (List.range 32).map (fun p => (p, { retrain := true })) }
    (s.fabEn = true ∧ (e.1.getLsbD 63 = true ∧ e.1.toNat / 2 ^ 45 % 2 ^ 16 = 7 ∧ e.1.getLsbD 61 = true ∧ e.1.getLsbD 62 = true) ∧
      (mget (0#64, 0#64) s.exports 3).1.getLsbD 63 = false) ∧
    (64 + 8 ≤ 4096 * (e.1.toNat % 2 ^ 28) ∧ ¬ 4095 + 8 ≤ 4096 * (e.1.toNat % 2 ^ 28)) ∧
    (s.dramRange (0 + 64) 8 = true ∧ paLoc s.ncc (0 + 64) = some 64 ∧ s.deadAt 64 = false ∧ (0 + 64) % 4096 + 8 ≤ 4096 ∧
      paLoc n.ncc ((mget (0#64, 0#64) n.exports 2).2.toNat / 2 ^ 12 % 2 ^ 40 * 2 ^ 12) = none) ∧
    (s.livePlanes ≠ [] ∧ s.portOpen 1 8 = true ∧ ports.livePlanes ≠ [] ∧ (∀ p, p < 32 → ports.portOpen p 8 = false) ∧
      ({ s with ports := (List.range 32).map (fun p => (p, { retired := true })) } : State).livePlanes = []) ∧
    (({ s with inbound := [x] } : State).inbound = [x] ∧ x.due ≤ s.cycle ∧ s.deadAt x.wr.loc = false) ∧
    (({ s with cmds := [(9, some run)] } : State).cmd? 9 = some run ∧ run.routes = [(5, 1)] ∧ run.stage ≠ .performed ∧ run.status = 0 ∧
      run.job.isColl = false ∧ s.awaited run ≠ [] ∧ ({ s with links := [] } : State).awaited { run with routes := [] } = []) ∧
    (r.collActive (coreDie r.core) = true ∧ r.ring.nextId ≠ s.fabId ∧ r.status = 0) ∧
    ({ s with boot := .running } : State).boot = .running := by decide +kernel

/-! ### Hypotheses: the command processor -/

/-- Queue 1 is enabled and has one command, whose words 1 on are given, at slot 1 of the ring at physical address 0; both
eviction buffers are set. -/
def cmdq (op : Nat) (ws : List Nat) : State :=
  { at0 {} with
    boot := .running
    evbase := [(0, 0x8000000000000000#64), (1, 0x8000000000000000#64)]
    hqs := [(1, { cfg := 1#64, tail := 1, comp := 0x10000#64 })]
    mem := writeRun [] 64 64 (packLanes 64 ((2 ^ 32 + op) :: ws)) }

/-- A good header for 256 cores of die 0, its tensor table at 4,096, its image list at 2,048, its other tables at 0. -/
def headWords2 : List Nat := [0, 2 ^ 36, 0, 0, 0, 0, 0, 0, 256 + 2 ^ 10 + 2 ^ 12, 0, 0, 0, 0, 0, 4096, 2048, 0, 0, 0, 0]

/-- The command LAUNCH of 512 at slot 0 of queue 1, over that header. -/
def launching : State :=
  { cmdq 1 [] with
    hqs := [(1, { cfg := 1#64, lcons := 2 ^ 32 - 1 })]
    mem := [(0, 1), (9, 2), (524, 0x10), (577, 0x15), (625, 0x10), (633, 8)] }

theorem test_hyp_queues1 :
    launching.taking 1 0x01 = some [1, 512, 0, 0, 0, 0, 0, 0] ∧ launching.evictReady = true ∧ 512 % 64 = 0 ∧
    launching.dramRange 512 160 = true ∧ launching.readHeader 512 = headWords2 ∧
    (cmdq 1 [256]).headerRefused ((cmdq 1 [256]).readHeader 256) = true ∧ (zeroFrom [2 ^ 32 + 1, 256, 1] 2) = false := by
  decide +kernel

theorem launching_entries0 : ∀ i, i < 16 → entryBad (launching.entryBytes headWords2 i) = false := by decide +kernel
theorem launching_entries1 : ∀ i, i < 16 → entryBad (launching.entryBytes headWords2 (16 + i)) = false := by decide +kernel
theorem launching_entries2 : ∀ i, i < 16 → entryBad (launching.entryBytes headWords2 (32 + i)) = false := by decide +kernel
theorem launching_entries3 : ∀ i, i < 16 → entryBad (launching.entryBytes headWords2 (48 + i)) = false := by decide +kernel

theorem test_hyp_queues1_header : launching.headerRefused headWords2 = false := by
  have h1 : (layoutBad headWords2 || launching.areasBad headWords2 || launching.windowsBad (launching.readWindows headWords2) ||
    (List.range 16).any (fun i => (launching.readHandle headWords2 i).bad)) = false := by decide +kernel
  have h2 : (match launching.imageOf headWords2 with | some l => l.any (fun r => r.bad headWords2) | none => true) = false := by
    decide +kernel
  have h3 : (List.range 64).any (fun i => entryBad (launching.entryBytes headWords2 i)) = false := by
    rw [List.any_eq_false]
    intro i hi
    have hi := List.mem_range.mp hi
    rcases (by omega : i < 16 ∨ 16 ≤ i ∧ i < 32 ∨ 32 ≤ i ∧ i < 48 ∨ 48 ≤ i ∧ i < 64) with h | h | h | h
    · simp [launching_entries0 i h]
    · have := launching_entries1 (i - 16) (by omega)
      rw [show 16 + (i - 16) = i by omega] at this
      simp [this]
    · have := launching_entries2 (i - 32) (by omega)
      rw [show 32 + (i - 32) = i by omega] at this
      simp [this]
    · have := launching_entries3 (i - 48) (by omega)
      rw [show 48 + (i - 48) = i by omega] at this
      simp [this]
  unfold State.headerRefused
  rw [h1, h3, Bool.false_or, Bool.false_or]
  exact h2

theorem test_hyp_queues2 :
    let e := State.reset
    let h : HwQueue := { cfg := 1#64, lcons := 4, lcomp := 3, held := .wait 4 64 7 }
    ({ e with boot := .running } : State).boot = .running ∧ (e.hq 1).en = false ∧ (e.hq 1).early = [] ∧ (e.hq 1).lcons < 2 ^ 32 ∧
    e.boot ≠ .running ∧ 1 < 64 ∧
    (cmdq 2 [128, 7]).taking 1 0x02 = some [2 ^ 32 + 2, 128, 7, 0, 0, 0, 0, 0] ∧ (cmdq 2 [128, 7]).hostSignal 128 = some 128 ∧
    (cmdq 2 [129, 7]).hostSignal 129 = none ∧ (({ e with hqs := [(1, h)] } : State).hq 1).held = .wait 4 64 7 ∧
    e.homeValue 64 < 7 ∧ 7 ≤ (cmdq 7 []).homeValue 64 ∧
    (cmdq 3 [128, 7, 1]).taking 1 0x03 = some [2 ^ 32 + 3, 128, 7, 1, 0, 0, 0, 0] := by decide +kernel

theorem test_hyp_queues3 :
    let x : Nat := 2000 * 2 ^ 48 + 16 * 2 ^ 24
    (cmdq 4 [3]).taking 1 0x04 = some [2 ^ 32 + 4, 3, 0, 0, 0, 0, 0, 0] ∧ 64 ≤ 64 ∧ (mget {} (cmdq 4 [3]).expos 3).ovf = false ∧
    ({ ovf := true } : Expo).ovf = true ∧ (1999 + 1) % 2 ^ 16 = 2000 ∧
    (cmdq 5 [3, x]).taking 1 0x05 = some [2 ^ 32 + 5, 3, x, 0, 0, 0, 0, 0] ∧ x / 2 ^ 3 % 2 ^ 21 = 0 ∧ x / 2 ^ 48 ≠ 0 ∧
    (-32 ≤ (BitVec.ofNat 8 (x / 2 ^ 24)).toInt ∧ (BitVec.ofNat 8 (x / 2 ^ 24)).toInt ≤ 32) ∧
    (cmdq 6 [3, 4096, 4096]).taking 1 0x06 = some [2 ^ 32 + 6, 3, 4096, 4096, 0, 0, 0, 0] ∧ (cmdq 6 [3, 4096, 4096]).sigsIn 3 4096 4096 = [] ∧
    (let u : State := { cmdq 6 [3, 4096, 4096] with sigs := [{ update with va := some (3, 4104) }] }
     u.sigsIn 3 4096 4096 = [9] ∧ u.taking 1 0x06 = some [2 ^ 32 + 6, 3, 4096, 4096, 0, 0, 0, 0] ∧
      (({ u with hqs := [(1, { held := .inval 1 [9] })] } : State).hq 1).held = .inval 1 [9] ∧ (∃ x ∈ u.sigs, x.id ∈ [9]) ∧
      ∀ x ∈ (cmdq 6 []).sigs, x.id ∉ [9]) ∧ (cmdq 9 [4096]).deadChs = [] ∧
    (cmdq 7 [3, 4096, 0]).taking 1 0x07 = some [2 ^ 32 + 7, 3, 4096, 0, 0, 0, 0, 0] ∧
    (cmdq 7 [3, 0, 1]).taking 1 0x07 = some [2 ^ 32 + 7, 3, 0, 1, 0, 0, 0, 0] ∧ (cmdq 7 [3, 4096, 0]).unmaps 3 (some 4096) = false ∧
    (cmdq 7 [3, 0, 1]).unmaps 3 none = false ∧ ({ cmdq 7 [0, 0, 1] with caps := [(0, cap0 false)] } : State).unmaps 0 none = true ∧
    (cmdq 9 [4096]).taking 1 0x09 = some [2 ^ 32 + 9, 4096, 0, 0, 0, 0, 0, 0] ∧ (cmdq 9 [4096]).dramRange 4096 256 = true ∧
    4096 % 4096 + 256 ≤ 4096 ∧ paLoc (cmdq 9 [4096]).ncc 4096 = some (2 ^ 31) ∧ (cmdq 9 [2 ^ 41]).dramRange (2 ^ 41) 256 = false := by
  decide +kernel

/-- The address space 0, with tables at physical addresses 4,096, 8,192 and 12,288 (channels 1 to 3) and one compute-capable
leaf, the second direct frame of channel 0, over a queue's command that creates a COPY entry for it. -/
def ccSpace : State :=
  let s := cmdq 8 [0, 32768 * 2 ^ 34 + 32768 * 2 ^ 9, 2 ^ 57]
  let m1 := writeRun s.mem (2 ^ 31) 8 (8192 + 1)
  let m2 := writeRun m1 (2 * 2 ^ 31) 8 (12288 + 1)
  { s with ncc := 1023, roots := [(0, some 4096)], mem := writeRun m2 (3 * 2 ^ 31) 8 (2 ^ 63 + 2 ^ 62 + 2 ^ 40 + 2 ^ 21 + 64 + 7) }

theorem test_hyp_capCreates :
    let ws : List Nat := [2 ^ 32 + 8, 0, 32768 * 2 ^ 34 + 32768 * 2 ^ 9, 2 ^ 57, 0, 0, 0, 0]
    ccSpace.taking 1 0x08 = some ws ∧ (cword ws 1).testBit 63 = false ∧ ccSpace.createBad ws = false ∧
    (ccSpace.cap 0).valid = false ∧ ccSpace.revokes = [] ∧ ({ ccSpace with caps := [(0, cap0 false)] } : State).unmaps 0 (some 4096) = true := by
  decide +kernel

/-- The same command for a FILTER entry; once it stands, the leaf is the one whose rights are cleared. -/
def ccFilter : State := { ccSpace with mem := writeRun ccSpace.mem 88 8 (2 ^ 62) }

theorem test_hyp_capFilter :
    let ws : List Nat := [2 ^ 32 + 8, 0, 32768 * 2 ^ 34 + 32768 * 2 ^ 9, 2 ^ 62, 0, 0, 0, 0]
    let u : State := { ccFilter with caps := [(0, { cap0 true with base := 32768 })] }
    ccFilter.taking 1 0x08 = some ws ∧ ccFilter.createBad ws = false ∧ ccFilter.deadChs = [] ∧
    (u.leaves.filter (fun l => (pteR l.pte || pteW l.pte) && u.covers l)).map Leaf.at_ = [12288] ∧
    paLoc u.ncc 12288 = some (3 * 2 ^ 31) := by
  decide +kernel

theorem test_hyp_capabilities :
    let hd := word0 0
    let s (w1 : Nat) : State := { cmdq 8 [w1] with caps := [(0, cap0 true)] }
    let v : Revoke := { queue := 1, seq := 1, handle := 1, key := 0, cmds := [9] }
    (cmdq 8 [1]).taking 1 0x08 = some [2 ^ 32 + 8, 1, 0, 0, 0, 0, 0, 0] ∧ (2 ^ 32 : Nat).testBit 63 = false ∧
    (cmdq 8 [1]).createBad [2 ^ 32 + 8, 1, 0, 0, 0, 0, 0, 0] = true ∧
    (s (2 ^ 63 + 1)).taking 1 0x08 = some [2 ^ 32 + 8, 2 ^ 63 + 1, 0, 0, 0, 0, 0, 0] ∧ (2 ^ 63 + 1 : Nat) / 2 ^ 32 = 2 ^ 31 ∧
    ((s (2 ^ 63 + 1)).cap (handleKey 1)).valid = true ∧ ((s (2 ^ 63 + 1)).cap (handleKey 1)).gen = handleGen 1 ∧
    ((s (2 ^ 63 + 1)).cap (handleKey 1)).filter = true ∧ (s 1).poison = [] ∧ capHandle hd = 1 ∧
    ((s (2 ^ 63 + 2)).cap (handleKey 2)).gen ≠ handleGen 2 ∧
    ({ s 1 with revokes := [v] } : State).revokes = [v] ∧ v.handle = (1#32).toNat ∧
    (∀ e ∈ (s 1).caps, e.1 ≠ v.key → e.2.filter = false) ∧ ((s 1).cap v.key).filter = true ∧
    (∀ id ∈ v.cmds, (s 1).cmd? id = none) ∧ (∃ id ∈ v.cmds, (withCmd (cmd0 .ftap)).cmd? id ≠ none) := by decide +kernel

theorem test_hyp_holding :
    let h (x : Held) : State := { at0 {} with hqs := [(1, { cfg := 1#64, held := x })], kernels := [(0, { kern with queue := 2 })] }
    let saved (x : Held) : State := { h x with ctxs := [(0, { life := .frozen, released := true })] }
    (cmdq 10 [2]).taking 1 0x0A = some [2 ^ 32 + 10, 2, 0, 0, 0, 0, 0, 0] ∧
    (cmdq 11 [64]).taking 1 0x0B = some [2 ^ 32 + 11, 64, 0, 0, 0, 0, 0, 0] ∧
    ((h (.preempt 3 2)).hq 1).held = .preempt 3 2 ∧ (∀ x ∈ (saved (.preempt 3 2)).queueCtxs 2, (saved (.preempt 3 2)).away x = true) ∧
    (saved (.preempt 3 2)).queueCtxs 2 = [0] ∧ (h (.preempt 3 2)).queueCtxs 2 = [0] ∧ (h (.preempt 3 2)).away 0 = false ∧
    (∀ x ∈ (h (.resume 3 2)).queueCtxs 2, ((h (.resume 3 2)).ctx x).life ≠ .frozen ∧ ((h (.resume 3 2)).ctx x).resumeAt ≤ 100) ∧
    ((saved (.resume 3 2)).ctx 0).life = .frozen := by decide +kernel

theorem test_hyp_aborts :
    let a := { cmdq 12 [2 ^ 63] with kernels := [(0, kern)] }
    let d (l : Life) (p : PreReq) : State := at0 { doomed := true, pre := p, life := l }
    a.takingEarly 1 0x0C = some (1, [2 ^ 32 + 12, 2 ^ 63, 0, 0, 0, 0, 0, 0]) ∧
    a.abortTarget [2 ^ 32 + 12, 2 ^ 63, 0, 0, 0, 0, 0, 0] = some 0 ∧ abortOk [2 ^ 32 + 12, 2 ^ 63, 0, 0, 0, 0, 0, 0] = true ∧
    0 ∈ a.ctxsOf 0 ∧ (a.ctx 0).life = .running ∧ a.Keyed ∧
    ({ a with kernels := [] } : State).abortTarget [2 ^ 32 + 12, 2 ^ 63, 0, 0, 0, 0, 0, 0] = none ∧ abortOk [2 ^ 32 + 12, 64, 0, 0, 0, 0, 0, 0] = false ∧
    ((d .running (.at_ 100)).ctx 0).doomed = true ∧ Live (d .running (.at_ 100)) 0 ∧ (d .running (.at_ 100)).issued = false ∧
    ((d .running (.at_ 100)).ctx 0).pre = .at_ 100 ∧ ((frozen0 { doomed := true }).ctx 0).life = .frozen := by
  refine ⟨by decide +kernel, by decide +kernel, rfl, by decide, by decide, by unfold State.Keyed; decide, by decide +kernel, rfl, ?_⟩
  exact ⟨by decide, by unfold Live; decide, by decide⟩

theorem test_hyp_cresumes :
    let c := { cmdq 13 [0, 0] with kernels := [(0, kern)], ctxs := [(0, { life := .trapped, released := true })], benches := [(0, { powered := true })] }
    let r : Cresume := { queue := 1, seq := 1, ctx := 0 }
    let x : State := { c with cresumes := [r], hqs := [] }
    c.takingEarly 1 0x0D = some (1, [2 ^ 32 + 13, 0, 0, 0, 0, 0, 0, 0]) ∧ c.cresumes = [] ∧
    c.cresumeTarget [2 ^ 32 + 13, 0, 0, 0, 0, 0, 0, 0] = some 0 ∧ zeroFrom [2 ^ 32 + 13, 0, 0, 0, 0, 0, 0, 0] 3 = true ∧
    c.cresumeTarget [2 ^ 32 + 13, 0, 1, 0, 0, 0, 0, 0] = none ∧ x.cresumes = [r] ∧ r.queue = 1 ∧ x.deadChs = [] ∧
    ((x.ctx 0).life = .trapped ∧ x.canResume 0 = true) ∧
    ((x.ctx 0).lost = false ∧ ({ x with benches := [] } : State).canResume 0 = false ∧ x.takingEarly 1 0x0D = none) ∧
    (({ x with ctxs := [(0, { life := .exited })] } : State).ctx 0).life ≠ .trapped ∧ r.at_ = none ∧
    ({ r with at_ := some 99 } : Cresume).at_ = some 99 ∧ 99 ≤ x.cycle ∧ x.cycle < 111 ∧
    (∀ y ∈ ({ c with cresumes := [{ r with at_ := some 99 }] } : State).cresumes, y.queue = 1 → c.cresumeOver y = true) := by
  decide +kernel

/-- Queue 1 with the small launch at its head, one bench on. -/
def admitting (ws : List Nat) (b : Map Bench) : State :=
  { State.reset with hqs := [(1, { cfg := 1#64, launch := some (ws, 0) })], benches := b }

theorem test_hyp_admits :
    let on : Map Bench := [(0, { powered := true })]
    let s := admitting headWords1 on
    let lack : List Nat := headWords1.set 11 (2 ^ 32 + 0x55555555)
    s.Keyed ∧ s.deadChs = [] ∧ (∀ e ∈ s.ctxs, e.1 < s.nextId) ∧
    s.admitNext = some 1 ∧ s.headWords 1 = some headWords1 ∧ s.place headWords1 noneIgnored = some [0] ∧
    slotsLack headWords1 [0] = false ∧ s.coresOn [0] = true ∧ (admitting headWords1 []).coresOn [0] = false ∧
    (admitting headWords1 []).admitNext = some 1 ∧ s.ctxs = [] ∧
    (admitting lack on).admitNext = some 1 ∧ (admitting lack on).place lack noneIgnored = some [0] ∧ slotsLack lack [0] = true := by
  refine ⟨by unfold State.Keyed; decide, ?_⟩
  decide +kernel

/-- An image list at physical address 4096: eight bytes for bank 0, and a routine of one END word. -/
theorem test_hyp_image :
    let ws : List Nat := ((headWords1.set 9 (1 + 2 ^ 45)).set 10 1).set 15 4096
    let s : State := { admitting ws [(0, { powered := true })] with
      mem := writeRun [] (2 ^ 31) 40 (packLanes 64 [8 * 2 ^ 32 + 1, 7, 8 * 2 ^ 32 + 2, 0xB000000080000000, 0]) }
    s.headWords 1 = some ws ∧ s.place ws noneIgnored = some [0] ∧ s.coresOn [0] = true ∧
    s.imageOf ws = some [⟨1, 0, 0, 8, 7⟩, ⟨2, 0, 0, 8, 0xB000000080000000⟩] ∧
    (∀ r ∈ ([⟨1, 0, 0, 8, 7⟩, ⟨2, 0, 0, 8, 0xB000000080000000⟩] : List ImageRec), r.bad ws = false) ∧ (hBanks ws).testBit 0 = true := by
  decide +kernel

theorem test_hyp_pool :
    let c : Child := { parent := 0, num := 1, word := 0x10#64, since := 0 }
    let s : State := { admitting headWords1 [] with pool := [c], kernels := [(0, { kern with queue := 1, poolHeld := 1 })] }
    let d : State := { State.reset with kernels := [(0, kern)], ctxs := [(0, { life := .exited })] }
    s.admitNext = some 1 ∧ (match s.headOf 1 with | some (.child x none) => decide (x = c) | _ => false) = true ∧
    s.headWords 1 = none ∧ c.parent ≠ s.nextId ∧ (s.kernel c.parent).alive = true ∧
    (s.hq 1).en = true ∧ (s.headOf 1).isSome = true ∧ s.headSince 1 + 1000 ≤ ({ s with scht := 1000 } : State).scht ∧ (s.hq 1).hold = false ∧
    ¬ s.headSince 1 + 1000 ≤ s.scht ∧ d.gridDone 0 = true ∧ (d.kernel 0).parent = none := by decide +kernel

theorem test_hyp_management :
    let up : State := { State.reset with boot := .running }
    up.apValue (.qring 64) = none ∧ up.boot = .running ∧ up.locked = false ∧ ({ up with locked := true } : State).locked = true ∧ ¬ State.reset.boot = .running ∧
    (0x100#64 : BitVec 64).getLsbD 0 = false ∧ (up.hq 1).early = [] ∧ mwf none up.budNext = true ∧ mwf none up.arbwNext = true := by
  decide +kernel

theorem test_hyp_host :
    let up : State := { State.reset with boot := .running }
    0 < 8 ∧ 64 % 4096 + 8 ≤ 4096 ∧ 64 + 8 ≤ 2 ^ 41 ∧ paLoc up.ncc 64 = some 64 ∧ up.deadAt 64 = false ∧ up.dramRange 64 8 = true ∧
    2 ^ 41 < 2 ^ 41 + 8 ∧
    paLoc up.ncc (2 ^ 51) = none ∧ (∀ e ∈ up.caps, e.2.filter = false) ∧ ownPlace (2 ^ 41) = false ∧ ¬ State.reset.boot = .running ∧ ownPlace 64 = true ∧ 3 ∉ up.deadChs ∧ (up.port 1).retired = false ∧
    (up.bench 0 0).retired = false ∧ mwf ({} : Port) up.ports = true ∧ mwf ({} : Bench) up.benches = true := by decide +kernel

/-! ### Hypotheses: encoding, the invariant, the stops -/

theorem reset_inv : State.reset.Inv := by unfold State.Inv; decide

theorem test_hyp_encodes :
    let i : Instr := .add 0#3 8#6 4#6 (.reg 12#6)
    let h : Header := ⟨1#8, false, 0#4, 0#6, false⟩
    i.wf = true ∧ i.encode = some (.x, 0x0002043000000000) ∧ Space.x.slot true = some .x ∧
    h.smask = BitVec.ofNat 8 (2 ^ Slot.x.code) ∧ h.profile.toNat < 10 ∧ (Instr.mac 0#3).encode = some (.micro, 0x20000000) ∧
    reads i (decodeSlot .x 0x0002043000000000) = true ∧ reads (Instr.mac 0#3) (decodeMicro 0x20000000) = true := by decide +kernel

theorem test_hyp_steps_invariant :
    State.reset.Inv ∧ (match step State.reset with | .next _ => true | _ => false) = true ∧
    after (.add 0#3 8#6 4#6 (.reg 12#6)) State.reset (fun _ => true) = true ∧ (∀ a, readByte State.reset.mem a = readByte State.reset.mem a) :=
  ⟨reset_inv, by decide +kernel, by decide +kernel, fun _ => rfl⟩

/-- A host store to a place that is not there answers a next state. -/
theorem test_hyp_answers : after (.hostStore (2 ^ 41) 8 0) { State.reset with boot := .running } (fun t => t.mem == []) = true ∧
    (match step { State.reset with agenda := [(0, .hostStore (2 ^ 41) 8 0)] } with | .next _ => true | _ => false) = true := by
  decide +kernel

/-! ### Decoding: words written out from the spec's tables -/

/-- Words of the X slot (R52). -/
theorem test_decode_x1 : (([
    (0x0040D1B000000000, .add 2#3 3#6 17#6 (.reg 44#6)),
    (0x011A4600FFFFFFFE, .sub 0#3 41#6 6#6 (.imm 0xFFFFFFFE#32)),
    (0x0240D1B000000000, .mul 2#3 3#6 17#6 (.reg 44#6)),
    (0x031A4608FFFFFFFE, .mulh 0#3 true 41#6 6#6 (.imm 0xFFFFFFFE#32)),
    (0x0440D1B000000000, .and 2#3 3#6 17#6 (.reg 44#6)),
    (0x051A4600FFFFFFFE, .or 0#3 41#6 6#6 (.imm 0xFFFFFFFE#32)),
    (0x0640D1B000000000, .xor 2#3 3#6 17#6 (.reg 44#6)),
    (0x071A4600FFFFFFFE, .shl 0#3 41#6 6#6 (.imm 0xFFFFFFFE#32)),
    (0x0840D1B000000000, .shr 2#3 3#6 17#6 (.reg 44#6)),
    (0x091A4600FFFFFFFE, .sra 0#3 41#6 6#6 (.imm 0xFFFFFFFE#32)),
    (0x0A40D1B000800000, .min 2#3 true 3#6 17#6 (.reg 44#6)),
    (0x0B1A4608FFFFFFFE, .max 0#3 true 41#6 6#6 (.imm 0xFFFFFFFE#32)),
    (0x0C00420000000000, .clz 0#3 1#6 2#6),
    (0x0D00420000000000, .popc 0#3 1#6 2#6),
    (0x0E00420C09000000, .set 0#3 .hi 1#6 2#6 (.reg 3#6)),
    (0x0E10424000000007, .set 0#3 .le 1#6 2#6 (.imm 7#32)),
    (0x0F01061C50000000, .sel 0#3 4#6 5#6 6#6 7#6),
    (0x1012400000000005, .li 0#3 9#6 5#32),
    (0x1112480000000005, .lih 0#3 9#6 8#6 5#32),
    (0x2000FC0000000000, .mova 0#3 (.toA 3#4 60#6)),
    (0x200F030010000000, .mova 0#3 (.fromA 60#6 3#4)),
    (0x2010C00000000040, .mova 0#3 (.immA 3#4 64#32)),
    (0x2100C4C800000000, .adda 0#3 3#4 4#4 (.reg 50#6)),
    (0x280001087FFFFFFD, .br 0#3 .ne 1#6 2#6 0x3FFFFFFD#30)] : List (Nat × Instr)).all (fun p => reads p.2 (decodeSlot .x p.1))) = true := by decide +kernel

/-- More of them. -/
theorem test_decode_x2 : (([
    (0x2900010000000006, .jmp 0#3 1#6 6#30),
    (0x2A0F810000000006, .call 0#3 62#6 1#6 6#30),
    (0x2B003E0000000000, .ret 0#3 62#6),
    (0x2C12C00000000064, .loop 0#3 true 3#3 (.imm 100#32)),
    (0x2C005E0000000000, .loop 0#3 false 1#3 (.reg 30#6)),
    (0x2D10000000000003, .exit 0#3 (.imm 3#32)),
    (0x2E00050000000000, .trap 0#3 (.reg 5#6)),
    (0x2F01C00000000000, .wnext 0#3 7#6),
    (0x2F11C00000000002, .wnextField 0#3 7#6 2#3),
    (0x3801C90000000000, .mfc 0#3 7#6 9#4),
    (0x3901070000000000, .mtc 0#3 4#4 7#6),
    (0x4019030000000008, .shw 0#3 2#2 1#2 3#6 (.imm 8#32)),
    (0x4001090020000000, .shw 0#3 0#2 1#2 2#6 (.reg 9#6)),
    (0x4118440000000001, .tdw 0#3 33#6 4#6 (.imm 1#32)),
    (0x4108490100000000, .tdw 0#3 33#6 16#6 (.reg 9#6)),
    (0x4202610050000000, .tdr 0#3 9#6 33#6 5#6 false),
    (0x4212610000000005, .tdr 0#3 9#6 33#6 5#6 true),
    (0x4811400000000C01, .spmark 0#3 5#6 (.imm 0xC01#32)),
    (0x4910050000000C01, .spdrop 0#3 5#6 (.imm 0xC01#32)),
    (0x4A01800000000000, .spdepth 0#3 6#6)] : List (Nat × Instr)).all (fun p => reads p.2 (decodeSlot .x p.1))) = true := by decide +kernel

/-- Words of the V slots (R53). -/
theorem test_decode_va1 : (([
    (0x0300A01482A3CC00, .vfma ⟨0#3, 40#11, 41#11, 42#11, 3#4, .bf16, 3#2, .none, 0#8⟩),
    (0x000FA003FFF9D800, .vadd ⟨0#3, 1000#11, 7#11, 2047#11, 9#4, .fp32, 2#2, .none, 0#8⟩),
    (0x012FA403FFF9D800, .vsub ⟨1#3, 1001#11, 7#11, 2047#11, 9#4, .fp32, 2#2, .none, 0#8⟩),
    (0x024FA803FFF9D800, .vmul ⟨2#3, 1002#11, 7#11, 2047#11, 9#4, .fp32, 2#2, .none, 0#8⟩),
    (0x048FB003FFF9D800, .vfms ⟨4#3, 1004#11, 7#11, 2047#11, 9#4, .fp32, 2#2, .none, 0#8⟩),
    (0x050014000079D100, .vmin ⟨0#3, 5#11, 0#11, 7#11, 9#4, .fp32, 0#2, .first, 0#8⟩),
    (0x060014000079D100, .vmax ⟨0#3, 5#11, 0#11, 7#11, 9#4, .fp32, 0#2, .first, 0#8⟩),
    (0x070014030009B000, .vabs ⟨0#3, 5#11, 6#11, 0#11, 9#4, .fp16, 0#2, .none, 0#8⟩),
    (0x080014030009B000, .vneg ⟨0#3, 5#11, 6#11, 0#11, 9#4, .fp16, 0#2, .none, 0#8⟩),
    (0x2000140300795001, .viadd ⟨0#3, 5#11, 6#11, 7#11, 9#4, .n16, 0#2, .none, 1#8⟩),
    (0x2100140300795001, .visub ⟨0#3, 5#11, 6#11, 7#11, 9#4, .n16, 0#2, .none, 1#8⟩),
    (0x2200140300795001, .vimul ⟨0#3, 5#11, 6#11, 7#11, 9#4, .n16, 0#2, .none, 1#8⟩),
    (0x2300100300792001, .vimad ⟨0#3, 4#11, 6#11, 7#11, 9#4, .i8, 0#2, .none, 1#8⟩),
    (0x2400140300796000, .vimin ⟨0#3, 5#11, 6#11, 7#11, 9#4, .i32, 0#2, .none, 0#8⟩),
    (0x2500140300796000, .vimax ⟨0#3, 5#11, 6#11, 7#11, 9#4, .i32, 0#2, .none, 0#8⟩),
    (0x2600140300096001, .viabs ⟨0#3, 5#11, 6#11, 0#11, 9#4, .i32, 0#2, .none, 1#8⟩),
    (0x2700140301F06003, .vshl ⟨0#3, 5#11, 6#11, 31#11, 0#4, .i32, 0#2, .none, 3#8⟩),
    (0x280014032BC01000, .vshr ⟨0#3, 5#11, 6#11, 700#11, 0#4, .n4, 0#2, .none, 0#8⟩),
    (0x2900780F00404002, .vsra ⟨0#3, 30#11, 30#11, 4#11, 0#4, .i16, 0#2, .none, 2#8⟩),
    (0x2A0014030079E000, .vand ⟨0#3, 5#11, 6#11, 7#11, 9#4, .e8m0, 0#2, .none, 0#8⟩),
    (0x2B0014030079E000, .vor ⟨0#3, 5#11, 6#11, 7#11, 9#4, .e8m0, 0#2, .none, 0#8⟩),
    (0x2C0014030079E000, .vxor ⟨0#3, 5#11, 6#11, 7#11, 9#4, .e8m0, 0#2, .none, 0#8⟩),
    (0x40003C030079D007, .vcmp ⟨0#3, 15#11, 6#11, 7#11, 9#4, .fp32, 0#2, .none, 7#8⟩),
    (0x4100140300790000, .vsel ⟨0#3, 5#11, 6#11, 7#11, 9#4, .i4, 0#2, .none, 0#8⟩)] : List (Nat × Instr)).all (fun p => reads p.2 (decodeSlot .va p.1))) = true := by decide +kernel

/-- More of them. -/
theorem test_decode_va2 : (([
    (0x42003C0700D00003, .vmop ⟨0#3, 15#11, 14#11, 13#11, 0#4, .i4, 0#2, .none, 3#8⟩),
    (0x500014030009D000, .vrcp ⟨0#3, 5#11, 6#11, 0#11, 9#4, .fp32, 0#2, .none, 0#8⟩),
    (0x510014030009D400, .vrsq ⟨0#3, 5#11, 6#11, 0#11, 9#4, .fp32, 1#2, .none, 0#8⟩),
    (0x520014030009D800, .vsqrt ⟨0#3, 5#11, 6#11, 0#11, 9#4, .fp32, 2#2, .none, 0#8⟩),
    (0x530014030009DC00, .vexp2 ⟨0#3, 5#11, 6#11, 0#11, 9#4, .fp32, 3#2, .none, 0#8⟩),
    (0x540014030009D000, .vlog2 ⟨0#3, 5#11, 6#11, 0#11, 9#4, .fp32, 0#2, .none, 0#8⟩),
    (0x550014030009D400, .vtanh ⟨0#3, 5#11, 6#11, 0#11, 9#4, .fp32, 1#2, .none, 0#8⟩),
    (0x560014030009D800, .verf ⟨0#3, 5#11, 6#11, 0#11, 9#4, .fp32, 2#2, .none, 0#8⟩),
    (0x6000140300092016, .vcvt ⟨0#3, 5#11, 6#11, 0#11, 9#4, .i8, 0#2, .none, 22#8⟩),
    (0x610020030000D002, .vwiden ⟨0#3, 8#11, 6#11, 0#11, 0#4, .fp32, 0#2, .none, 2#8⟩),
    (0x6200140400002416, .vnarrow ⟨0#3, 5#11, 8#11, 0#11, 0#4, .i8, 1#2, .none, 22#8⟩),
    (0x630014030000D032, .vunpk ⟨0#3, 5#11, 6#11, 0#11, 0#4, .fp32, 0#2, .none, 50#8⟩),
    (0x6400140300708007, .vqmx ⟨0#3, 5#11, 6#11, 7#11, 0#4, .e2m1, 0#2, .none, 7#8⟩),
    (0x6500140300719003, .vdqmx ⟨0#3, 5#11, 6#11, 7#11, 1#4, .e4m3, 0#2, .none, 3#8⟩),
    (0x7000140300790000, .vperm ⟨0#3, 5#11, 6#11, 7#11, 9#4, .i4, 0#2, .none, 0#8⟩),
    (0x71001403007020FF, .vslide ⟨0#3, 5#11, 6#11, 7#11, 0#4, .i8, 0#2, .none, 255#8⟩),
    (0x7200140003F02001, .vbcast ⟨0#3, 5#11, 0#11, 63#11, 0#4, .i8, 0#2, .none, 1#8⟩),
    (0x7300FC031FF02000, .vextr ⟨0#3, 63#11, 6#11, 511#11, 0#4, .i8, 0#2, .none, 0#8⟩),
    (0x7400141F87F0D000, .vins ⟨0#3, 5#11, 63#11, 127#11, 0#4, .fp32, 0#2, .none, 0#8⟩),
    (0x9000140300790000, .vdot ⟨0#3, 5#11, 6#11, 7#11, 9#4, .i4, 0#2, .none, 0#8⟩),
    (0xA00028050140D000, .raddf ⟨0#3, 10#11, 10#11, 20#11, 0#4, .fp32, 0#2, .none, 0#8⟩),
    (0xA10028050140D000, .unaddf ⟨0#3, 10#11, 10#11, 20#11, 0#4, .fp32, 0#2, .none, 0#8⟩),
    (0xA20014030079C000, .rsubf ⟨0#3, 5#11, 6#11, 7#11, 9#4, .bf16, 0#2, .none, 0#8⟩),
    (0xA30014030079C000, .unsubf ⟨0#3, 5#11, 6#11, 7#11, 9#4, .bf16, 0#2, .none, 0#8⟩)] : List (Nat × Instr)).all (fun p => reads p.2 (decodeSlot .va p.1))) = true := by decide +kernel

/-- More of them. -/
theorem test_decode_va3 : (([
    (0xA4002C0580A0D000, .rmulf ⟨0#3, 11#11, 11#11, 10#11, 0#4, .fp32, 0#2, .none, 0#8⟩),
    (0xA5002C0580A0D000, .unmulf ⟨0#3, 11#11, 11#11, 10#11, 0#4, .fp32, 0#2, .none, 0#8⟩),
    (0xA60038050000C00D, .rnarw ⟨0#3, 14#11, 10#11, 0#11, 0#4, .bf16, 0#2, .none, 13#8⟩),
    (0xA70028070000C00D, .unnarw ⟨0#3, 10#11, 14#11, 0#11, 0#4, .bf16, 0#2, .none, 13#8⟩),
    (0xA800140300304002, .rshr ⟨0#3, 5#11, 6#11, 3#11, 0#4, .i16, 0#2, .none, 2#8⟩),
    (0xA90014032BC04000, .unshr ⟨0#3, 5#11, 6#11, 700#11, 0#4, .i16, 0#2, .none, 0#8⟩),
    (0xAA0014030000B0FD, .rscl ⟨0#3, 5#11, 6#11, 0#11, 0#4, .fp16, 0#2, .none, 253#8⟩),
    (0xAB0014030000B003, .unscl ⟨0#3, 5#11, 6#11, 0#11, 0#4, .fp16, 0#2, .none, 3#8⟩),
    (0xAC00140300703000, .rimul ⟨0#3, 5#11, 6#11, 7#11, 0#4, .n8, 0#2, .none, 0#8⟩),
    (0xAD00140300703000, .unimul ⟨0#3, 5#11, 6#11, 7#11, 0#4, .n8, 0#2, .none, 0#8⟩)] : List (Nat × Instr)).all (fun p => reads p.2 (decodeSlot .va p.1))) = true := by decide +kernel

/-- Words of slot VB alone (R59). -/
theorem test_decode_vb : (([
    (0x800000030009D006, .vred ⟨0#3, 0#11, 6#11, 0#11, 9#4, .fp32, 0#2, .none, 6#8⟩),
    (0x8100140000096007, .vrdrn ⟨0#3, 5#11, 0#11, 0#11, 9#4, .i32, 0#2, .none, 7#8⟩),
    (0x8200000300006076, .vrclr ⟨0#3, 0#11, 6#11, 0#11, 0#4, .i32, 0#2, .none, 118#8⟩)] : List (Nat × Instr)).all (fun p => reads p.2 (decodeSlot .vb p.1))) = true := by decide +kernel

/-- Words of the M slot (R57). -/
theorem test_decode_m : (([
    (0x00390BFFF0200000, .mrun 1#3 200#8 2#2 true 4095#12 0x81#8),
    (0x0000140000000000, .mrunF 0#3 0#8 1#2 false 0#12 0#8),
    (0x010120000005FFF0, .mpload 0#3 9#8 5#4 0xFFF#12),
    (0x01000000001D9000, .mploadP 0#3 6#3 50#6),
    (0x0201E00000000000, .lend 0#3 15#4),
    (0x0301E00000000000, .recl 0#3 15#4),
    (0x0400E0000000FFE8, .mstrOpen 0#3 7#3 5#3 1023#10),
    (0x0400E00000000001, .mstrPause 0#3 7#3),
    (0x0400E00000000002, .mstrResume 0#3 7#3),
    (0x0400E00000000003, .mstrReset 0#3 7#3),
    (0x0400E00000000004, .mstrClose 0#3 7#3)] : List (Nat × Instr)).all (fun p => reads p.2 (decodeSlot .m p.1))) = true := by decide +kernel

/-- Words of micro-words (R251). -/
theorem test_decode_micro : (([
    (0x0B900000, .feeda 5#3 true 9#4),
    (0x1C000000, .feedb 6#3 false 0#4),
    (0x2E000000, .mac 7#3),
    (0x33000000, .chain 1#3 true),
    (0x42000000, .aclr 1#3),
    (0x53AC0000, .emit 1#3 6#3 true 3#3),
    (0x68000000, .scale true false),
    (0x78000000, .bias 0x80#8),
    (0x8A500000, .adv 0xA5#8),
    (0x91FFF802, .loopk 16383#14 2#11),
    (0x9E000002, .loopkMh 3#2 2#11),
    (0xA7A00000, .stream 3#3 6#3 true),
    (0xB9000000, .endR 4#3 true)] : List (Nat × Instr)).all (fun p => reads p.2 (decodeMicro p.1))) = true := by decide +kernel

/-- Words of the L slot (R55). -/
theorem test_decode_l : (([
    (0x0010180000B28008, .vld ⟨0#3, 1030#11, 0#2, false, .i4, 0#9, .bank 5#4 true 2#4 true 8#15⟩),
    (0x0300078003BFF000, .vldg ⟨0#3, 1#11, 3#2, true, .i4, 0#9, .queue 13#4 255#8 256#9⟩),
    (0x0400FC0000207FFF, .sld ⟨0#3, 63#11, 0#2, false, .i4, 0#9, .bank 1#4 false 0#4 false 32767#15⟩),
    (0x05003C0000200000, .mld ⟨0#3, 15#11, 0#2, false, .i4, 0#9, .bank 1#4 false 0#4 false 0#15⟩),
    (0x0100246800200000, .vldt ⟨0#3, 9#11, 0#2, false, .fp32, 0#9, .bank 1#4 false 0#4 false 0#15⟩),
    (0x0200204820200000, .vldb ⟨0#3, 8#11, 0#2, false, .e4m3, 8#9, .bank 1#4 false 0#4 false 0#15⟩)] : List (Nat × Instr)).all (fun p => reads p.2 (decodeSlot .l p.1))) = true := by decide +kernel

/-- Words of the S slot (R55). -/
theorem test_decode_s : (([
    (0x00E025303CB28008, .vst ⟨7#3, 9#11, 1#2, false, .i32, 15#9, .bank 5#4 true 2#4 true 8#15⟩),
    (0x0100246000200000, .vstx ⟨0#3, 9#11, 0#2, false, .bf16, 0#9, .bank 1#4 false 0#4 false 0#15⟩),
    (0x0200FC0000200000, .sst ⟨0#3, 63#11, 0#2, false, .i4, 0#9, .bank 1#4 false 0#4 false 0#15⟩),
    (0x03003C0000200000, .mst ⟨0#3, 15#11, 0#2, false, .i4, 0#9, .bank 1#4 false 0#4 false 0#15⟩),
    (0x040AF00583801000, .putq 0#3 700#11 2#2 3#2 12#4 256#9)] : List (Nat × Instr)).all (fun p => reads p.2 (decodeSlot .s p.1))) = true := by decide +kernel

/-- Words of the C slot (R56). -/
theorem test_decode_c : (([
    (0x001FEC7A08200002, .cpyLd ⟨0#3, 63#6, some .sys, some .ctx, 3#2, true, 40#6⟩ true (.bank 1#4 false 0#4 false 2#15)),
    (0x001FED8A04200002, .cpySt ⟨0#3, 63#6, some .sys, some .die, 0#2, false, 40#6⟩ (.bank 1#4 false 0#4 false 2#15)),
    (0x011FED8A00200002, .cpytLd ⟨0#3, 63#6, some .sys, some .die, 0#2, false, 40#6⟩ (.bank 1#4 false 0#4 false 2#15)),
    (0x0100800A04200002, .cpytSt ⟨0#3, 1#6, none, none, 0#2, false, 40#6⟩ (.bank 1#4 false 0#4 false 2#15)),
    (0x021FEC7A00200002, .cpair ⟨0#3, 63#6, some .sys, some .ctx, 3#2, true, 40#6⟩ (.bank 1#4 false 0#4 false 2#15)),
    (0x031FEC7A24200002, .cgath ⟨0#3, 63#6, some .sys, some .ctx, 3#2, true, 40#6⟩ 9#4 (.bank 1#4 false 0#4 false 2#15)),
    (0x0400800A07FFFFFF, .cmig ⟨0#3, 1#6, none, none, 0#2, false, 40#6⟩ true 0x3FFFFFF#26),
    (0x101FEC7A01FFFFFF, .nmcopy ⟨0#3, 63#6, some .sys, some .ctx, 3#2, true, 40#6⟩ 0x1FFFFFF#25),
    (0x111FEC7A00200002, .nmdot ⟨0#3, 63#6, some .sys, some .ctx, 3#2, true, 40#6⟩ (.bank 1#4 false 0#4 false 2#15)),
    (0x2000801A30200002, .fsamp ⟨0#3, 1#6, none, none, 0#2, true, 40#6⟩ .bf16 (.bank 1#4 false 0#4 false 2#15)),
    (0x211FED8A00200002, .ftap ⟨0#3, 63#6, some .sys, some .die, 0#2, false, 40#6⟩ (.bank 1#4 false 0#4 false 2#15)),
    (0x2200800A00000FFF, .ftick ⟨0#3, 1#6, none, none, 0#2, false, 40#6⟩ 0xFFF#12),
    (0x2200800A04007003, .ftickG ⟨0#3, 1#6, none, none, 0#2, false, 40#6⟩ 7#3 3#12),
    (0x231FED8A00000000, .freset ⟨0#3, 63#6, some .sys, some .die, 0#2, false, 40#6⟩),
    (0x231FED8A04000000, .fresetIn ⟨0#3, 63#6, some .sys, some .die, 0#2, false, 40#6⟩),
    (0x281FED8A00200002, .collRs ⟨0#3, 63#6, some .sys, some .die, 0#2, false, 40#6⟩ (.bank 1#4 false 0#4 false 2#15)),
    (0x281FED8A04200002, .collAg ⟨0#3, 63#6, some .sys, some .die, 0#2, false, 40#6⟩ (.bank 1#4 false 0#4 false 2#15)),
    (0x281FED8A08200002, .collAr ⟨0#3, 63#6, some .sys, some .die, 0#2, false, 40#6⟩ (.bank 1#4 false 0#4 false 2#15))] : List (Nat × Instr)).all (fun p => reads p.2 (decodeSlot .c p.1))) = true := by decide +kernel

/-- Words of the Y slot (R58). -/
theorem test_decode_y : (([
    (0x00000004C0000000, .fence 0#3 .pkg .sc),
    (0x010000000000258C, .qadvH 0#3 12#4 (.imm 300#9)),
    (0x0100004800004013, .qadvT 0#3 3#4 (.reg 9#6)),
    (0x02000A0000000000, .twait 0#3 5#6),
    (0x0300280000000000, .twany 0#3 20#6),
    (0x04030A0000000000, .tfind 0#3 6#6 5#6),
    (0x05000A0000000000, .tclr 0#3 5#6),
    (0x0600000200000003, .bar 0#3 .cluster 3#2),
    (0x07000A3500000000, .signalAdd 0#3 .sys 5#6 6#6),
    (0x07000A3000000001, .signalStore 0#3 .ctx 5#6 6#6),
    (0x08048A3303FFFFFF, .swait 0#3 .die 9#6 5#6 6#6 0x3FFFFFF#26),
    (0x09048A0000000000, .launch 0#3 9#6 5#6),
    (0x0A000A0000000000, .expose 0#3 5#6),
    (0x0B00000000000000, .yield 0#3)] : List (Nat × Instr)).all (fun p => reads p.2 (decodeSlot .y p.1))) = true := by decide +kernel

/-- Slot words that the spec's examples and listings give. -/
theorem test_decode_examples : (([
    (.y, 0x0100000000000043, .qadvH 0#3 3#4 (.imm 2#9)),
    (.y, 0x02000A0000000000, .twait 0#3 5#6),
    (.m, 0x0000060060A00000, .mrun 0#3 0#8 1#2 true 3#12 5#8),
    (.m, 0x0100000000143800, .mploadP 0#3 2#3 7#6),
    (.m, 0x0200600000000000, .lend 0#3 3#4),
    (.s, 0x0400A00403800010, .putq 0#3 40#11 2#2 0#2 12#4 1#9),
    (.m, 0x0400600000000828, .mstrOpen 0#3 3#3 5#3 0x20#10),
    (.y, 0x0600000200000001, .bar 0#3 .cluster 1#2),
    (.c, 0x0002D82300C00080, .cpyLd ⟨0#3, 5#6, some .die, none, 1#2, false, 12#6⟩ false (.bank 6#4 false 0#4 false 128#15)),
    (.y, 0x070028AB00000000, .signalAdd 0#3 .die 20#6 21#6),
    (.y, 0x0801A8B300000000, .swait 0#3 .die 3#6 20#6 22#6 0#26),
    (.c, 0x1003002600000010, .nmcopy ⟨0#3, 6#6, none, none, 1#2, false, 24#6⟩ 16#25),
    (.c, 0x1101000500600000, .nmdot ⟨0#3, 2#6, none, none, 0#2, false, 20#6⟩ (.bank 3#4 false 0#4 false 0#15)),
    (.c, 0x2001858534A00000, .fsamp ⟨0#3, 3#6, none, some .die, 0#2, false, 20#6⟩ .fp32 (.bank 5#4 false 0#4 false 0#15)),
    (.c, 0x2102000500C00000, .ftap ⟨0#3, 4#6, none, none, 0#2, false, 20#6⟩ (.bank 6#4 false 0#4 false 0#15)),
    (.c, 0x2202D80500000000, .ftick ⟨0#3, 5#6, some .die, none, 0#2, false, 20#6⟩ 0#12),
    (.y, 0x0A001C0000000000, .expose 0#3 14#6),
    (.c, 0x2800DD8348C00000, .collAr ⟨0#3, 1#6, some .die, some .die, 0#2, false, 13#6⟩ (.bank 6#4 false 0#4 false 0#15)),
    (.y, 0x00000003C0000000, .fence 0#3 .die .sc),
    (.c, 0x0000859284400000, .cpySt ⟨0#3, 1#6, none, some .die, 0#2, true, 10#6⟩ (.bank 2#4 false 0#4 false 0#15)),
    (.c, 0x2801580380C00008, .collRs ⟨0#3, 2#6, some .die, none, 0#2, false, 14#6⟩ (.bank 6#4 false 0#4 false 8#15)),
    (.c, 0x2200800604001007, .ftickG ⟨0#3, 1#6, none, none, 0#2, false, 24#6⟩ 1#3 7#12),
    (.x, 0x0010C30000000001, .add 0#3 3#6 3#6 (.imm 1#32)),
    (.va, 0x0000280580C0D000, .vadd ⟨0#3, 10#11, 11#11, 12#11, 0#4, .fp32, 0#2, .none, 0#8⟩),
    (.s, 0x0000540000800040, .vst ⟨0#3, 21#11, 0#2, false, .i4, 0#9, .bank 4#4 false 0#4 false 64#15⟩),
    (.x, 0x2D00000000000000, .exit 0#3 (.reg 0#6))] : List (Slot × Nat × Instr)).all (fun p => reads p.2.2 (decodeSlot p.1 p.2.1))) = true := by
  decide +kernel

/-- The bundle of the example under R34: header 0xA0004403, an X word and a VA word; with GAP 15 its header is 0xA0005E03. -/
theorem test_decode_bundle :
    reads (⟨⟨3#8, false, 2#4, 2#6, false⟩, [(.x, .add 0#3 3#6 3#6 (.imm 1#32)),
        (.va, .vadd ⟨0#3, 10#11, 11#11, 12#11, 0#4, .fp32, 0#2, .none, 0#8⟩)]⟩ : Bundle)
      (decodeBundle (0xA0004403 + 0x0010C30000000001 * 2 ^ 32 + 0x0000280580C0D000 * 2 ^ 96)) = true ∧
    (headerRaw 0xA0004403).len = 20 ∧ headerRaw 0xA0005E03 = ⟨3#8, false, 15#4, 2#6, false⟩ := by decide +kernel

/-- A decoder refuses, for this reason. -/
def refuses {α ε : Type} [DecidableEq ε] (x : ε) : Except ε α → Bool
  | .ok _ => false
  | .error y => decide (x = y)

/-- Encodings that the spec refuses, with the reason (R61): an unassigned opcode, CLZ in X-I, `.N` on ADD, INC without AU, type 15,
VRED in VA, a reserved micro-op, a bit of MAC that must be zero, a wrong MARK, a reserved header bit, PROFILE 10. -/
theorem test_decode_refuses :
    refuses .opcode (decodeSlot .x (0x50 * 2 ^ 56)) = true ∧ refuses .reserved (decodeSlot .x (0x0C * 2 ^ 56 + 2 ^ 52)) = true ∧
    refuses .zero (decodeSlot .x (2 ^ 23)) = true ∧ refuses .zero (decodeSlot .l (2 ^ 15)) = true ∧
    refuses .reserved (decodeSlot .va (15 * 2 ^ 12)) = true ∧ refuses .vbOnly (decodeSlot .va (0x80 * 2 ^ 56 + 13 * 2 ^ 12)) = true ∧
    (decodeMicro (12 * 2 ^ 28)).toOption = none ∧ refuses .zero (decodeMicro (2 * 2 ^ 28 + 1)) = true ∧
    refuses .mark (decodeHeader 0x90000001) = true ∧ refuses .hdrZero (decodeHeader 0xA0100001) = true ∧
    refuses .profile (decodeHeader (0xA0000001 + 10 * 2 ^ 13)) = true := by decide +kernel

/-! ### WellFormed: a term that each check refuses -/

/-- Terms with a field that must be zero and is not: refused by `zeroOk` alone. -/
theorem test_wf_zero1 : ([
    .vadd ⟨0#3, 5#11, 6#11, 7#11, 0#4, .fp32, 0#2, .none, 1#8⟩, .vsub ⟨0#3, 5#11, 6#11, 7#11, 0#4, .fp32, 0#2, .none, 1#8⟩,
    .vmul ⟨0#3, 5#11, 6#11, 7#11, 0#4, .fp32, 0#2, .none, 1#8⟩, .vfma ⟨0#3, 5#11, 6#11, 7#11, 0#4, .fp32, 0#2, .none, 1#8⟩,
    .vfms ⟨0#3, 5#11, 6#11, 7#11, 0#4, .fp32, 0#2, .none, 1#8⟩, .vadd ⟨0#3, 5#11, 6#11, 7#11, 0#4, .fp32, 0#2, .first, 0#8⟩,
    .vadd ⟨0#3, 5#11, 0#11, 7#11, 0#4, .fp32, 0#2, .second, 0#8⟩, .vmin ⟨0#3, 5#11, 6#11, 7#11, 0#4, .fp32, 1#2, .none, 0#8⟩,
    .vmax ⟨0#3, 5#11, 6#11, 7#11, 0#4, .fp32, 1#2, .none, 0#8⟩, .vabs ⟨0#3, 5#11, 6#11, 7#11, 0#4, .fp32, 0#2, .none, 0#8⟩,
    .vneg ⟨0#3, 5#11, 6#11, 7#11, 0#4, .fp32, 0#2, .none, 0#8⟩, .viadd ⟨0#3, 5#11, 6#11, 7#11, 0#4, .i8, 0#2, .none, 2#8⟩,
    .visub ⟨0#3, 5#11, 6#11, 7#11, 0#4, .i8, 0#2, .none, 2#8⟩, .vimul ⟨0#3, 5#11, 6#11, 7#11, 0#4, .i8, 0#2, .none, 2#8⟩,
    .vimad ⟨0#3, 5#11, 6#11, 7#11, 0#4, .i8, 0#2, .none, 0#8⟩, .vimin ⟨0#3, 5#11, 6#11, 7#11, 0#4, .i8, 0#2, .none, 1#8⟩,
    .vimax ⟨0#3, 5#11, 6#11, 7#11, 0#4, .i8, 0#2, .none, 1#8⟩, .viabs ⟨0#3, 5#11, 6#11, 7#11, 0#4, .i8, 0#2, .none, 0#8⟩,
    .vshl ⟨0#3, 5#11, 6#11, 64#11, 0#4, .i8, 0#2, .none, 2#8⟩, .vshr ⟨0#3, 5#11, 6#11, 7#11, 0#4, .i8, 0#2, .none, 1#8⟩,
    .vsra ⟨0#3, 5#11, 6#11, 64#11, 0#4, .i8, 0#2, .none, 2#8⟩, .vand ⟨0#3, 5#11, 6#11, 7#11, 0#4, .fp32, 1#2, .none, 0#8⟩,
    .vor ⟨0#3, 5#11, 6#11, 7#11, 0#4, .fp32, 1#2, .none, 0#8⟩, .vxor ⟨0#3, 5#11, 6#11, 7#11, 0#4, .fp32, 1#2, .none, 0#8⟩,
    .vcmp ⟨0#3, 16#11, 6#11, 7#11, 0#4, .fp32, 0#2, .none, 0#8⟩, .vsel ⟨0#3, 5#11, 6#11, 7#11, 0#4, .fp32, 2#2, .none, 0#8⟩,
    .vmop ⟨0#3, 1#11, 2#11, 3#11, 0#4, .i8, 0#2, .none, 0#8⟩, .vmop ⟨0#3, 1#11, 2#11, 3#11, 1#4, .i4, 0#2, .none, 0#8⟩,
    .vmop ⟨0#3, 16#11, 2#11, 3#11, 0#4, .i4, 0#2, .none, 0#8⟩, .vmop ⟨0#3, 1#11, 16#11, 3#11, 0#4, .i4, 0#2, .none, 0#8⟩,
    .vmop ⟨0#3, 1#11, 2#11, 16#11, 0#4, .i4, 0#2, .none, 0#8⟩, .vmop ⟨0#3, 1#11, 64#11, 0#11, 0#4, .i4, 0#2, .none, 5#8⟩,
    .vmop ⟨0#3, 1#11, 2#11, 1#11, 0#4, .i4, 0#2, .none, 4#8⟩, .vrcp ⟨0#3, 5#11, 6#11, 7#11, 0#4, .fp32, 0#2, .none, 0#8⟩,
    .vrsq ⟨0#3, 5#11, 6#11, 7#11, 0#4, .fp32, 0#2, .none, 0#8⟩, .vsqrt ⟨0#3, 5#11, 6#11, 7#11, 0#4, .fp32, 0#2, .none, 0#8⟩,
    .vexp2 ⟨0#3, 5#11, 6#11, 7#11, 0#4, .fp32, 0#2, .none, 0#8⟩, .vlog2 ⟨0#3, 5#11, 6#11, 7#11, 0#4, .fp32, 0#2, .none, 0#8⟩,
    .vtanh ⟨0#3, 5#11, 6#11, 7#11, 0#4, .fp32, 0#2, .none, 0#8⟩, .verf ⟨0#3, 5#11, 6#11, 7#11, 0#4, .fp32, 0#2, .none, 0#8⟩,
    .vcvt ⟨0#3, 5#11, 6#11, 0#11, 0#4, .fp32, 0#2, .none, 16#8⟩, .vcvt ⟨0#3, 5#11, 6#11, 7#11, 0#4, .fp32, 0#2, .none, 0#8⟩,
    .vwiden ⟨0#3, 5#11, 6#11, 0#11, 0#4, .fp32, 0#2, .none, 2#8⟩, .vunpk ⟨0#3, 5#11, 6#11, 7#11, 0#4, .fp32, 0#2, .none, 2#8⟩,
    .vnarrow ⟨0#3, 5#11, 5#11, 0#11, 0#4, .i8, 0#2, .none, 6#8⟩, .vnarrow ⟨0#3, 5#11, 8#11, 0#11, 0#4, .i8, 0#2, .none, 29#8⟩,
    .vqmx ⟨0#3, 5#11, 6#11, 7#11, 1#4, .e4m3, 0#2, .none, 0#8⟩, .vperm ⟨0#3, 5#11, 6#11, 7#11, 0#4, .fp32, 1#2, .none, 0#8⟩,
    .vslide ⟨0#3, 5#11, 6#11, 7#11, 0#4, .fp32, 1#2, .none, 0#8⟩, .vbcast ⟨0#3, 5#11, 1#11, 3#11, 0#4, .fp32, 0#2, .none, 1#8⟩,
    .vbcast ⟨0#3, 5#11, 0#11, 64#11, 0#4, .fp32, 0#2, .none, 1#8⟩, .vextr ⟨0#3, 64#11, 6#11, 7#11, 0#4, .fp32, 0#2, .none, 0#8⟩,
    .vextr ⟨0#3, 1#11, 6#11, 7#11, 1#4, .fp32, 0#2, .none, 0#8⟩, .vins ⟨0#3, 5#11, 64#11, 7#11, 0#4, .fp32, 0#2, .none, 0#8⟩,
    .vred ⟨0#3, 1#11, 6#11, 0#11, 0#4, .fp32, 0#2, .none, 0#8⟩, .vrdrn ⟨0#3, 5#11, 1#11, 0#11, 0#4, .fp32, 0#2, .none, 0#8⟩,
    .vrclr ⟨0#3, 0#11, 1#11, 0#11, 0#4, .i4, 0#2, .none, 0#8⟩, .vrclr ⟨0#3, 0#11, 0#11, 0#11, 0#4, .fp32, 0#2, .none, 0#8⟩] : List Instr).all (fun i => !i.zeroOk && i.codeOk && !i.wf) = true := by
  decide +kernel

/-- More of them. -/
theorem test_wf_zero2 : ([
    .vrclr ⟨0#3, 0#11, 0#11, 0#11, 1#4, .i4, 0#2, .none, 0#8⟩, .vdot ⟨0#3, 5#11, 6#11, 7#11, 0#4, .fp32, 1#2, .none, 0#8⟩,
    .raddf ⟨0#3, 5#11, 6#11, 7#11, 0#4, .fp32, 1#2, .none, 0#8⟩, .unaddf ⟨0#3, 5#11, 6#11, 7#11, 0#4, .fp32, 1#2, .none, 0#8⟩,
    .rsubf ⟨0#3, 5#11, 6#11, 7#11, 0#4, .fp32, 1#2, .none, 0#8⟩, .unsubf ⟨0#3, 5#11, 6#11, 7#11, 0#4, .fp32, 1#2, .none, 0#8⟩,
    .rmulf ⟨0#3, 5#11, 6#11, 7#11, 0#4, .fp32, 1#2, .none, 0#8⟩, .unmulf ⟨0#3, 5#11, 6#11, 7#11, 0#4, .fp32, 1#2, .none, 0#8⟩,
    .rnarw ⟨0#3, 5#11, 5#11, 0#11, 0#4, .bf16, 0#2, .none, 13#8⟩, .unnarw ⟨0#3, 5#11, 6#11, 0#11, 0#4, .bf16, 0#2, .none, 13#8⟩,
    .rshr ⟨0#3, 5#11, 6#11, 7#11, 0#4, .i8, 0#2, .none, 1#8⟩, .unshr ⟨0#3, 5#11, 6#11, 64#11, 0#4, .i8, 0#2, .none, 2#8⟩,
    .rscl ⟨0#3, 5#11, 6#11, 1#11, 0#4, .fp32, 0#2, .none, 0#8⟩, .unscl ⟨0#3, 5#11, 6#11, 1#11, 0#4, .fp32, 0#2, .none, 0#8⟩,
    .rimul ⟨0#3, 5#11, 6#11, 7#11, 0#4, .i8, 0#2, .none, 1#8⟩, .unimul ⟨0#3, 5#11, 6#11, 7#11, 0#4, .i8, 0#2, .none, 1#8⟩,
    .spmark 0#3 1#6 (.imm 65536#32), .spdrop 0#3 1#6 (.imm 65536#32),
    .vld ⟨0#3, 1#11, 0#2, false, .i8, 0#9, .bank 5#4 false 0#4 false 8#15⟩, .vld ⟨0#3, 1#11, 0#2, false, .i4, 1#9, .bank 5#4 false 0#4 false 8#15⟩,
    .vld ⟨0#3, 1#11, 0#2, false, .i4, 0#9, .bank 5#4 false 0#4 true 8#15⟩, .vldg ⟨0#3, 1#11, 0#2, false, .i8, 0#9, .bank 5#4 false 0#4 false 8#15⟩,
    .vldg ⟨0#3, 1#11, 0#2, false, .i4, 1#9, .bank 5#4 false 0#4 false 8#15⟩, .vldg ⟨0#3, 1#11, 0#2, false, .i4, 0#9, .bank 5#4 false 0#4 true 8#15⟩,
    .sld ⟨0#3, 64#11, 0#2, false, .i4, 0#9, .bank 5#4 false 0#4 false 8#15⟩, .sst ⟨0#3, 64#11, 0#2, false, .i4, 0#9, .bank 5#4 false 0#4 false 8#15⟩,
    .mld ⟨0#3, 16#11, 0#2, false, .i4, 0#9, .bank 5#4 false 0#4 false 8#15⟩, .mst ⟨0#3, 16#11, 0#2, false, .i4, 0#9, .bank 5#4 false 0#4 false 8#15⟩,
    .vldt ⟨0#3, 1#11, 0#2, false, .i4, 1#9, .bank 5#4 false 0#4 false 8#15⟩, .vstx ⟨0#3, 1#11, 0#2, false, .i4, 1#9, .bank 5#4 false 0#4 false 8#15⟩,
    .vldb ⟨0#3, 1#11, 0#2, false, .e4m3, 8#9, .bank 5#4 false 0#4 false 8#15⟩, .vldb ⟨0#3, 2#11, 0#2, false, .e4m3, 24#9, .bank 5#4 false 0#4 false 8#15⟩,
    .vst ⟨0#3, 1#11, 0#2, false, .i4, 16#9, .bank 5#4 false 0#4 false 8#15⟩, .cpyLd ⟨0#3, 1#6, none, none, 0#2, false, 2#6⟩ false (.bank 5#4 false 0#4 true 8#15),
    .cpySt ⟨0#3, 1#6, none, none, 0#2, false, 2#6⟩ (.bank 5#4 false 0#4 true 8#15), .cpytLd ⟨0#3, 1#6, none, none, 1#2, false, 2#6⟩ (.bank 5#4 false 0#4 false 8#15),
    .cpytSt ⟨0#3, 1#6, none, none, 0#2, true, 2#6⟩ (.bank 5#4 false 0#4 false 8#15), .cgath ⟨0#3, 1#6, none, none, 0#2, false, 2#6⟩ 1#4 (.bank 5#4 false 0#4 true 8#15),
    .cpair ⟨0#3, 1#6, none, none, 0#2, false, 3#6⟩ (.bank 5#4 false 0#4 false 8#15), .cmig ⟨0#3, 1#6, none, none, 0#2, false, 3#6⟩ true 0#26,
    .cmig ⟨0#3, 1#6, some .sys, none, 0#2, false, 2#6⟩ true 0#26, .cmig ⟨0#3, 1#6, none, some .sys, 0#2, false, 2#6⟩ true 0#26,
    .nmcopy ⟨0#3, 1#6, none, none, 0#2, false, 3#6⟩ 0#25, .nmdot ⟨0#3, 1#6, none, none, 0#2, false, 3#6⟩ (.bank 5#4 false 0#4 false 8#15),
    .fsamp ⟨0#3, 1#6, none, none, 0#2, false, 3#6⟩ .fp32 (.bank 5#4 false 0#4 false 8#15), .ftap ⟨0#3, 1#6, none, none, 1#2, false, 2#6⟩ (.bank 5#4 false 0#4 false 8#15),
    .ftick ⟨0#3, 1#6, none, none, 0#2, true, 2#6⟩ 0#12, .ftickG ⟨0#3, 1#6, none, none, 0#2, false, 2#6⟩ 0#3 0#12,
    .ftickG ⟨0#3, 1#6, none, none, 0#2, false, 62#6⟩ 2#3 0#12, .freset ⟨0#3, 1#6, none, none, 0#2, false, 3#6⟩,
    .fresetIn ⟨0#3, 1#6, none, none, 0#2, false, 5#6⟩, .collRs ⟨0#3, 1#6, none, none, 1#2, false, 2#6⟩ (.bank 5#4 false 0#4 false 8#15),
    .collAg ⟨0#3, 1#6, none, none, 0#2, true, 2#6⟩ (.bank 5#4 false 0#4 false 8#15), .collAr ⟨0#3, 1#6, none, none, 0#2, false, 2#6⟩ (.bank 5#4 false 0#4 true 8#15),
    .feeda 0#3 false 1#4, .feedb 0#3 false 1#4,
    .emit 0#3 0#3 false 1#3, .scale false false] : List Instr).all (fun i => !i.zeroOk && i.codeOk && !i.wf) = true := by
  decide +kernel

/-- Terms with a reserved code: refused by `codeOk` alone. -/
theorem test_wf_code : ([
    .vadd ⟨0#3, 5#11, 6#11, 7#11, 0#4, .i8, 0#2, .none, 0#8⟩, .vsub ⟨0#3, 5#11, 6#11, 7#11, 0#4, .i8, 0#2, .none, 0#8⟩,
    .vmul ⟨0#3, 5#11, 6#11, 7#11, 0#4, .i8, 0#2, .none, 0#8⟩, .vfma ⟨0#3, 5#11, 6#11, 7#11, 0#4, .i8, 0#2, .none, 0#8⟩,
    .vfms ⟨0#3, 5#11, 6#11, 7#11, 0#4, .i8, 0#2, .none, 0#8⟩, .vmin ⟨0#3, 5#11, 6#11, 7#11, 0#4, .i8, 0#2, .none, 0#8⟩,
    .vmax ⟨0#3, 5#11, 6#11, 7#11, 0#4, .i8, 0#2, .none, 0#8⟩, .vadd ⟨0#3, 5#11, 0#11, 7#11, 0#4, .fp16, 0#2, .first, 0#8⟩,
    .vabs ⟨0#3, 5#11, 6#11, 0#11, 0#4, .fp32, 0#2, .second, 0#8⟩, .vneg ⟨0#3, 5#11, 6#11, 0#11, 0#4, .fp32, 0#2, .second, 0#8⟩,
    .viadd ⟨0#3, 5#11, 6#11, 7#11, 0#4, .fp32, 0#2, .none, 0#8⟩, .visub ⟨0#3, 5#11, 6#11, 7#11, 0#4, .fp32, 0#2, .none, 0#8⟩,
    .vimul ⟨0#3, 5#11, 6#11, 7#11, 0#4, .fp32, 0#2, .none, 0#8⟩, .vimin ⟨0#3, 5#11, 6#11, 7#11, 0#4, .fp32, 0#2, .none, 0#8⟩,
    .vimax ⟨0#3, 5#11, 6#11, 7#11, 0#4, .fp32, 0#2, .none, 0#8⟩, .vshl ⟨0#3, 5#11, 6#11, 7#11, 0#4, .fp32, 0#2, .none, 0#8⟩,
    .vshr ⟨0#3, 5#11, 6#11, 7#11, 0#4, .fp32, 0#2, .none, 0#8⟩, .vsra ⟨0#3, 5#11, 6#11, 7#11, 0#4, .fp32, 0#2, .none, 0#8⟩,
    .vimad ⟨0#3, 4#11, 6#11, 7#11, 0#4, .i32, 0#2, .none, 0#8⟩, .viabs ⟨0#3, 5#11, 6#11, 0#11, 0#4, .n8, 0#2, .none, 0#8⟩,
    .vand ⟨0#3, 5#11, 0#11, 7#11, 0#4, .fp32, 0#2, .first, 0#8⟩, .vor ⟨0#3, 5#11, 0#11, 7#11, 0#4, .fp32, 0#2, .first, 0#8⟩,
    .vxor ⟨0#3, 5#11, 0#11, 7#11, 0#4, .fp32, 0#2, .first, 0#8⟩, .vcmp ⟨0#3, 5#11, 6#11, 7#11, 0#4, .e8m0, 0#2, .none, 0#8⟩,
    .vcmp ⟨0#3, 5#11, 6#11, 7#11, 0#4, .fp32, 0#2, .none, 8#8⟩, .vcmp ⟨0#3, 5#11, 6#11, 7#11, 0#4, .i8, 0#2, .none, 6#8⟩,
    .vsel ⟨0#3, 5#11, 0#11, 7#11, 0#4, .i8, 0#2, .first, 0#8⟩, .vperm ⟨0#3, 5#11, 6#11, 0#11, 0#4, .i8, 0#2, .second, 0#8⟩,
    .vmop ⟨0#3, 1#11, 2#11, 3#11, 0#4, .i4, 0#2, .none, 6#8⟩, .vrcp ⟨0#3, 5#11, 6#11, 0#11, 0#4, .fp16, 0#2, .none, 0#8⟩,
    .vrsq ⟨0#3, 5#11, 6#11, 0#11, 0#4, .fp16, 0#2, .none, 0#8⟩, .vsqrt ⟨0#3, 5#11, 6#11, 0#11, 0#4, .fp16, 0#2, .none, 0#8⟩,
    .vexp2 ⟨0#3, 5#11, 6#11, 0#11, 0#4, .fp16, 0#2, .none, 0#8⟩, .vlog2 ⟨0#3, 5#11, 6#11, 0#11, 0#4, .fp16, 0#2, .none, 0#8⟩,
    .vtanh ⟨0#3, 5#11, 6#11, 0#11, 0#4, .fp16, 0#2, .none, 0#8⟩, .verf ⟨0#3, 5#11, 6#11, 0#11, 0#4, .fp16, 0#2, .none, 0#8⟩,
    .vcvt ⟨0#3, 5#11, 6#11, 0#11, 0#4, .e8m0, 0#2, .none, 13#8⟩, .vcvt ⟨0#3, 5#11, 6#11, 0#11, 0#4, .fp16, 0#2, .none, 14#8⟩,
    .vcvt ⟨0#3, 5#11, 6#11, 0#11, 0#4, .fp32, 0#2, .none, 15#8⟩, .vwiden ⟨0#3, 8#11, 6#11, 0#11, 0#4, .fp16, 0#2, .none, 13#8⟩,
    .vunpk ⟨0#3, 5#11, 6#11, 0#11, 0#4, .i8, 0#2, .none, 32#8⟩, .vnarrow ⟨0#3, 5#11, 8#11, 0#11, 0#4, .i8, 0#2, .none, 2#8⟩,
    .vqmx ⟨0#3, 5#11, 6#11, 7#11, 0#4, .fp16, 0#2, .none, 0#8⟩, .vqmx ⟨0#3, 5#11, 6#11, 7#11, 0#4, .e4m3, 0#2, .none, 4#8⟩,
    .vdqmx ⟨0#3, 5#11, 6#11, 7#11, 0#4, .i8, 0#2, .none, 0#8⟩, .vslide ⟨0#3, 5#11, 6#11, 7#11, 0#4, .fp32, 0#2, .none, 129#8⟩,
    .vbcast ⟨0#3, 5#11, 6#11, 128#11, 0#4, .fp32, 0#2, .none, 0#8⟩, .vextr ⟨0#3, 5#11, 6#11, 128#11, 0#4, .fp32, 0#2, .none, 0#8⟩,
    .vins ⟨0#3, 5#11, 6#11, 128#11, 0#4, .fp32, 0#2, .none, 0#8⟩, .vred ⟨0#3, 0#11, 6#11, 0#11, 0#4, .i8, 0#2, .none, 0#8⟩,
    .vrdrn ⟨0#3, 5#11, 0#11, 0#11, 0#4, .fp16, 0#2, .none, 0#8⟩, .vrclr ⟨0#3, 0#11, 0#11, 0#11, 0#4, .i4, 0#2, .none, 160#8⟩,
    .vrclr ⟨0#3, 0#11, 6#11, 0#11, 0#4, .i32, 0#2, .none, 4#8⟩, .vdot ⟨0#3, 5#11, 6#11, 7#11, 0#4, .e8m0, 0#2, .none, 0#8⟩,
    .raddf ⟨0#3, 5#11, 6#11, 7#11, 0#4, .i8, 0#2, .none, 0#8⟩, .rsubf ⟨0#3, 5#11, 6#11, 7#11, 0#4, .i8, 0#2, .none, 0#8⟩,
    .rmulf ⟨0#3, 5#11, 6#11, 7#11, 0#4, .i8, 0#2, .none, 0#8⟩, .unaddf ⟨0#3, 5#11, 6#11, 7#11, 0#4, .i8, 0#2, .none, 0#8⟩,
    .unsubf ⟨0#3, 5#11, 6#11, 7#11, 0#4, .i8, 0#2, .none, 0#8⟩, .unmulf ⟨0#3, 5#11, 6#11, 7#11, 0#4, .i8, 0#2, .none, 0#8⟩,
    .rscl ⟨0#3, 5#11, 6#11, 0#11, 0#4, .i8, 0#2, .none, 0#8⟩, .unscl ⟨0#3, 5#11, 6#11, 0#11, 0#4, .i8, 0#2, .none, 0#8⟩,
    .unaddf ⟨0#3, 5#11, 0#11, 7#11, 0#4, .fp32, 0#2, .first, 0#8⟩, .rnarw ⟨0#3, 5#11, 6#11, 0#11, 0#4, .fp32, 0#2, .none, 13#8⟩,
    .unnarw ⟨0#3, 6#11, 6#11, 0#11, 0#4, .fp32, 0#2, .none, 13#8⟩, .rshr ⟨0#3, 5#11, 6#11, 7#11, 0#4, .fp32, 0#2, .none, 0#8⟩,
    .unshr ⟨0#3, 5#11, 6#11, 7#11, 0#4, .fp32, 0#2, .none, 0#8⟩, .rimul ⟨0#3, 5#11, 6#11, 7#11, 0#4, .fp32, 0#2, .none, 0#8⟩,
    .unimul ⟨0#3, 5#11, 6#11, 7#11, 0#4, .fp32, 0#2, .none, 0#8⟩, .loop 0#3 false 0#3 (.imm 1#32),
    .wnextField 0#3 1#6 6#3, .mtc 0#3 0#4 1#6,
    .mtc 0#3 12#4 1#6, .shw 0#3 0#2 0#2 3#6 (.imm 0#32),
    .shw 0#3 1#2 0#2 1#6 (.imm 0#32), .shw 0#3 2#2 0#2 5#6 (.imm 0#32),
    .shw 0#3 3#2 0#2 4#6 (.imm 0#32), .tdw 0#3 0#6 17#6 (.imm 0#32),
    .tdr 0#3 1#6 0#6 17#6 true, .vldb ⟨0#3, 2#11, 0#2, false, .e4m3, 0#9, .bank 5#4 false 0#4 false 8#15⟩,
    .putq 0#3 1#11 0#2 0#2 11#4 1#9, .fsamp ⟨0#3, 1#6, none, none, 0#2, false, 2#6⟩ .i8 (.bank 5#4 false 0#4 false 8#15),
    .bar 0#3 .sys 0#2] : List Instr).all (fun i => i.zeroOk && !i.codeOk && !i.wf) = true := by
  decide +kernel

/-- Steps that name parts the device does not have. -/
theorem test_wf_parts : ([
    .commitPropagate 131, .benchFailure 2 0,
    .benchThrottle 0 4, .benchPowerOn 2 0,
    .benchPowerOff 0 4, .throttleRelease 2 0,
    .copyCommandStart 128, .nmCommandStart 256,
    .patrolScrub 256, .collStart 2,
    .evbaseWrite 2 0, .arbwWrite 2 0,
    .kernelAdmission 64, .admissionHold 64,
    .launchCommand 64, .wait 64,
    .waitSatisfied 64, .signalCommand 64,
    .expclose 64, .expset 64,
    .inval 64, .asidBind 64,
    .asidRelease 64, .capCreate 64,
    .capRevoke 64, .attest 64,
    .preempt 64, .resumeCommand 64,
    .abort 64, .cresume 64,
    .priorityPreemption 64, .qbellWrite 64 0,
    .linkQueueDeliver 32 0, .linkQueueDeliver 0 512,
    .flitCrcError 32, .ackTimeout 32,
    .linkRetrain 32, .flitAcknowledgement 32 1,
    .retrainingEnd 32 true, .exportEntryWrite 256 0 0] : List Instr).all (fun i => i.zeroOk && i.codeOk && !i.partsOk && !i.wf) = true := by
  decide +kernel

/-! ### One step: results worked out by hand from the spec -/

/-- A result's value is this scalar. -/
def givesS (i : Instr) (c : Ctx) (sd : BitVec 6) (v : BitVec 64) : Bool := results i (at0 c) == [.s sd v]

theorem test_add_wraps : givesS (.add 0#3 3#6 1#6 (.imm 1#32)) { sr := [(1, -1#64)] } 3#6 0#64 = true := by decide +kernel

theorem test_mulh_unsigned : givesS (.mulh 0#3 true 3#6 1#6 (.reg 1#6)) { sr := [(1, -1#64)] } 3#6 (-2#64) = true := by decide +kernel

/-- R131: `MIN.N S2, S3, #-1` compares with 2^64 − 1. -/
theorem test_min_unsigned_immediate : givesS (.min 0#3 true 2#6 3#6 (.imm 0xFFFFFFFF#32)) { sr := [(3, 5#64)] } 2#6 5#64 = true := by
  decide +kernel

theorem test_shl_counts_mod_64 : givesS (.shl 0#3 3#6 1#6 (.imm 65#32)) { sr := [(1, 3#64)] } 3#6 6#64 = true := by decide +kernel

theorem test_sra_is_signed : givesS (.sra 0#3 3#6 1#6 (.imm 1#32)) { sr := [(1, -8#64)] } 3#6 (-4#64) = true := by decide +kernel

/-- R132's example. -/
theorem test_clz_example : givesS (.clz 0#3 6#6 7#6) { sr := [(7, 0x10000#64)] } 6#6 47#64 = true := by decide +kernel

theorem test_set_unsigned : givesS (.set 0#3 .lo 3#6 4#6 (.imm 64#32)) { sr := [(4, -1#64)] } 3#6 0#64 = true := by decide +kernel

/-- R135's example. -/
theorem test_lih_example : givesS (.lih 0#3 4#6 4#6 1#32) { sr := [(4, 0x10#64)] } 4#6 0x100000010#64 = true := by decide +kernel

/-- R136: ADDA wraps the offset mod 2^18 and keeps bank and step. -/
theorem test_adda_wraps_in_bank :
    results (.adda 0#3 3#4 2#4 (.imm 1#32)) (at0 { ar := [(2, 0x0207FFFF#32)] }) = [.a 3#4 0x02040000#32] := by decide +kernel

theorem test_br_taken : after (.br 0#3 .eq 0#6 0#6 0x3FFFFFFD#30) (at0 {}) (fun t => t.me.pc == 52) = true := by decide +kernel

/-- TRAP (R140): code 0x0B with the number in INFO. -/
theorem test_trap_number : after (.trap 0#3 (.imm 7#32)) (at0 {}) (fun t =>
    t.iss.trapped.any (fun x => x.code == 0x0B && x.info == 7)) = true := by decide +kernel

/-- The V register and lane 0 of the one result, under a type's width. -/
def lane0 (i : Instr) (c : Ctx) (w : Nat) : Option (Nat × Nat) :=
  match results i (at0 c) with
  | [.v n v _ _] => some (n, v.toNat % 2 ^ w)
  | _ => none

theorem test_vadd_fp32 : lane0 (.vadd ⟨0#3, 3#11, 1#11, 2#11, 0#4, .fp32, 0#2, .none, 0#8⟩)
    { v := [(1, 0x3F800000#4096), (2, 0x40000000#4096)] } 32 = some (3, 0x40400000) := by decide +kernel

theorem test_viadd_saturates : lane0 (.viadd ⟨0#3, 3#11, 1#11, 2#11, 0#4, .i8, 0#2, .none, 1#8⟩)
    { v := [(1, 127#4096), (2, 1#4096)] } 8 = some (3, 127) := by decide +kernel

/-- R153: a count at or above the width gives −1 or 0 from VSRA. -/
theorem test_vsra_wide_count : lane0 (.vsra ⟨0#3, 3#11, 1#11, 20#11, 0#4, .i16, 0#2, .none, 2#8⟩)
    { v := [(1, 0x8000#4096)] } 16 = some (3, 0xFFFF) := by decide +kernel

/-- R155: −0 equals +0. -/
theorem test_vcmp_zeros : (match results (.vcmp ⟨0#3, 3#11, 1#11, 2#11, 0#4, .fp32, 0#2, .none, 0#8⟩) (at0 { v := [(1, 0x80000000#4096)] }) with
    | [.m n v _] => n == 3#4 && v.getLsbD 0
    | _ => false) = true := by decide +kernel

/-- R165: VSLIDE by 1 takes lane 1 of the first source into lane 0. -/
theorem test_vslide : lane0 (.vslide ⟨0#3, 3#11, 1#11, 2#11, 0#4, .i8, 0#2, .none, 1#8⟩) { v := [(1, 0x2211#4096)] } 8 = some (3, 0x22) := by
  decide +kernel

/-- R193: SLD reads eight bytes of its bank, little-endian. -/
theorem test_sld : results (.sld { lf .i4 with opd := 9, spa := .bank 5 false 0 false 1 })
    { at0 {} with mem := [(unitLoc 0 5 8, 0x34#8), (unitLoc 0 5 9, 0x12#8)] } = [.s 9#6 0x1234#64] := by decide +kernel

/-- R155, R199: TFIND of the lowest set tag with its status. -/
theorem test_tfind : (match results (.tfind 0#3 6#6 7#6) (at0 { sr := [(7, 0x30#64)], tagSet := 0x20#64, tagRec := [(5, 0x0100#64)] }) with
    | [.s 6#6 v] => v.toNat % 2 ^ 7 == 5 && v.toNat / 2 ^ 8 % 2 ^ 8 == 1
    | _ => false) = true := by decide +kernel

/-- R329's example: PA 0x00123456 is on channel 34 at offset 0x1456. -/
theorem test_interleave : paLoc 0 0x00123456 = some (dramLoc 34 0x1456) := by decide +kernel

/-- R88's worked example: chunk sums (2^24, 1, 1, 1, +0) under profiles 0 and 4. -/
theorem test_chain_against_tree :
    let s : List PSum := [.fp 0x4B800000, .fp 0x3F800000, .fp 0x3F800000, .fp 0x3F800000, .fp 0]
    (reduce 0 0 4 (.fp 0) s).1 = .fp 0x4B800000 ∧ (reduce 0 4 4 (.fp 0) s).1 = .fp 0x4B800001 := by decide +kernel

/-- R87's worked example: 1.0 and 128 products of 2^−29 under profiles 0 and 5. -/
theorem test_alignment_width :
    let p : List Ext := .num false 1 0 :: List.replicate 128 (.num false 1 (-29))
    (chunkSum 0 p).1 = .fp 0x3F800002 ∧ (chunkSum 5 p).1 = .fp 0x3F800000 := by decide +kernel

/-- R92's worked example: profile 7 wraps to the true sum, profile 8 clamps on the way. -/
theorem test_integer_chains :
    let s : List PSum := [.int 4194304, .int 3805696, .int 0, .int 0, .int (-4000000), .int (-4000000)]
    (reduce 0 7 4 (.int 2147480000) s).1 = .int 2147480000 ∧ (reduce 0 8 4 (.int 2147480000) s).1 = .int 2139483647 := by decide +kernel

/-- The momentum cell worked in chapter 15, after its fifth command and after its last. -/
theorem test_momentum_cell :
    let e : Cap := { valid := true, filter := true, cb0 := 0x3F800000, ca1 := 0xBF000000, ein := -8, tfmt := 0 }
    let at_ (t : Nat) : Cap := { e with t := t }
    let sample (t : Nat) (v : Nat) (c : Cell) : Cell := (at_ t).addSample ((at_ t).catchUp c) (valOf .fp32 v)
    let c5 := sample 2 0x3F800000 (sample 0 0x3E99999A (sample 0 0x3F400000 {}))
    c5 = { y0 := 0x3F068000, y1 := 0x3F868000, x0 := 0, x1 := 0x3F868000, acc := 256, stamp := 2 } ∧
    ((at_ 3).catchUp c5).y0 = 0x3FA1A000 ∧ ((at_ 3).catchUp c5).y1 = 0x3F068000 ∧ ((at_ 3).catchUp c5).x0 = 0x3F800000 ∧
    ((at_ 3).catchUp c5).acc = 0 := by decide +kernel

/-- R386: a close after an overflow lowers LSEXP, and the step is to be skipped. -/
theorem test_exposure_close : ({ ovf := true, count := 5 } : Expo).close = { lsexp := 15, count := 0, skip := true } := by decide +kernel

/-- The fetch of step runs the instruction that withFetchWord places. -/
theorem test_first_step : (match step (State.reset.withFetchWord 96 (0xA0000001 + 0x0010C30000000001 * 2 ^ 32)) with
    | .next t => t.inflight.map Res.val == [.s 3#6 1#64]
    | _ => false) = true := by decide +kernel

end Sys2Proof.Tests
end

/-! ## Lemmas of the proofs: the step at the issue stage

What the fetch queue, the slots of a bundle, the merge stage and the order of steps come to in a cycle in which one context, or
one routine, acts. -/

namespace Sys2Proof.Machine

/-! ### Instructions of a slot -/

/-- An instruction that has a guard stands in a slot, and a bundle runs it as `exec` does. -/
theorem exec_eq_slotExec {i : Instr} (h : i.guard ≠ none) (s : State) : exec i s = slotExec i s := by
  cases i
  -- Micro-words and events have no guard.
  any_goals exact absurd rfl h
  all_goals rfl

/-! ### Running one slot (R62, R424) -/

/-- The trap of a slot that names a lent bank (R273). -/
def TrapInfo.IsLent (x : TrapInfo) : Prop := x.code = 0x06 ∧ x.cause = 0x02

/-- The state in which the next slot of a trial runs. -/
def Trial.enter (t : Trial) (p : Slot × Instr) : State :=
  { t.s with iss := { t.s.iss with slot := p.1.code, blocked := false, trapped := none, mread := none } }

section
variable {t : Trial} {p : Slot × Instr} {s1 : State} (hx : slotExec p.2 (t.enter p) = .next s1)
include hx

theorem Trial.run_of_done (ht : s1.iss.trapped = none) (hb : s1.iss.blocked = false) : t.run p = { t with s := s1 } := by
  unfold Trial.enter at hx
  simp only [Trial.run, hx, ht, hb, Bool.false_eq_true, if_false]

theorem Trial.run_of_blocked (ht : s1.iss.trapped = none) (hb : s1.iss.blocked = true) :
    t.run p = { t with blocked := true, other := t.other || s1.iss.mread.isNone, mread := t.mread.or s1.iss.mread } := by
  unfold Trial.enter at hx
  simp only [Trial.run, hx, ht, hb, if_true]

/-- A wait of a slot comes before its trap of a lent bank. -/
theorem Trial.run_of_lent_wait {x : TrapInfo} (ht : s1.iss.trapped = some x) (hl : x.IsLent)
    (hw : (t.enter p).unlent p.2 = none) : t.run p = { t with blocked := true, other := true } := by
  unfold Trial.enter at hx hw
  unfold TrapInfo.IsLent at hl
  simp only [Trial.run, hx, ht, hl, hw, and_self, if_true]

/-- Any other trap joins those met; what a later slot sees is left open here. -/
theorem Trial.run_of_trap {x : TrapInfo} (ht : s1.iss.trapped = some x) (hw : x.IsLent → (t.enter p).unlent p.2 ≠ none) :
    ∃ s2, t.run p = { t with traps := t.traps ++ [x], s := s2 } := by
  unfold Trial.enter at hx hw
  unfold TrapInfo.IsLent at hw
  simp only [Trial.run, hx, ht]
  split
  · next hl =>
    obtain ⟨s2, h2⟩ := Option.ne_none_iff_exists'.mp (hw hl)
    exact ⟨s2, by rw [h2]⟩
  · exact ⟨t.s, rfl⟩

end

/-! ### The plan of a bundle of one slot -/

theorem runOrder_single (p : Slot × Instr) : runOrder [p] = [p] := by
  cases h : actsLast p.2 <;> simp [runOrder, h]

/-- One trap is the trap that is taken, whatever its class. -/
theorem firstTrap_single (x : TrapInfo) : firstTrap [x] = some x := by
  cases h : x.code == 0x01 <;> simp [firstTrap, h]

/-- The trial of a bundle before its first slot. -/
abbrev State.newTrial (s : State) (u : Nat) (b : Bundle) : Trial := { s := s.setIssue u b }

section
variable {s t : State} {u w : Nat} {h : Header} {p : Slot × Instr}
  (hx : slotExec p.2 ((s.newTrial u ⟨h, [p]⟩).enter p) = .next t) (hloop : (s.ctx u).loop = none)
include hx

include hloop in
theorem planBundle_of_done (ht : t.iss.trapped = none) (hb : t.iss.blocked = false) :
    s.planBundle u w ⟨h, [p]⟩ = .issues (t.afterBundle u (s.ctx u) w ⟨h, [p]⟩).clearIssue h.smask h.solo
      (t.iss.lBank.toList ++ t.iss.sBank.toList) := by
  have hr := Trial.run_of_done hx ht hb
  simp [State.planBundle, runOrder_single, hr, firstTrap, loopFull, hloop]

theorem planBundle_of_blocked (ht : t.iss.trapped = none) (hb : t.iss.blocked = true) (hm : t.iss.mread = none) :
    s.planBundle u w ⟨h, [p]⟩ = .blocks none := by
  have hr := Trial.run_of_blocked hx ht hb
  simp [State.planBundle, runOrder_single, hr, firstTrap, hm]

theorem planBundle_of_lent_wait {x : TrapInfo} (ht : t.iss.trapped = some x) (hl : x.IsLent)
    (hw : ((s.newTrial u ⟨h, [p]⟩).enter p).unlent p.2 = none) : s.planBundle u w ⟨h, [p]⟩ = .blocks none := by
  have hr := Trial.run_of_lent_wait hx ht hl hw
  simp [State.planBundle, runOrder_single, hr, firstTrap]

include hloop in
/-- A trap resumes at its bundle, that of TRAP (code 0x0B) at the next one (R130). -/
theorem planBundle_of_trap {x : TrapInfo} (ht : t.iss.trapped = some x)
    (hw : x.IsLent → ((s.newTrial u ⟨h, [p]⟩).enter p).unlent p.2 ≠ none) :
    s.planBundle u w ⟨h, [p]⟩ = .traps x (if x.code = 0x0B then ((s.ctx u).pc + h.len) % 2 ^ 64 else (s.ctx u).pc)
      h.smask h.solo := by
  obtain ⟨s2, hr⟩ := Trial.run_of_trap hx ht hw
  by_cases hc : x.code = 0x01
  · simp [State.planBundle, runOrder_single, hr, hc, firstTrap_single]
  · simp [State.planBundle, runOrder_single, hr, hc, firstTrap, loopFull, hloop]

end

/-! ### A bundle that lies in one fetch line (R45, R46, R174) -/

theorem Header.four_le_len (h : Header) : 4 ≤ h.len := Nat.le_add_right 4 _

/-- Every byte of a run inside a line lies in that line. -/
theorem lineOf_last {a n : Nat} (ha : a < 2 ^ 64) (hn : 0 < n) (hin : a % 256 + n ≤ 256) :
    lineOf ((a + n - 1) % 2 ^ 64) = lineOf a := by
  unfold lineOf
  omega

theorem Ctx.grab_of_line {c : Ctx} {l : FLine} {a n : Nat} (hq : c.fq = [l]) (ho : l.outside = false) (hb : l.bad = false)
    (hl : l.base = lineOf a) (ha : a < 2 ^ 64) (hn : 0 < n) (hin : a % 256 + n ≤ 256) :
    c.grab a n = some ⟨none, l.data / 256 ^ (a % 256) % 256 ^ n, false⟩ := by
  have hoff : a - lineOf a = a % 256 := by unfold lineOf; omega
  have hfind : c.fq.find? (fun x => x.base == lineOf a) = some l := by simp [hq, hl]
  simp only [Ctx.grab, lineOf_last ha hn hin, hfind, ho, hb, hl, hoff, beq_self_eq_true, if_true, Bool.false_eq_true, if_false,
    Nat.add_zero, Bool.or_self]

/-- The header of a bundle that decodes. -/
theorem decodeHeader_of_decodeBundle {w : Nat} {b : Bundle} (h : decodeBundle w = .ok b) :
    decodeHeader (w % 2 ^ 32) = .ok b.hdr := by
  unfold decodeBundle at h
  split at h
  · cases h
  · next h' hh =>
    split at h
    · cases h
    · cases h; exact hh

theorem Ctx.bundleAt_of_decoded (c : Ctx) {pc w : Nat} {h : Header} {b : Bundle} (hpc : pc % 4 = 0)
    (hd : decodeBundle w = .ok b) : c.bundleAt false pc h ⟨none, w, false⟩ = .good w b := by
  simp only [Ctx.bundleAt, hpc, decodeHeader_of_decodeBundle hd, hd, ne_eq, not_true_eq_false, Option.isSome_none,
    Bool.false_eq_true, or_self, if_false]

section
variable {c : Ctx} {l : FLine} {w : Nat} {b : Bundle} (hq : c.fq = [l]) (ho : l.outside = false) (hb : l.bad = false)
  (hl : l.base = lineOf c.pc) (h4 : c.pc % 4 = 0) (hpc : c.pc < 2 ^ 64) (hin : c.pc % 256 + b.hdr.len ≤ 256)
  (hh : b.hdr = headerRaw (l.data / 256 ^ (c.pc % 256) % 2 ^ 32))
  (hw : w = l.data / 256 ^ (c.pc % 256) % 256 ^ b.hdr.len) (hd : decodeBundle w = .ok b)
include hq ho hb hl h4 hpc hin hh hw hd

theorem Ctx.fetched_of_line : c.fetched false = .good w b := by
  have hlen := Header.four_le_len b.hdr
  have hhead := Ctx.grab_of_line hq ho hb hl hpc (n := 4) (by omega) (by omega)
  have hall := Ctx.grab_of_line hq ho hb hl hpc (n := b.hdr.len) (by omega) hin
  rw [show (256 : Nat) ^ 4 = 2 ^ 32 from rfl] at hhead
  simp only [Ctx.fetched, hhead, Option.isSome_none, Bool.false_eq_true, if_false, ← hh, hall, ← hw]
  exact c.bundleAt_of_decoded h4 hd

theorem Ctx.upNext_of_line (hloop : c.loop = none) : c.upNext = .good w b := by
  simp [Ctx.upNext, hloop, Ctx.fetched_of_line hq ho hb hl h4 hpc hin hh hw hd]

end

/-! ### The plan of a context whose next bundle has arrived (R40, R129, R203) -/

theorem active_of_live {s : State} {u : Nat} (h : Live s u) : s.active u = true := decide_eq_true h

theorem State.mayIssue_of_live {s : State} {u : Nat} (hlive : Live s u) (hr : (s.ctx u).readyAt ≤ s.cycle)
    (hp : (s.ctx u).pend = .none) (hh : (s.ctx u).hdrRead = none) : s.mayIssue u = true := by
  simp [State.mayIssue, active_of_live hlive, hr, hp, hh]

theorem State.plan_of_upNext {s : State} {u w : Nat} {b : Bundle} (hm : s.mayIssue u = true) (hloop : (s.ctx u).loop = none)
    (hn : (s.ctx u).upNext = .good w b) : s.plan u = s.planBundle u w b := by
  simp [State.plan, hm, hloop, hn]

/-! ### The merge stage of a context that stands alone (R204) -/

section
variable {s : State} {u : Nat} {c : Ctx} (hs : s.ctxs = [(u, c)])
include hs

theorem State.ctx_of_sole : s.ctx u = c := by simp [State.ctx, hs, mget_cons]

theorem State.liveCores_of_sole : s.liveCores = [c.core] := by simp [State.liveCores, hs, sortBy, insertBy, List.eraseDups_cons]

theorem State.bound_of_sole (ha : s.active u = true) : s.bound c.core = [u] := by
  simp [State.bound, hs, ha, sortBy, insertBy]

/-- Alone, a context carries out its plan; a step over a bundle and the read of a routine block act after the merge stage. -/
theorem State.issueCore_of_sole (ha : s.active u = true) (hskip : ∀ d, s.plan u ≠ .skips d)
    (hread : ∀ m, s.plan u ≠ .blocks (some m)) : s.issueCore c.core = s.carryOut u := by
  unfold State.issueCore
  rw [State.bound_of_sole hs ha]
  cases hp : s.plan u with
  | idle => simp [hp, Plan.shape, sortBy, State.carryOut]
  | blocks m =>
    cases m with
    | none => simp [hp, Plan.shape, sortBy, State.carryOut]
    | some m => exact absurd hp (hread m)
  | skips d => exact absurd hp (hskip d)
  | traps x r m so => simp [hp, Plan.shape, sortBy, insertBy]
  | issues t m so l => simp [hp, Plan.shape, sortBy, insertBy]

theorem execBundleIssue_of_sole (ha : s.active u = true) (hskip : ∀ d, s.plan u ≠ .skips d)
    (hread : ∀ m, s.plan u ≠ .blocks (some m)) : execBundleIssue s = .next { s.carryOut u with issued := true } := by
  simp [execBundleIssue, State.liveCores_of_sole hs, State.issueCore_of_sole hs ha hskip hread]

end

/-! ### The step that is due before the issue stage, or at it -/

theorem firstDue_append (l m : List (State → Due)) (s : State) : firstDue (l ++ m) s = (firstDue l s).or (firstDue m s) := by
  induction l with
  | nil => rfl
  | cons f l ih => cases hf : f s <;> simp [firstDue, hf, ih]

theorem step_of_none_due {s : State} (hi : s.issued = false) (hd : firstDue beforeIssue s = none) :
    step s = execBundleIssue s := by
  simp only [step, nextStep, hi, Bool.false_eq_true, if_false, startOfCycle, hd, Option.getD_none]
  rfl

/-- What a cycle comes to once the plan of its only context is known: the plan is carried out, and the stage has acted. -/
theorem step_of_sole_plan {s : State} {u : Nat} {c : Ctx} {P : Plan} (hi : s.issued = false)
    (hd : firstDue beforeIssue s = none) (hs : s.ctxs = [(u, c)]) (hlive : Live s u) (hp : s.plan u = P)
    (hskip : ∀ d, P ≠ .skips d) (hread : ∀ m, P ≠ .blocks (some m)) :
    step s = .next { s.carryOut u with issued := true } := by
  subst hp
  rw [step_of_none_due hi hd, execBundleIssue_of_sole hs (active_of_live hlive) hskip hread]

/-- What stands before the micro-words goes first; else a micro-word that is due is taken. -/
theorem step_of_dueWord {s s' : State} {i : Instr} (hi : s.issued = false) (hd : firstDue (beforeIssue.take 5) s = none)
    (hw : dueWord s = some (i, s')) : step s = exec i s' := by
  have hf : firstDue beforeIssue s = some (i, s') := by
    rw [← List.take_append_drop 5 beforeIssue, firstDue_append, hd, Option.none_or]
    simp [beforeIssue, firstDue, hw]
  simp only [step, nextStep, hi, Bool.false_eq_true, if_false, startOfCycle, hf, Option.getD_some]

/-- The only routine of the device acts whether or not its bench owns the frame slot (R285, R287). -/
theorem dueWord_of_sole {s : State} {k : Nat} {x : Core} {i : Instr} (hs : s.cores = [(k, x)]) (hw : s.wordDue k = some i) :
    dueWord s = some (i, { s with rcore := k }) := by
  cases ho : s.ownsFrame k <;> simp [dueWord, hs, ho, hw]

theorem State.core_of_sole {s : State} {k : Nat} {x : Core} (hs : s.cores = [(k, x)]) : s.core k = x := by
  simp [State.core, hs, mget_cons]

theorem State.wordDue_of_routine {s : State} {k : Nat} {r : Routine} {i : Instr} (hr : (s.core k).routine = some r)
    (hat : r.at_ ≤ s.cycle) (hpc : r.pc < r.len)
    (hd : decodeMicro (mget 0#32 (s.cluster (coreCluster k)).store ((r.start + r.pc) % 2048)).toNat = .ok i) :
    s.wordDue k = some i := by
  simp [State.wordDue, State.microAt, hr, hat, hpc, hd]

/-! ### The settled statement -/

/-- Settles O36: the context is alone, so that its plan is carried out, and the plan of its bundle is that of its one slot. -/
theorem aStepRunsTheDecodedInstruction : Obligations.AStepRunsTheDecodedInstruction := by
  unfold Obligations.AStepRunsTheDecodedInstruction
  refine ⟨?issue, ?micro⟩
  case micro =>
    intro s k x r i hi hd hs hr hat hpc hdec
    have hr' : (s.core k).routine = some r := by rw [State.core_of_sole hs, hr]
    exact step_of_dueWord hi hd (dueWord_of_sole hs (State.wordDue_of_routine hr' hat hpc hdec))
  case issue =>
    intro s u c line w h sl i t hi hd hs hlive hready hpend hhdr hloop hq hout hbad h4 hpc hbase hin hh hw hdec hguard r r' hx
    have hc : s.ctx u = c := State.ctx_of_sole hs
    have hx' : slotExec i ((s.newTrial u ⟨h, [(sl, i)]⟩).enter (sl, i)) = .next t := exec_eq_slotExec hguard r' ▸ hx
    have hplan : s.plan u = s.planBundle u w ⟨h, [(sl, i)]⟩ := by
      subst hc
      exact State.plan_of_upNext (State.mayIssue_of_live hlive hready hpend hhdr) hloop
        (Ctx.upNext_of_line hq hout hbad hbase h4 hpc hin hh hw hdec hloop)
    have hloop' : (s.ctx u).loop = none := by rw [hc, hloop]
    refine ⟨?done, ?_⟩
    case done =>
      intro ht hb
      have hp := hplan.trans (planBundle_of_done hx' hloop' ht hb)
      rw [step_of_sole_plan hi hd hs hlive hp (by simp) (by simp)]
      simp [State.carryOut, hp, hc]
    intro lent
    refine ⟨?lentWait, ?trap, ?blocked⟩
    case lentWait =>
      intro x ht hl hw
      have hp := hplan.trans (planBundle_of_lent_wait hx' ht hl hw)
      rw [step_of_sole_plan hi hd hs hlive hp (by simp) (by simp)]
      simp [State.carryOut, hp]
    case trap =>
      intro x ht hw
      have hp := hplan.trans (planBundle_of_trap hx' hloop' ht hw)
      rw [step_of_sole_plan hi hd hs hlive hp (by simp) (by simp)]
      simp [State.carryOut, hp, hc]
    case blocked =>
      intro ht hb hm
      have hp := hplan.trans (planBundle_of_blocked hx' ht hb hm)
      rw [step_of_sole_plan hi hd hs hlive hp (by simp) (by simp)]
      simp [State.carryOut, hp]

end Sys2Proof.Machine

/-! ## Lemmas of the proofs: encoding

Every instruction of the family RoundTrip; which bits a decoder reads; a bundle of one slot; and what a decoder hands on. -/

namespace Sys2Proof.Laws.RoundTrip

/-- The family holds of every instruction: a step that is no instruction has no word. -/
theorem statement (i : Instr) : Statement i := by
  by_cases h : i.encode = none
  · exact rt_none h
  · cases i with
    | add => apply add | sub => apply sub | mul => apply mul | mulh => apply mulh | and => apply and | or => apply or
    | xor => apply xor | shl => apply shl | shr => apply shr | sra => apply sra | min => apply min | max => apply max
    | clz => apply clz | popc => apply popc | set => apply set | sel => apply sel | li => apply li | lih => apply lih
    | mova => apply mova | adda => apply adda | br => apply br | jmp => apply jmp | call => apply call | ret => apply ret
    | loop => apply loop | exit => apply exit | trap => apply trap | wnext => apply wnext | wnextField => apply wnextField
    | mfc => apply mfc | mtc => apply mtc | shw => apply shw | tdw => apply tdw | tdr => apply tdr | spmark => apply spmark
    | spdrop => apply spdrop | spdepth => apply spdepth | vadd => apply vadd | vsub => apply vsub | vmul => apply vmul
    | vfma => apply vfma | vfms => apply vfms | vmin => apply vmin | vmax => apply vmax | vabs => apply vabs
    | vneg => apply vneg | viadd => apply viadd | visub => apply visub | vimul => apply vimul | vimad => apply vimad
    | vimin => apply vimin | vimax => apply vimax | viabs => apply viabs | vshl => apply vshl | vshr => apply vshr
    | vsra => apply vsra | vand => apply vand | vor => apply vor | vxor => apply vxor | vcmp => apply vcmp | vsel => apply vsel
    | vmop => apply vmop | vrcp => apply vrcp | vrsq => apply vrsq | vsqrt => apply vsqrt | vexp2 => apply vexp2
    | vlog2 => apply vlog2 | vtanh => apply vtanh | verf => apply verf | vcvt => apply vcvt | vwiden => apply vwiden
    | vnarrow => apply vnarrow | vunpk => apply vunpk | vqmx => apply vqmx | vdqmx => apply vdqmx | vperm => apply vperm
    | vslide => apply vslide | vbcast => apply vbcast | vextr => apply vextr | vins => apply vins | vred => apply vred
    | vrdrn => apply vrdrn | vrclr => apply vrclr | vdot => apply vdot | raddf => apply raddf | unaddf => apply unaddf
    | rsubf => apply rsubf | unsubf => apply unsubf | rmulf => apply rmulf | unmulf => apply unmulf | rnarw => apply rnarw
    | unnarw => apply unnarw | rshr => apply rshr | unshr => apply unshr | rscl => apply rscl | unscl => apply unscl
    | rimul => apply rimul | unimul => apply unimul | mrun => apply mrun | mrunF => apply mrunF | mpload => apply mpload
    | mploadP => apply mploadP | lend => apply lend | recl => apply recl | mstrOpen => apply mstrOpen
    | mstrPause => apply mstrPause | mstrResume => apply mstrResume | mstrReset => apply mstrReset
    | mstrClose => apply mstrClose | feeda => apply feeda | feedb => apply feedb | mac => apply mac | chain => apply chain
    | aclr => apply aclr | emit => apply emit | scale => apply scale | bias => apply bias | adv => apply adv
    | loopk => apply loopk | loopkMh => apply loopkMh | stream => apply stream | endR => apply endR | vld => apply vld
    | vldt => apply vldt | vldb => apply vldb | vldg => apply vldg | sld => apply sld | mld => apply mld | vst => apply vst
    | vstx => apply vstx | sst => apply sst | mst => apply mst | putq => apply putq | cpyLd => apply cpyLd
    | cpySt => apply cpySt | cpytLd => apply cpytLd | cpytSt => apply cpytSt | cpair => apply cpair | cgath => apply cgath
    | cmig => apply cmig | nmcopy => apply nmcopy | nmdot => apply nmdot | fsamp => apply fsamp | ftap => apply ftap
    | ftick => apply ftick | ftickG => apply ftickG | freset => apply freset | fresetIn => apply fresetIn
    | collRs => apply collRs | collAg => apply collAg | collAr => apply collAr | fence => apply fence | qadvH => apply qadvH
    | qadvT => apply qadvT | twait => apply twait | twany => apply twany | tfind => apply tfind | tclr => apply tclr
    | bar => apply bar | signalAdd => apply signalAdd | signalStore => apply signalStore | swait => apply swait
    | launch => apply launch | expose => apply expose | yield => apply yield
    | _ => exact absurd rfl h

end Sys2Proof.Laws.RoundTrip

namespace Sys2Proof

/-! ### Bits above a word -/

theorem fld_mod (w : Nat) {k lo n : Nat} (h : lo + n ≤ k) : fld (w % 2 ^ k) lo n = fld w lo n := by
  refine Nat.eq_of_testBit_eq fun i => ?_
  simp only [fld, Nat.testBit_mod_two_pow, Nat.testBit_div_two_pow]
  by_cases hi : i < n
  · simp [hi, show i + lo < k by omega]
  · simp [hi]

theorem bfld_mod (w : Nat) {k lo n : Nat} (h : lo + n ≤ k) : bfld (w % 2 ^ k) lo n = bfld w lo n :=
  BitVec.eq_of_toNat_eq (by simpa [bfld, fld] using fld_mod w h)

theorem bit_mod (w : Nat) {k i : Nat} (h : i + 1 ≤ k) : bit (w % 2 ^ k) i = bit w i := by
  have hf := fld_mod w h
  simp only [fld, Nat.pow_one] at hf
  rw [bit, hf, bit]

theorem xRaw_mod (w : Nat) : xRaw (w % 2 ^ 64) = xRaw w := by
  simp only [xRaw, fld_mod, bfld_mod, bit_mod, Nat.reduceAdd, Nat.reduceLeDiff]

theorem vRaw_mod (w : Nat) : vRaw (w % 2 ^ 64) = vRaw w := by
  simp only [vRaw, fld_mod, bfld_mod, Nat.reduceAdd, Nat.reduceLeDiff]

theorem vZero_mod (w : Nat) : vZero (w % 2 ^ 64) = vZero w := by
  simp only [vZero, vRaw_mod, fld_mod, Nat.reduceAdd, Nat.reduceLeDiff]

theorem spaRaw_mod (w : Nat) : spaRaw (w % 2 ^ 64) = spaRaw w := by
  simp only [spaRaw, fld_mod, bfld_mod, bit_mod, Nat.reduceAdd, Nat.reduceLeDiff]

theorem lRaw_mod (w : Nat) : lRaw (w % 2 ^ 64) = lRaw w := by
  simp only [lRaw, spaRaw_mod, fld_mod, bfld_mod, bit_mod, Nat.reduceAdd, Nat.reduceLeDiff]

theorem lCheck_mod (w : Nat) (mk : LF → Instr) : lCheck (w % 2 ^ 64) mk = lCheck w mk := by
  simp only [lCheck, lRaw_mod, spaRaw_mod, fld_mod, Nat.reduceAdd, Nat.reduceLeDiff]

theorem cRaw_mod (w : Nat) : cRaw (w % 2 ^ 64) = cRaw w := by
  simp only [cRaw, fld_mod, bfld_mod, bit_mod, Nat.reduceAdd, Nat.reduceLeDiff]

theorem cCheck_mod (w : Nat) (ok : Bool) (i : Instr) (codes : Bool) : cCheck (w % 2 ^ 64) ok i codes = cCheck w ok i codes := by
  simp only [cCheck, cRaw_mod]

/-- A slot word is read from its 64 bits alone (R37). -/
theorem decodeSlot_mod (sl : Slot) (w : Nat) : decodeSlot sl (w % 2 ^ 64) = decodeSlot sl w := by
  cases sl
  all_goals simp only [decodeSlot, decodeX, decodeV, decodeM, decodeL, decodeS, decodeC, decodeY, xRaw_mod, vRaw_mod, vZero_mod,
    lCheck_mod, spaRaw_mod, cRaw_mod, cCheck_mod, fld_mod, bfld_mod, bit_mod, Nat.reduceAdd, Nat.reduceLeDiff]

/-- A micro-word is read from its 32 bits alone (R60). -/
theorem decodeMicro_mod (w : Nat) : decodeMicro (w % 2 ^ 32) = decodeMicro w := by
  simp only [decodeMicro, fld_mod, bfld_mod, bit_mod, Nat.reduceAdd, Nat.reduceLeDiff]

/-! ### A bundle of one slot (R37, R39) -/

theorem Header.word_lt (h : Header) : h.word < 2 ^ 32 := by
  have h1 := h.smask.isLt; have h2 := b2n_le h.stop; have h3 := h.gap.isLt; have h4 := h.profile.isLt; have h5 := b2n_le h.solo
  simp only [Header.word, Nat.reducePow] at *
  omega

/-- A header parcel of a profile there is decodes to its fields (R39). -/
theorem decodeHeader_word {h : Header} {w : Nat} (hW : w = h.word) (hp : h.profile.toNat < 10) : decodeHeader w = .ok h := by
  have h1 := h.smask.isLt; have h2 := b2n_le h.stop; have h3 := h.gap.isLt; have h5 := b2n_le h.solo
  simp only [Header.word, Nat.reducePow] at *
  have hmark : fld w 28 4 = 10 := fld_of _ _ _ _ (by simp only [Nat.reducePow]; omega)
  have hzero : fld w 20 8 = 0 := fld_of _ _ _ _ (by simp only [Nat.reducePow]; omega)
  have hprof : fld w 13 6 = h.profile.toNat := fld_of _ _ _ _ (by simp only [Nat.reducePow]; omega)
  have hraw : headerRaw w = h := by
    unfold headerRaw
    rw [bfld_of w 0 h.smask (by simp only [Nat.reducePow]; omega), bit_of w 8 h.stop (by simp only [Nat.reducePow]; omega),
      bfld_of w 9 h.gap (by simp only [Nat.reducePow]; omega), bfld_of w 13 h.profile (by simp only [Nat.reducePow]; omega),
      bit_of w 19 h.solo (by simp only [Nat.reducePow]; omega)]
  rw [decodeHeader, hmark, hzero, hprof, hraw, if_neg (by simp), if_neg (by simp), if_neg (by omega)]

/-- The SMASK of one slot has the bit of that slot and no other (R36). -/
theorem getLsbD_slotMask (sl sl' : Slot) : (BitVec.ofNat 8 (2 ^ sl.code)).getLsbD sl'.code = decide (sl' = sl) := by
  cases sl <;> cases sl' <;> rfl

/-- With one bit of SMASK set, the one slot word is that of its slot. -/
theorem decodeWords_single {smask : BitVec 8} {sl : Slot} {w : Nat} {i : Instr}
    (hm : ∀ sl' : Slot, smask.getLsbD sl'.code = decide (sl' = sl)) (hd : decodeSlot sl w = .ok i) :
    decodeWords smask slotOrder w = .ok [(sl, i)] := by
  cases sl <;> simp [slotOrder, decodeWords, hm, decodeSlot_mod, hd, -Nat.reducePow]

theorem decodeBundle_single {h : Header} {sl : Slot} {w : Nat} {i : Instr} (hm : h.smask = BitVec.ofNat 8 (2 ^ sl.code))
    (hp : h.profile.toNat < 10) (hd : decodeSlot sl w = .ok i) :
    decodeBundle (h.word + w * 2 ^ 32) = .ok ⟨h, [(sl, i)]⟩ := by
  have hlow : (h.word + w * 2 ^ 32) % 2 ^ 32 = h.word := by rw [Nat.add_mul_mod_self_right, Nat.mod_eq_of_lt h.word_lt]
  have hhigh : (h.word + w * 2 ^ 32) / 2 ^ 32 = w := by
    rw [Nat.add_mul_div_right _ _ (by decide), Nat.div_eq_of_lt h.word_lt, Nat.zero_add]
  rw [decodeBundle, hlow, decodeHeader_word rfl hp]
  simp only [hhigh, decodeWords_single (hm ▸ getLsbD_slotMask sl) hd]

/-- In a table word of 96 bits the slot word is cut to 64, which is all that is read of it. -/
theorem decodeTableWord_single {h : Header} {sl : Slot} {w : Nat} {i : Instr} (hm : h.smask = BitVec.ofNat 8 (2 ^ sl.code))
    (hp : h.profile.toNat < 10) (hd : decodeSlot sl w = .ok i) : decodeTableWord 96 (h.word + w * 2 ^ 32) = some i := by
  have hcut : (h.word + w * 2 ^ 32) % 2 ^ 96 = h.word + w % 2 ^ 64 * 2 ^ 32 := by
    have := h.word_lt
    omega
  have hd' : decodeSlot sl (w % 2 ^ 64) = .ok i := by rw [decodeSlot_mod, hd]
  simp only [decodeTableWord, hcut, decodeBundle_single hm hp hd']

/-! ### What a decoded word is (R61): the decoder hands on only what passed its checks -/

/-- What a decoder answers is well-formed. -/
def YieldsWf (e : Except Bad Instr) : Prop := ∀ i, e = .ok i → i.wf = true

/-- What a decoder builds names no part that the device lacks: only steps that are no instruction name any (R59). -/
def NamesParts (x : Option Instr) : Prop := ∀ i, x = some i → i.partsOk = true

@[simp] theorem namesParts_none : NamesParts none := by rintro _ ⟨⟩

@[simp] theorem namesParts_some (i : Instr) : NamesParts (some i) ↔ i.partsOk = true := by simp [NamesParts]

@[simp] theorem namesParts_map {α : Type} (x : Option α) (mk : α → Instr) :
    NamesParts (x.map mk) ↔ ∀ a, x = some a → (mk a).partsOk = true := by
  cases x <;> simp

@[simp] theorem namesParts_bind {α : Type} (x : Option α) (mk : α → Option Instr) :
    NamesParts (x.bind mk) ↔ ∀ a, x = some a → NamesParts (mk a) := by
  cases x <;> simp

@[simp] theorem namesParts_ite {c : Prop} [Decidable c] {x y : Option Instr} :
    NamesParts (if c then x else y) ↔ (c → NamesParts x) ∧ (¬ c → NamesParts y) := by
  by_cases h : c <;> simp [h]

@[simp] theorem yieldsWf_error (b : Bad) : YieldsWf (.error b) := by rintro _ ⟨⟩

@[simp] theorem yieldsWf_ite {c : Prop} [Decidable c] {x y : Except Bad Instr} :
    YieldsWf (if c then x else y) ↔ (c → YieldsWf x) ∧ (¬ c → YieldsWf y) := by
  by_cases h : c <;> simp [h]

theorem Instr.wf_of_parts {i : Instr} (hz : i.zeroOk = true) (hc : i.codeOk = true) (hp : i.partsOk = true) : i.wf = true := by
  rw [Instr.wf, hz, hc, hp]; rfl

/-- What `checked` hands on is what it was given, and has passed both halves of the check. -/
theorem checked_eq_ok {ok : Bool} {x : Option Instr} {i : Instr} (h : checked ok x = .ok i) :
    x = some i ∧ i.zeroOk = true ∧ i.codeOk = true := by
  cases x with
  | none => cases ok <;> cases h
  | some j =>
    simp only [checked, Bool.and_eq_true] at h
    split at h
    · next hz =>
      split at h
      · next hc => cases h; exact ⟨rfl, hz.2, hc⟩
      · cases h
    · cases h

theorem cCheck_eq_ok {w : Nat} {ok codes : Bool} {i j : Instr} (h : cCheck w ok i codes = .ok j) :
    i = j ∧ j.zeroOk = true ∧ j.codeOk = true := by
  simp only [cCheck, Bool.and_eq_true] at h
  split at h
  · next hz =>
    split at h
    · next hc => cases h; exact ⟨rfl, hz.2, hc.2⟩
    · cases h
  · cases h

@[simp] theorem yieldsWf_checked (ok : Bool) {x : Option Instr} (hp : NamesParts x) : YieldsWf (checked ok x) := by
  intro i h
  obtain ⟨hx, hz, hc⟩ := checked_eq_ok h
  exact Instr.wf_of_parts hz hc (hp i hx)

theorem yieldsWf_cCheck (w : Nat) (ok codes : Bool) {i : Instr} (hp : i.partsOk = true) : YieldsWf (cCheck w ok i codes) := by
  intro j h
  obtain ⟨rfl, hz, hc⟩ := cCheck_eq_ok h
  exact Instr.wf_of_parts hz hc hp

/-! ### The decoder of each slot -/

theorem decodeX_wf (w : Nat) : YieldsWf (decodeX w) := by
  unfold decodeX
  split
  all_goals simp [xArith, xArithN, withCond, Instr.partsOk]

/-- A V word's instruction is that of its opcode. -/
theorem vOp_partsOk {op : Nat} {mk : VF → Instr} (h : vOp op = some mk) (f : VF) : (mk f).partsOk = true := by
  unfold vOp at h
  split at h
  all_goals cases h
  all_goals rfl

theorem decodeV_wf (vb : Bool) (w : Nat) : YieldsWf (decodeV vb w) := by
  unfold decodeV
  split
  · simp
  · next hm => simp [vOp_partsOk hm]

theorem decodeM_wf (w : Nat) : YieldsWf (decodeM w) := by
  unfold decodeM
  dsimp only
  split
  case h_6 => exact yieldsWf_error _
  all_goals repeat' split
  all_goals exact yieldsWf_checked _ (by simp [Instr.partsOk])

theorem lCheck_wf (w : Nat) {mk : LF → Instr} (h : ∀ f, (mk f).partsOk = true) : YieldsWf (lCheck w mk) := by
  simp [lCheck, h]

theorem lOp_partsOk {op : Nat} {mk : LF → Instr} (h : lOp op = some mk) (f : LF) : (mk f).partsOk = true := by
  unfold lOp at h
  split at h
  all_goals cases h
  all_goals rfl

theorem sOp_partsOk {op : Nat} {mk : LF → Instr} (h : sOp op = some mk) (f : LF) : (mk f).partsOk = true := by
  unfold sOp at h
  split at h
  all_goals cases h
  all_goals rfl

theorem decodeL_wf (w : Nat) : YieldsWf (decodeL w) := by
  unfold decodeL
  split
  · exact yieldsWf_error _
  · next hm => exact lCheck_wf w (lOp_partsOk hm)

theorem decodeS_wf (w : Nat) : YieldsWf (decodeS w) := by
  unfold decodeS
  split
  · simp [Instr.partsOk]
  · split
    · exact yieldsWf_error _
    · next hm => exact lCheck_wf w (sOp_partsOk hm)

theorem decodeC_wf (w : Nat) : YieldsWf (decodeC w) := by
  unfold decodeC
  dsimp only
  split
  case h_13 => exact yieldsWf_error _
  all_goals repeat' split
  all_goals exact yieldsWf_cCheck w _ _ rfl

theorem decodeY_wf (w : Nat) : YieldsWf (decodeY w) := by
  unfold decodeY
  dsimp only
  split
  case h_13 => exact yieldsWf_error _
  case h_8 =>
    refine yieldsWf_checked _ ((namesParts_map _ _).mpr fun _ _ => ?_)
    split <;> rfl
  all_goals repeat' split
  all_goals exact yieldsWf_checked _ (by simp [Instr.partsOk])

theorem decodeMicro_wf (w : Nat) : YieldsWf (decodeMicro w) := by
  unfold decodeMicro
  dsimp only
  split
  all_goals simp [Instr.partsOk]

theorem decodeSlot_wf (sl : Slot) (w : Nat) : YieldsWf (decodeSlot sl w) := by
  cases sl with
  | x => exact decodeX_wf w
  | va => exact decodeV_wf false w
  | vb => exact decodeV_wf true w
  | m => exact decodeM_wf w
  | l => exact decodeL_wf w
  | s => exact decodeS_wf w
  | c => exact decodeC_wf w
  | y => exact decodeY_wf w

/-! ### The settled statements -/

/-- Settles O57: the family RoundTrip gives the slot word or micro-word back, a decoder reads no bit beyond its word, and it
hands on only what has passed the two checks that make an instruction well-formed. -/
theorem encodedInstructionsDecodeBack : Obligations.EncodedInstructionsDecodeBack := by
  unfold Obligations.EncodedInstructionsDecodeBack
  refine ⟨fun i sp w hw he => ?_, decodeSlot_wf, decodeMicro_wf⟩
  have hd : decodeSpace sp w = .ok i := Laws.RoundTrip.statement i hw sp w he
  refine ⟨hd, fun hmicro => ?_, fun sl h hslot hmask hprofile => ?_⟩
  · subst hmicro
    have hword : decodeMicro w = .ok i := hd
    simp only [decodeTableWord, decodeMicro_mod, hword, Except.toOption]
  · have hword : decodeSlot sl w = .ok i := by simpa only [decodeSpace, hslot] using hd
    exact ⟨decodeTableWord_single hmask hprofile hword, decodeBundle_single hmask hprofile hword⟩

/-- Settles O56, by running the decoder on the ten words. -/
theorem specWordsDecode : Obligations.SpecWordsDecode := by
  unfold Obligations.SpecWordsDecode
  exact ⟨rfl, rfl, rfl, rfl, rfl, rfl, rfl, rfl, rfl, rfl⟩

end Sys2Proof

/-! ## Lemmas of the proofs: guards, the merge stage and fetch -/

namespace Sys2Proof.Machine

/-! ### Guards (R48) -/

/-- Whatever an instruction with a guard does, it does where the guard is open: each is a `slotDo` of its guard. -/
theorem exec_of_guard {i : Instr} {g : BitVec 3} (h : i.guard = some g) (s : State) :
    ∃ t, exec i s = .next (if guardOk s.me g then t else s) := by
  cases i
  -- Micro-words and events have no guard.
  all_goals cases h
  all_goals exact ⟨_, rfl⟩

/-- Settles O3: the guard is closed, so that the slot leaves the state it is in. -/
theorem closedGuardIsNoOperation : Obligations.ClosedGuardIsNoOperation := by
  unfold Obligations.ClosedGuardIsNoOperation
  intro i g s hg hidle
  obtain ⟨t, he⟩ := exec_of_guard hg s
  rw [he, guardOk_not hidle]
  rfl

/-! ### The merge stage of two contexts of one core (R63, R204, R205) -/

/-- A context whose bundle issues is one that could issue. -/
theorem State.active_of_issues {s a : State} {u : Nat} {m : BitVec 8} {so : Bool} {l : List Nat}
    (h : s.plan u = .issues a m so l) : s.active u = true := by
  have hm : s.mayIssue u = true := by
    cases hm : s.mayIssue u with
    | true => rfl
    | false =>
      rw [State.plan, hm, if_pos (by rfl)] at h
      cases h
  simp only [State.mayIssue, Bool.and_eq_true] at hm
  exact hm.1.1.1

theorem State.carryOut_of_issues {s a : State} {u : Nat} {m : BitVec 8} {so : Bool} {l : List Nat}
    (h : s.plan u = .issues a m so l) : s.carryOut u = a := by
  rw [State.carryOut, h]

theorem collide_iff (mu mv : BitVec 8) (su sv : Bool) (bu bv : List Nat) :
    collide (mu, su, bu) (mv, sv, bv) = true ↔
      (mu &&& mv) ≠ 0#8 ∨ su = true ∨ sv = true ∨ ∃ x, x ∈ bu ∧ x ∈ bv := by
  simp [collide, or_assoc]

theorem collide_comm (p q : BitVec 8 × Bool × List Nat) : collide p q = collide q p := by
  obtain ⟨mu, su, bu⟩ := p
  obtain ⟨mv, sv, bv⟩ := q
  rw [Bool.eq_iff_iff, collide_iff, collide_iff, BitVec.and_comm]
  simp only [and_comm, or_left_comm]

theorem Ctx.rank_of_starved {c : Ctx} (h : 60 ≤ c.wait) : c.rank = (0, 2 ^ 64 - c.wait) := if_pos h

theorem Ctx.rank_of_not_starved {c : Ctx} (h : ¬ 60 ≤ c.wait) : c.rank = (if c.yielded then 2 else 1, 0) := by
  rw [Ctx.rank, if_neg h]
  cases c.yielded <;> rfl

theorem ranksBefore_iff_rank (c d : Ctx) : ranksBefore c d = true ↔
    c.rank.1 < d.rank.1 ∨ c.rank.1 = d.rank.1 ∧ (c.rank.2 < d.rank.2 ∨ c.rank.2 = d.rank.2 ∧ c.hw ≤ d.hw) := by
  simp [ranksBefore]

/-- The rank of R204, of two contexts in the order of their numbers: the wait decides where one of them has starved. -/
theorem ranksBefore_iff {c d : Ctx} (hhw : c.hw < d.hw) (hc : c.wait < 2 ^ 64) (hd : d.wait < 2 ^ 64) :
    ranksBefore c d = true ↔
      if c.wait < 60 ∧ d.wait < 60 then ¬ (c.yielded = true ∧ d.yielded = false) else d.wait ≤ c.wait := by
  rw [ranksBefore_iff_rank]
  by_cases hc60 : 60 ≤ c.wait
  · have starved : ¬ (c.wait < 60 ∧ d.wait < 60) := by omega
    rw [if_neg starved, Ctx.rank_of_starved hc60]
    by_cases hd60 : 60 ≤ d.wait
    · rw [Ctx.rank_of_starved hd60]; omega
    · rw [Ctx.rank_of_not_starved hd60]; cases d.yielded <;> simp <;> omega
  · rw [Ctx.rank_of_not_starved hc60]
    by_cases hd60 : 60 ≤ d.wait
    · have starved : ¬ (c.wait < 60 ∧ d.wait < 60) := by omega
      rw [if_neg starved, Ctx.rank_of_starved hd60]; cases c.yielded <;> simp <;> omega
    · have neither : c.wait < 60 ∧ d.wait < 60 := by omega
      rw [if_pos neither, Ctx.rank_of_not_starved hd60]
      cases c.yielded <;> cases d.yielded <;> simp [Nat.le_of_lt hhw]

section
variable {s a b : State} {core u v : Nat} {cu cv : Ctx} {mu mv : BitVec 8} {su sv : Bool} {bu bv : List Nat}
  (hs : s.ctxs = [(u, cu), (v, cv)]) (huv : u ≠ v) (hcu : cu.core = core) (hcv : cv.core = core) (hhw : cu.hw < cv.hw)
include hs

theorem State.ctx_of_pair_left : s.ctx u = cu := by simp [State.ctx, hs, mget_cons]

include huv in
theorem State.ctx_of_pair_right : s.ctx v = cv := by simp [State.ctx, hs, mget_cons, huv]

include hcu hcv in
theorem State.liveCores_of_pair : s.liveCores = [core] := by
  simp [State.liveCores, hs, hcu, hcv, sortBy, insertBy, List.eraseDups_cons]

include hcu hcv hhw in
theorem State.bound_of_pair (hu : s.active u = true) (hv : s.active v = true) : s.bound core = [u, v] := by
  simp [State.bound, hs, hcu, hcv, hu, hv, sortBy, insertBy, Nat.le_of_lt hhw]

include huv hcu hcv hhw in
/-- The bundle of the context that ranks first issues; that of the other does too where they do not clash, and else it waits. -/
theorem State.issueCore_of_pair (hpu : s.plan u = .issues a mu su bu) (hpv : s.plan v = .issues b mv sv bv) :
    s.issueCore core =
      if ranksBefore cu cv then
        (if collide (mu, su, bu) (mv, sv, bv) then a.bumpWait v else a.carryOut v)
      else
        (if collide (mv, sv, bv) (mu, su, bu) then b.bumpWait u else b.carryOut u) := by
  unfold State.issueCore
  rw [State.bound_of_pair hs hcu hcv hhw (State.active_of_issues hpu) (State.active_of_issues hpv)]
  simp only [List.map_cons, List.map_nil, hpu, hpv, Plan.shape, Option.map_some, List.filterMap_cons, List.filterMap_nil,
    sortBy, insertBy, State.ctx_of_pair_left hs, State.ctx_of_pair_right hs huv]
  cases ranksBefore cu cv <;> simp only [if_true, if_false, Bool.false_eq_true]
  · cases hc : collide (mv, sv, bv) (mu, su, bu) <;>
      simp [hc, huv, huv.symm, State.carryOut_of_issues hpv]
  · cases hc : collide (mu, su, bu) (mv, sv, bv) <;>
      simp [hc, huv, huv.symm, State.carryOut_of_issues hpu]

end

theorem contextsShareTheIssueStage : Sys2Proof.Claim.ContextsShareTheIssueStage := by
  intro s core u v cu cv a b mu mv su sv bu bv hs huv hcu hcv hhw hwu hwv hpu hpv clash first waits
  have hclash : collide (mu, su, bu) (mv, sv, bv) = true ↔ clash := collide_iff ..
  have hclash' : collide (mv, sv, bv) (mu, su, bu) = true ↔ clash := collide_comm (mu, su, bu) _ ▸ hclash
  have hfirst : ranksBefore cu cv = true ↔ first := ranksBefore_iff hhw hwu hwv
  have hexec : exec .bundleIssue s = .next { s.issueCore core with issued := true } := by
    simp [exec, execBundleIssue, State.liveCores_of_pair hs hcu hcv]
  rw [hexec, State.issueCore_of_pair hs huv hcu hcv hhw hpu hpv]
  refine ⟨fun hc hf => ?_, fun hc hf => ?_, fun hc hf t m so l ht => ?_, fun hc hf t m so l ht => ?_⟩
  · rw [if_pos (hfirst.mpr hf), if_pos (hclash.mpr hc)]; rfl
  · rw [if_neg ((not_congr hfirst).mpr hf), if_pos (hclash'.mpr hc)]; rfl
  · rw [if_pos (hfirst.mpr hf), if_neg ((not_congr hclash).mpr hc), State.carryOut_of_issues ht]
  · rw [if_neg ((not_congr hfirst).mpr hf), if_neg ((not_congr hclash').mpr hc), State.carryOut_of_issues ht]

/-! ### Fetch (R174, R177) -/

/-- The address of the line that comes next: that of the PC, or the one after the last line. -/
theorem Ctx.nextLine_of_room {c : Ctx} {a : Nat} (hroom : c.fq.length < 4) (hempty : c.fq = [] → a = c.pc / 256 * 256)
    (hlast : ∀ l, c.fq.getLast? = some l → a = (l.base + 256) % 2 ^ 64) : c.nextLine = some a := by
  unfold Ctx.nextLine
  cases hl : c.fq.getLast? with
  | none => simp [lineOf, hempty (List.getLast?_eq_none_iff.mp hl)]
  | some l => simp [hroom, hlast l hl]

theorem Ctx.nextLine_of_full {c : Ctx} (h : 4 ≤ c.fq.length) : c.nextLine = none := by
  unfold Ctx.nextLine
  cases hl : c.fq.getLast? with
  | none => simp [List.getLast?_eq_none_iff.mp hl] at h
  | some l => simp [h]

theorem State.readLine_base (s : State) (ws : List (BitVec 64 × BitVec 64)) (a : Nat) : (s.readLine ws a).base = a := by
  unfold State.readLine; split <;> rfl

theorem State.readLine_of_outside (s : State) {ws : List (BitVec 64 × BitVec 64)} {a : Nat} (h : windowPa ws 0 a = none) :
    (s.readLine ws a).outside = true := by
  rw [State.readLine, h]

theorem State.readLine_of_window (s : State) {ws : List (BitVec 64 × BitVec 64)} {a pa : Nat} (h : windowPa ws 0 a = some pa) :
    (s.readLine ws a).outside = false ∧ (s.readLine ws a).data = s.readPa pa 256 := by
  rw [State.readLine, h]; exact ⟨rfl, rfl⟩

theorem fetchLinesArriveInOrder : Sys2Proof.Claim.FetchLinesArriveInOrder := by
  intro s u a hlife hres hat c
  refine ⟨fun hfull => ?full, fun hroom hempty hlast => ?room⟩
  case full =>
    show execFetchLineArrival u s = .next s
    simp only [execFetchLineArrival, Ctx.nextLine_of_full (c := s.ctx u) (Nat.le_of_eq hfull.symm)]
  case room =>
    have hn : (s.ctx u).nextLine = some a := Ctx.nextLine_of_room hroom hempty hlast
    have hdue : s.fetchDue u = true := by simp [State.fetchDue, hlife, hres, hat, hn]
    let l := s.readLine (s.kernel c.kernel).windows a
    refine ⟨(s.setCtx u { c with fq := c.fq ++ [l], fetchAt := s.cycle + 1 + s.free }).draw, l, ?_, ?_, ?_,
      s.readLine_base _ a, fun _ => rfl, fun v hv => ?_, rfl, s.readLine_of_outside, fun _ => s.readLine_of_window⟩
    · show execFetchLineArrival u s = _
      simp only [execFetchLineArrival, hn, hdue, if_true]
      rfl
    · simp
    · simp; omega
    · simp [State.setCtx_ctx_ne _ _ _ _ hv]

/-! ### The settled statement -/

/-- Settles O39: the two contexts are ranked and told apart by `collide`, and the line that comes next is read where it stands. -/
theorem contextsShareIssueAndFetch : Obligations.ContextsShareIssueAndFetch := by
  unfold Obligations.ContextsShareIssueAndFetch
  exact ⟨contextsShareTheIssueStage, fetchLinesArriveInOrder⟩

end Sys2Proof.Machine

/-! ## Lemmas of the proofs: the contact sheet -/

namespace Sys2Proof.Machine

/-! ### A result of a stopped context (R212, R213) -/

theorem State.endWrites_of_none {s : State} (h : s.ends = []) : s.endWrites = s := by
  unfold State.endWrites
  rw [h]
  show ({ s with ends := [] } : State) = s
  rw [← h]

/-- With one result due, and nothing else, RESULT_WRITEBACK hands on that result, whatever its context's life. -/
theorem execResultWriteback_of_sole {s : State} {r : Res} (he : s.ends = []) (hr : s.inflight = [r]) (hd : r.due ≤ s.cycle)
    (hl : r.isLatch = false) :
    execResultWriteback s = .next (({ s with inflight := [] } : State).writeBack r) := by
  have hdue : Res.due? s.cycle r = true := by simp [Res.due?, hd, hl]
  simp [execResultWriteback, State.endWrites_of_none he, hr, hdue, sortBy, insertBy]

theorem State.writeBack_of_stopped {s : State} {r : Res} (h : (s.ctx r.ctx).life = .frozen ∨ (s.ctx r.ctx).life = .trapped) :
    s.writeBack r = s.setCtx r.ctx
      { s.ctx r.ctx with sheet := (s.ctx r.ctx).sheet ++ [r.entry (s.ctx r.ctx).frozenAt] } := by
  rcases h with h | h <;> simp only [State.writeBack, h]

theorem stoppedResultReachesSheet {s : State} {r : Res} (he : s.ends = []) (hr : s.inflight = [r]) (hd : r.due ≤ s.cycle)
    (hl : r.isLatch = false) (hlife : (s.ctx r.ctx).life = .frozen ∨ (s.ctx r.ctx).life = .trapped) :
    ∃ t, exec .resultWriteback s = .next t ∧ t.inflight = [] ∧ MemSame s t ∧ OthersSame r.ctx s t ∧
      t.ctx r.ctx =
        { s.ctx r.ctx with sheet := (s.ctx r.ctx).sheet ++ [r.entry (s.ctx r.ctx).frozenAt] } := by
  have hw := State.writeBack_of_stopped (s := { s with inflight := [] }) hlife
  refine ⟨_, execResultWriteback_of_sole he hr hd hl, ?_⟩
  rw [hw]
  exact ⟨rfl, fun _ => rfl, fun v hv => State.setCtx_ctx_ne _ _ _ _ hv, State.setCtx_ctx_same _ _ _⟩

/-! ### What a written result leaves unchanged -/

theorem State.clean_ends (s : State) (a n : Nat) : (s.clean a n).ends = s.ends := by unfold State.clean; split <;> rfl
theorem State.clean_inflight (s : State) (a n : Nat) : (s.clean a n).inflight = s.inflight := by
  unfold State.clean; split <;> rfl

theorem State.land_ends (s : State) (u : Nat) (x : RVal) (f : Flags) : (s.land u x f).ends = s.ends := by
  unfold State.land
  cases x <;> simp only [State.setCtx_ends]
  split <;> simp only [State.clean_ends, State.setCtx_ends]

theorem State.land_inflight (s : State) (u : Nat) (x : RVal) (f : Flags) : (s.land u x f).inflight = s.inflight := by
  unfold State.land
  cases x <;> simp only [State.setCtx_inflight]
  split <;> simp only [State.clean_inflight, State.setCtx_inflight]

@[simp] theorem Ctx.orFlags_zero (c : Ctx) : c.orFlags 0 = c := by simp [Ctx.orFlags]

/-- A scalar result changes the S registers alone. -/
theorem Ctx.writeRes_s_eq (c : Ctx) (n : BitVec 6) (x : BitVec 64) :
    c.writeRes (.s n x) = { c with sr := (c.writeRes (.s n x)).sr } := by
  simp only [Ctx.writeRes]
  split <;> rfl

/-- A V result, bit by bit: the masked bits of its register are written (R124). -/
theorem Ctx.writeRes_v_getLsbD (c : Ctx) (n : Nat) (val mask : BitVec 4096) (ty : ETy) (m : Nat) {j : Nat} (hj : j < 4096) :
    (mget 0#4096 (c.writeRes (.v n val mask ty)).v m).getLsbD j =
      if m = n ∧ mask.getLsbD j = true then val.getLsbD j else (mget 0#4096 c.v m).getLsbD j := by
  have hw : mget 0#4096 (c.writeRes (.v n val mask ty)).v m =
      if m = n then (mget 0#4096 c.v n &&& ~~~mask) ||| (val &&& mask) else mget 0#4096 c.v m := mget_mset _ _ _ _ _
  rw [hw]
  by_cases hm : m = n
  · subst hm
    rw [if_pos rfl, BitVec.getLsbD_or, BitVec.getLsbD_and, BitVec.getLsbD_and, BitVec.getLsbD_not]
    cases mask.getLsbD j <;> simp [hj]
  · simp [hm]

/-! ### The entries that are due (R217) -/

theorem mem_insertBy {β : Type} {le : β → β → Bool} {x y : β} {l : List β} : y ∈ insertBy le x l ↔ y = x ∨ y ∈ l := by
  induction l with
  | nil => simp [insertBy]
  | cons z l ih =>
    by_cases h : le x z = true
    · simp [insertBy, h]
    · simp [insertBy, h, ih, or_left_comm]

theorem mem_sortBy {β : Type} {le : β → β → Bool} {y : β} {l : List β} : y ∈ sortBy le l ↔ y ∈ l := by
  induction l with
  | nil => simp [sortBy]
  | cons x l ih => simp [sortBy, mem_insertBy, ih]

theorem State.sheetDue_of_empty {s : State} {u : Nat} (b : Bool) (h : (s.ctx u).sheet = []) : s.sheetDue u b = [] := by
  simp [State.sheetDue, h, sortBy]

theorem State.sheetDue_of_live {s : State} {u : Nat} (b : Bool) (h : Live s u) :
    s.sheetDue u b = sortBy SheetEntry.before
      ((s.ctx u).sheet.filter (fun e => decide ((s.ctx u).resumeAt + e.off ≤ s.cycle) && e.isLatch == b)) :=
  if_pos (active_of_live h)

theorem State.isLatch_of_mem_sheetDue {s : State} {u : Nat} {b : Bool} {e : SheetEntry} (h : e ∈ s.sheetDue u b) :
    e.isLatch = b := by
  unfold State.sheetDue at h
  split at h
  · have hp := (List.mem_filter.mp (mem_sortBy.mp h)).2
    simp only [Bool.and_eq_true, beq_iff_eq] at hp
    exact hp.2
  · cases h

theorem mem_keys_of_mget_ne {α : Type} {d : α} {m : Map α} {k : Nat} (h : mget d m k ≠ d) : k ∈ m.map Prod.fst := by
  induction m with
  | nil => exact absurd rfl h
  | cons e l ih =>
    obtain ⟨j, v⟩ := e
    by_cases hj : j = k
    · simp [hj]
    · rw [mget_cons, if_neg hj] at h
      exact List.mem_cons_of_mem _ (ih h)

/-- A context with entries on its sheet is one that the table of contexts lists. -/
theorem State.listed_of_sheet {s : State} {u : Nat} (h : (s.ctx u).sheet ≠ []) : u ∈ s.ctxs.map Prod.fst :=
  mem_keys_of_mget_ne (d := ({} : Ctx)) fun hd => h (congrArg Ctx.sheet hd)

theorem State.replayDue_eq_none {s : State} {b : Bool} (h : ∀ v, s.sheetDue v b = []) : s.replayDue b = none := by
  simp [State.replayDue, h]

/-- Where one context alone has entries, its due entries are those replayed. -/
theorem State.replayDue_of_sole {s : State} {u : Nat} {b : Bool} (ho : ∀ v, v ≠ u → (s.ctx v).sheet = [])
    (hd : s.sheetDue u b ≠ []) : s.replayDue b = some u := by
  have hlisted : u ∈ s.ctxs.map Prod.fst := State.listed_of_sheet fun he => hd (State.sheetDue_of_empty b he)
  have hsome : (s.replayDue b).isSome = true := by
    rw [State.replayDue, List.find?_isSome]
    exact ⟨u, hlisted, by simp [hd]⟩
  obtain ⟨v, hv⟩ := Option.isSome_iff_exists.mp hsome
  have hdv : (!(s.sheetDue v b).isEmpty) = true := List.find?_some (p := fun v => !(s.sheetDue v b).isEmpty) hv
  by_cases hvu : v = u
  · rw [hv, hvu]
  · simp [State.sheetDue_of_empty b (ho v hvu)] at hdv

/-! ### The replay of a sheet (R217) -/

/-- The entries of `l` written to context `u` one after another, without their flags. -/
def State.landAll (u : Nat) (l : List SheetEntry) (s : State) : State := l.foldl (fun t e => t.land u e.val 0) s

theorem State.landAll_cons (u : Nat) (e : SheetEntry) (l : List SheetEntry) (s : State) :
    State.landAll u (e :: l) s = State.landAll u l (s.land u e.val 0) := rfl

/-- A fold whose step lands each entry of the list lands them all. -/
theorem State.foldl_eq_landAll {g : State → SheetEntry → State} {u : Nat} {l : List SheetEntry}
    (h : ∀ t, ∀ e ∈ l, g t e = t.land u e.val 0) (s : State) : l.foldl g s = State.landAll u l s := by
  induction l generalizing s with
  | nil => rfl
  | cons e l ih =>
    rw [List.foldl_cons, h s e List.mem_cons_self, State.landAll_cons]
    exact ih (fun t x hx => h t x (List.mem_cons_of_mem e hx)) _

/-- A component that no result changes is one that no list of them changes. -/
theorem State.landAll_frame {β : Type} (p : State → β) {u : Nat} (h : ∀ s x, p (State.land s u x 0) = p s)
    (l : List SheetEntry) (s : State) : p (State.landAll u l s) = p s := by
  induction l generalizing s with
  | nil => rfl
  | cons e l ih => rw [State.landAll_cons, ih, h]

theorem State.landAll_ctx_same (u : Nat) (l : List SheetEntry) (s : State) :
    (State.landAll u l s).ctx u = l.foldl (fun c e => c.writeRes e.val) (s.ctx u) := by
  induction l generalizing s with
  | nil => rfl
  | cons e l ih => rw [State.landAll_cons, ih, State.land_ctx, if_pos rfl, Ctx.orFlags_zero, List.foldl_cons]

/-- Replay at the end of a cycle takes the due entries off the sheet, writes them in order, and leaves their flags to the writes at
the end of that cycle. -/
theorem State.replay_of_due {s : State} {u : Nat} {due : List SheetEntry} (hd : s.sheetDue u false = due) :
    s.replay u false =
      { State.landAll u due (s.setCtx u { s.ctx u with sheet := (s.ctx u).sheet.filter (fun e => !(due.contains e)) }) with
        ends := s.ends ++ due.map (fun e => (u, e.slot, .flags e.flags)) } := by
  subst hd
  let s1 := s.setCtx u { s.ctx u with sheet := (s.ctx u).sheet.filter (fun e => !((s.sheetDue u false).contains e)) }
  have hstep : ∀ (t : State), ∀ e ∈ s.sheetDue u false,
      (match e.val with | .latch k S => t.latchLand u k S | v => t.land u v 0) = t.land u e.val 0 := by
    intro t e he
    have hl := State.isLatch_of_mem_sheetDue he
    cases hv : e.val with
    | latch k S => simp [SheetEntry.isLatch, hv] at hl
    | _ => rfl
  have hends : (State.landAll u (s.sheetDue u false) s1).ends = s.ends :=
    State.landAll_frame State.ends (fun t x => t.land_ends u x 0) _ s1
  rw [← hends]
  let flags := (s.sheetDue u false).map (fun e : SheetEntry => (u, e.slot, EndWrite.flags e.flags))
  exact congrArg (fun t : State => { t with ends := t.ends ++ flags }) (State.foldl_eq_landAll hstep s1)

/-- CONTACT_SHEET_REPLAY at the end of a cycle in which every entry of the one context with a sheet is due. -/
theorem execContactSheetReplay_of_sole {s : State} {u : Nat} {due : List SheetEntry} (hi : s.issued = true)
    (ho : ∀ v, v ≠ u → (s.ctx v).sheet = []) (hd : s.sheetDue u false = due) (hne : due ≠ [])
    (hall : ∀ e ∈ (s.ctx u).sheet, e ∈ due) :
    ∃ t, exec .contactSheetReplay s = .next t ∧ MemSame s t ∧ OthersSame u s t ∧ t.inflight = s.inflight ∧
      t.ends = s.ends ++ due.map (fun e => (u, e.slot, .flags e.flags)) ∧
      t.ctx u = due.foldl (fun c e => c.writeRes e.val) { s.ctx u with sheet := [] } := by
  have hrun : exec .contactSheetReplay s = .next (s.replay u false) := by
    show execContactSheetReplay s = _
    simp [execContactSheetReplay, hi, State.replayDue_of_sole ho (hd ▸ hne)]
  have hempty : (s.ctx u).sheet.filter (fun e => !(due.contains e)) = [] := by simpa using hall
  rw [State.replay_of_due hd, hempty] at hrun
  let s1 := s.setCtx u { s.ctx u with sheet := [] }
  refine ⟨_, hrun, fun a => ?mem, fun v hv => ?others, ?inflight, rfl, ?ctx⟩
  case mem =>
    exact congrArg (readByte · a) (State.landAll_frame State.mem (fun t x => t.land_mem u x 0) due s1)
  case others =>
    have hland (t : State) (x : RVal) : (t.land u x 0).ctx v = t.ctx v := by rw [State.land_ctx, if_neg hv]
    exact (State.landAll_frame (State.ctx · v) hland due s1).trans (State.setCtx_ctx_ne _ _ _ _ hv)
  case inflight => exact State.landAll_frame State.inflight (fun t x => t.land_inflight u x 0) due s1
  case ctx =>
    have hctx : (State.landAll u due s1).ctx u = _ := State.landAll_ctx_same u due s1
    rw [State.setCtx_ctx_same] at hctx
    exact hctx

/-! ### Two entries of one register, and an entry of a V register -/

/-- The older of two entries, or of two of one age the one of the lower slot, is written first (R124, R217). -/
theorem SheetEntry.before_of_older {e f : SheetEntry} (h : e.age < f.age ∨ (e.age = f.age ∧ f.slot < e.slot)) :
    SheetEntry.before f e = true ∧ SheetEntry.before e f = false := by
  simp only [SheetEntry.before, Bool.or_eq_true, Bool.or_eq_false_iff, Bool.and_eq_true, Bool.and_eq_false_iff,
    decide_eq_true_eq, decide_eq_false_iff_not, beq_iff_eq, beq_eq_false_iff_ne]
  omega

theorem sortBy_pair {β : Type} {le : β → β → Bool} {a b : β} (hab : le a b = true) (hba : le b a = false) :
    sortBy le [a, b] = [a, b] ∧ sortBy le [b, a] = [a, b] := by
  simp [sortBy, insertBy, hab, hba]

/-- Where every entry of a sheet is due and none is a latch update, all of them are replayed at the end of the cycle. -/
theorem State.sheetDue_of_all {s : State} {u : Nat} (h : Live s u)
    (hdue : ∀ e ∈ (s.ctx u).sheet, (s.ctx u).resumeAt + e.off ≤ s.cycle ∧ e.isLatch = false) :
    s.sheetDue u false = sortBy SheetEntry.before (s.ctx u).sheet := by
  rw [State.sheetDue_of_live false h, List.filter_eq_self.mpr]
  intro e he
  obtain ⟨hoff, hl⟩ := hdue e he
  simp [hoff, hl]

theorem youngerEntryLandsLater {s : State} {u : Nat} {e f : SheetEntry} {n : BitVec 6} {x y : BitVec 64}
    (hi : s.issued = true) (hlive : Live s u) (ho : ∀ v, v ≠ u → (s.ctx v).sheet = []) (he : e.val = .s n x)
    (hf : f.val = .s n y) (hage : e.age < f.age ∨ (e.age = f.age ∧ f.slot < e.slot))
    (hsheet : (s.ctx u).sheet = [e, f] ∨ (s.ctx u).sheet = [f, e])
    (hde : (s.ctx u).resumeAt + e.off ≤ s.cycle) (hdf : (s.ctx u).resumeAt + f.off ≤ s.cycle) :
    ∃ t, exec .contactSheetReplay s = .next t ∧ MemSame s t ∧ OthersSame u s t ∧ (t.ctx u).sheet = [] ∧
      (∀ m, (t.ctx u).s m = if m = 0#6 then 0#64 else if m = n then x else (s.ctx u).s m) ∧
      t.ends = s.ends ++ [(u, f.slot, .flags f.flags), (u, e.slot, .flags e.flags)] ∧
      (t.ctx u).fpstat = (s.ctx u).fpstat ∧ t.inflight = s.inflight ∧ (t.ctx u).v = (s.ctx u).v ∧
      (t.ctx u).ar = (s.ctx u).ar := by
  have hmem : ∀ g, g ∈ (s.ctx u).sheet ↔ g = f ∨ g = e := by
    intro g
    rcases hsheet with h | h <;> simp [h, or_comm]
  have hall : ∀ g ∈ (s.ctx u).sheet, (s.ctx u).resumeAt + g.off ≤ s.cycle ∧ g.isLatch = false := by
    intro g hg
    rcases (hmem g).mp hg with rfl | rfl
    · exact ⟨hdf, by simp [SheetEntry.isLatch, hf]⟩
    · exact ⟨hde, by simp [SheetEntry.isLatch, he]⟩
  have hdue : s.sheetDue u false = [f, e] := by
    obtain ⟨hfe, hef⟩ := SheetEntry.before_of_older hage
    obtain ⟨hsorted, hswapped⟩ := sortBy_pair hfe hef
    rw [State.sheetDue_of_all hlive hall]
    rcases hsheet with h | h
    · rw [h, hswapped]
    · rw [h, hsorted]
  obtain ⟨t, hrun, hm, hos, hin, hends, hctx⟩ :=
    execContactSheetReplay_of_sole hi ho hdue (by simp) (fun g hg => by simpa using (hmem g).mp hg)
  simp only [List.foldl_cons, List.foldl_nil, he, hf] at hctx
  have hregs (m : BitVec 6) : (t.ctx u).s m = if m = 0#6 then 0#64 else if m = n then x else (s.ctx u).s m := by
    have hsame : Ctx.s { s.ctx u with sheet := [] } m = (s.ctx u).s m := rfl
    rw [hctx, Ctx.writeRes_s, Ctx.writeRes_s, hsame]
    by_cases h0 : m = 0#6
    · simp only [if_pos h0]
    · by_cases hn : m = n
      · simp only [if_neg h0, if_pos hn]
      · simp only [if_neg h0, if_neg hn]
  rw [Ctx.writeRes_s_eq, Ctx.writeRes_s_eq { s.ctx u with sheet := [] }] at hctx
  exact ⟨t, hrun, hm, hos, by rw [hctx], hregs, hends, by rw [hctx], hin, by rw [hctx], by rw [hctx]⟩

theorem vectorEntryLands {s : State} {u n : Nat} {e : SheetEntry} {val mask : BitVec 4096} {ty : ETy} (hi : s.issued = true)
    (hlive : Live s u) (ho : ∀ v, v ≠ u → (s.ctx v).sheet = []) (he : e.val = .v n val mask ty) (hsheet : (s.ctx u).sheet = [e])
    (hd : (s.ctx u).resumeAt + e.off ≤ s.cycle) :
    ∃ t, exec .contactSheetReplay s = .next t ∧ MemSame s t ∧ OthersSame u s t ∧
      (t.ctx u).sheet = [] ∧ (t.ctx u).sr = (s.ctx u).sr ∧ t.ends = s.ends ++ [(u, e.slot, .flags e.flags)] ∧
      (t.ctx u).fpstat = (s.ctx u).fpstat ∧ t.inflight = s.inflight ∧
      ∀ m j, j < 4096 → (mget 0#4096 (t.ctx u).v m).getLsbD j =
        if m = n ∧ mask.getLsbD j = true then val.getLsbD j else (mget 0#4096 (s.ctx u).v m).getLsbD j := by
  have hdue : s.sheetDue u false = [e] := by
    rw [State.sheetDue_of_all hlive (by simp [hsheet, hd, SheetEntry.isLatch, he]), hsheet]
    rfl
  obtain ⟨t, hrun, hm, hos, hin, hends, hctx⟩ := execContactSheetReplay_of_sole hi ho hdue (by simp) (by simp [hsheet])
  simp only [List.foldl_cons, List.foldl_nil, he] at hctx
  refine ⟨t, hrun, hm, hos, by rw [hctx]; rfl, by rw [hctx]; rfl, hends, by rw [hctx]; rfl, hin, fun m j hj => ?_⟩
  rw [hctx]
  exact Ctx.writeRes_v_getLsbD _ n val mask ty m hj

/-- An entry whose cycle is to come stays on its sheet. -/
theorem earlyEntryWaits {s : State} {u : Nat} {e : SheetEntry} (ho : ∀ v, v ≠ u → (s.ctx v).sheet = [])
    (hsheet : (s.ctx u).sheet = [e]) (hd : s.cycle < (s.ctx u).resumeAt + e.off) : exec .contactSheetReplay s = .next s := by
  have hnone (v : Nat) : s.sheetDue v (!s.issued) = [] := by
    by_cases hv : v = u
    · have hoff : ¬ (s.ctx v).resumeAt + e.off ≤ s.cycle := by rw [hv]; omega
      rw [← hv] at hsheet
      simp [State.sheetDue, hsheet, hoff, sortBy]
    · exact State.sheetDue_of_empty _ (ho v hv)
  show execContactSheetReplay s = _
  rw [execContactSheetReplay, State.replayDue_eq_none hnone]

/-! ### The settled statement -/

/-- Settles O37: a stopped context's result is appended to its sheet, and the due entries of a sheet are written in order of age. -/
theorem stoppedResultsWaitOnTheSheet : Obligations.StoppedResultsWaitOnTheSheet := by
  unfold Obligations.StoppedResultsWaitOnTheSheet
  refine ⟨?stopped, ?ordered, ?vector⟩
  case stopped =>
    intro s r he hr hd hl hlife
    exact stoppedResultReachesSheet he hr hd hl hlife
  case ordered =>
    intro s u e f n x y hi hlive ho he hf hage hsheet hde hdf
    exact youngerEntryLandsLater hi hlive ho he hf hage hsheet hde hdf
  case vector =>
    intro s u e n val mask ty hi hlive ho he hsheet
    exact ⟨vectorEntryLands hi hlive ho he hsheet, earlyEntryWaits ho hsheet⟩

end Sys2Proof.Machine
